-- ==== Sys2Proof/Word.lean ====
section
/-! DEFINITION. The word types of the engine and the plainest conversions between numbers and bytes (R9, R10). -/

set_option Elab.async false

namespace Sys2Proof

/-- One byte of a store, a payload or a frame. -/
abbrev Byte := BitVec 8

/-- One general register of a pattern sequencer (R360). -/
abbrev Word64 := BitVec 64

/-- A 512-bit command header or pattern word (R78, R366). -/
abbrev Word512 := BitVec 512

end Sys2Proof
end

