-- ==== Sys2Proof/Frame.lean ====
section
/-! DEFINITION. The operand types of the rows: runner frames, page accesses and the addresses AAP messages come from. -/

set_option Elab.async false

namespace Sys2Proof.Machine

/-- The 32-byte runner header and what follows it (R197, R199); Sequence, Epoch, Retry and AckNow are written as it is sent. -/
structure RFrame where
  version : Nat := 1
  cls : Nat
  epoch : Nat := 0
  close : Bool := false
  ret : Bool := false
  store : Bool := false
  retry : Bool := false
  ackNow : Bool := false
  src : Nat
  dst : Nat
  ctx : Nat := 0
  heat : Nat := 0
  seq : Nat := 0
  window : Nat := 0
  offset : Nat := 0
  length : Nat := 0
  op : Nat := 0
  aux : Nat := 0
  headerCrc : Nat := 0
  payload : List Byte := []
  trailer : Nat := 0
deriving DecidableEq, Repr

/-- What PRT saw around an arriving frame: port, raw or switched, bytes with FCS, priority, CE mark, a UDP checksum that failed, IPv6 source and UDP source port (R256 to R259). -/
structure Rx where
  port : Nat
  raw : Bool := false
  bytes : Nat := 0
  pcp : Nat := 0
  ce : Bool := false
  udpBad : Bool := false
  ipSrc : Nat := 0
  udpSrc : Nat := 0
  /-- It waited for a directory fetch and is counted already (R249); an arrival row clears this. -/
  again : Bool := false
deriving DecidableEq, Repr

/-- Where an answer of AAP goes (R527 to R532). -/
inductive AapDest where
  /-- UDP: source address, source UDP port, Ethernet port (63 the management field network), VLAN. -/
  | udp (addr port ether vlan : Nat)
  | mctp (endpoint tag : Nat)
  | relay (node : Nat)
  | ring (uid : Nat)
deriving DecidableEq, Repr

/-- An access to the page region on NoC port 0 (R71, R542): offset, host tag (bit 4 valid), width in bits, write value. -/
structure PageAccess where
  offset : Nat
  hostTag : Nat
  width : Nat
  write : Option Nat
deriving DecidableEq, Repr

end Sys2Proof.Machine
end

