-- ==== Sys2Proof/Syntax.lean ====
section
/-! DEFINITION. The commands and events of the block: one constructor for each row of the table. -/

set_option Elab.async false

namespace Sys2Proof

open Sys2Proof.Machine in
/-- One row of spec/opcode_table.json with its operands. A ring is 64 · channel + ring; a principal is a host, or 16 for board management. -/
inductive Instr where
  /-- RUN (R364). -/
  | run (ring : Nat) (h : Word512) (payload : List Byte)
  /-- DISPATCH (R85). -/
  | dispatch (ring : Nat) (h : Word512) (payload : List Byte)
  /-- COPY (R408). -/
  | copy (ring : Nat) (h : Word512) (payload : List Byte)
  /-- FENCE (R93). -/
  | fence (ring : Nat) (h : Word512) (payload : List Byte)
  /-- CANCEL (R95). -/
  | cancel (ring : Nat) (h : Word512) (payload : List Byte)
  /-- TALLY_READ (R76). -/
  | tallyRead (ring : Nat) (h : Word512) (payload : List Byte)
  /-- TALLY_SET (R323). -/
  | tallySet (ring : Nat) (h : Word512) (payload : List Byte)
  /-- TALLY_ADD (R323). -/
  | tallyAdd (ring : Nat) (h : Word512) (payload : List Byte)
  /-- TALLY_WAIT (R328). -/
  | tallyWait (ring : Nat) (h : Word512) (payload : List Byte)
  /-- ALLREDUCE (R339). -/
  | allreduce (ring : Nat) (h : Word512) (payload : List Byte)
  /-- REDUCE (R338). -/
  | reduce (ring : Nat) (h : Word512) (payload : List Byte)
  /-- ALLGATHER (R336). -/
  | allgather (ring : Nat) (h : Word512) (payload : List Byte)
  /-- BROADCAST (R336). -/
  | broadcast (ring : Nat) (h : Word512) (payload : List Byte)
  /-- BIAS_SET (R356). -/
  | biasSet (ring : Nat) (h : Word512) (payload : List Byte)
  /-- DICT (R530). -/
  | dict (ring : Nat) (h : Word512) (payload : List Byte)
  /-- PARK (R451). -/
  | park (ring : Nat) (h : Word512) (payload : List Byte)
  /-- RLD (R223). -/
  | rld (ring : Nat) (h : Word512) (payload : List Byte)
  /-- RST (R222). -/
  | rst (ring : Nat) (h : Word512) (payload : List Byte)
  /-- LOAD (R220). -/
  | load (ring : Nat) (h : Word512) (payload : List Byte)
  /-- FETCH_ADD (R220). -/
  | fetchAdd (ring : Nat) (h : Word512) (payload : List Byte)
  /-- FETCH_AND (R220). -/
  | fetchAnd (ring : Nat) (h : Word512) (payload : List Byte)
  /-- FETCH_OR (R220). -/
  | fetchOr (ring : Nat) (h : Word512) (payload : List Byte)
  /-- FETCH_XOR (R220). -/
  | fetchXor (ring : Nat) (h : Word512) (payload : List Byte)
  /-- SWAP (R220). -/
  | swap (ring : Nat) (h : Word512) (payload : List Byte)
  /-- COMPARE_SWAP (R220). -/
  | compareSwap (ring : Nat) (h : Word512) (payload : List Byte)
  /-- FETCH_MAX_U (R220). -/
  | fetchMaxU (ring : Nat) (h : Word512) (payload : List Byte)
  /-- FETCH_MIN_U (R220). -/
  | fetchMinU (ring : Nat) (h : Word512) (payload : List Byte)
  /-- PROBE (R220). -/
  | probe (ring : Nat) (h : Word512) (payload : List Byte)
  /-- COMMAND_FETCH (R75). -/
  | commandFetch (ring : Nat)
  /-- COMPLETION_POST (R89). -/
  | completionPost (ring : Nat)
  /-- ADD (R367). -/
  | add (n : Nat) (slotB : Bool) (guard : Nat) (rd : Nat) (ra : Nat) (rb : Nat)
  /-- SUB (R367). -/
  | sub (n : Nat) (slotB : Bool) (guard : Nat) (rd : Nat) (ra : Nat) (rb : Nat)
  /-- AND (R367). -/
  | and (n : Nat) (slotB : Bool) (guard : Nat) (rd : Nat) (ra : Nat) (rb : Nat)
  /-- OR (R367). -/
  | or (n : Nat) (slotB : Bool) (guard : Nat) (rd : Nat) (ra : Nat) (rb : Nat)
  /-- XOR (R367). -/
  | xor (n : Nat) (slotB : Bool) (guard : Nat) (rd : Nat) (ra : Nat) (rb : Nat)
  /-- SHL (R367). -/
  | shl (n : Nat) (slotB : Bool) (guard : Nat) (rd : Nat) (ra : Nat) (rb : Nat)
  /-- SHR (R367). -/
  | shr (n : Nat) (slotB : Bool) (guard : Nat) (rd : Nat) (ra : Nat) (rb : Nat)
  /-- SAR (R367). -/
  | sar (n : Nat) (slotB : Bool) (guard : Nat) (rd : Nat) (ra : Nat) (rb : Nat)
  /-- MUL (R367). -/
  | mul (n : Nat) (slotB : Bool) (guard : Nat) (rd : Nat) (ra : Nat) (rb : Nat)
  /-- MINU (R367). -/
  | minu (n : Nat) (slotB : Bool) (guard : Nat) (rd : Nat) (ra : Nat) (rb : Nat)
  /-- MAXU (R367). -/
  | maxu (n : Nat) (slotB : Bool) (guard : Nat) (rd : Nat) (ra : Nat) (rb : Nat)
  /-- ADDI (R367). -/
  | addi (n : Nat) (slotB : Bool) (guard : Nat) (rd : Nat) (ra : Nat) (imm : Nat)
  /-- ANDI (R367). -/
  | andi (n : Nat) (slotB : Bool) (guard : Nat) (rd : Nat) (ra : Nat) (imm : Nat)
  /-- ORI (R367). -/
  | ori (n : Nat) (slotB : Bool) (guard : Nat) (rd : Nat) (ra : Nat) (imm : Nat)
  /-- SHLI (R367). -/
  | shli (n : Nat) (slotB : Bool) (guard : Nat) (rd : Nat) (ra : Nat) (imm : Nat)
  /-- SHRI (R367). -/
  | shri (n : Nat) (slotB : Bool) (guard : Nat) (rd : Nat) (ra : Nat) (imm : Nat)
  /-- LI (R367). -/
  | li (n : Nat) (slotB : Bool) (guard : Nat) (rd : Nat) (imm : Nat)
  /-- LIH (R367). -/
  | lih (n : Nat) (slotB : Bool) (guard : Nat) (rd : Nat) (ra : Nat) (imm : Nat)
  /-- BFX (R367). -/
  | bfx (n : Nat) (slotB : Bool) (guard : Nat) (rd : Nat) (ra : Nat) (imm : Nat)
  /-- CEQ (R367). -/
  | ceq (n : Nat) (slotB : Bool) (guard : Nat) (ra : Nat) (rb : Nat) (pd : Nat)
  /-- CNE (R367). -/
  | cne (n : Nat) (slotB : Bool) (guard : Nat) (ra : Nat) (rb : Nat) (pd : Nat)
  /-- CLTU (R367). -/
  | cltu (n : Nat) (slotB : Bool) (guard : Nat) (ra : Nat) (rb : Nat) (pd : Nat)
  /-- CLTS (R367). -/
  | clts (n : Nat) (slotB : Bool) (guard : Nat) (ra : Nat) (rb : Nat) (pd : Nat)
  /-- CEQI (R367). -/
  | ceqi (n : Nat) (slotB : Bool) (guard : Nat) (ra : Nat) (pd : Nat) (imm : Nat)
  /-- CLTUI (R367). -/
  | cltui (n : Nat) (slotB : Bool) (guard : Nat) (ra : Nat) (pd : Nat) (imm : Nat)
  /-- PAND (R367). -/
  | pand (n : Nat) (slotB : Bool) (guard : Nat) (ra : Nat) (rb : Nat) (pd : Nat)
  /-- POR (R367). -/
  | por (n : Nat) (slotB : Bool) (guard : Nat) (ra : Nat) (rb : Nat) (pd : Nat)
  /-- PNOT (R367). -/
  | pnot (n : Nat) (slotB : Bool) (guard : Nat) (ra : Nat) (pd : Nat)
  /-- RDS (R367). -/
  | rds (n : Nat) (slotB : Bool) (guard : Nat) (rd : Nat) (imm : Nat)
  /-- LDT (R369). -/
  | ldt (n : Nat) (slotB : Bool) (guard : Nat) (rd : Nat) (ra : Nat)
  /-- LDM (R369). -/
  | ldm (n : Nat) (slotB : Bool) (guard : Nat) (rd : Nat) (ra : Nat) (imm : Nat)
  /-- STM (R369). -/
  | stm (n : Nat) (slotB : Bool) (guard : Nat) (ra : Nat) (rb : Nat) (imm : Nat)
  /-- NOP (R366). -/
  | nop (n : Nat) (guard : Nat)
  /-- BR (R370). -/
  | br (n : Nat) (guard : Nat) (target : Nat)
  /-- CALL (R370). -/
  | call (n : Nat) (guard : Nat) (target : Nat)
  /-- RET (R370). -/
  | ret (n : Nat) (guard : Nat)
  /-- WAIT (R371). -/
  | wait (n : Nat) (guard : Nat) (tallyA : Nat) (threshA : Nat) (tallyB : Nat) (threshB : Nat) (combine : Nat)
  /-- END (R372). -/
  | endPattern (n : Nat) (guard : Nat)
  /-- TRAP (R370). -/
  | trap (n : Nat) (guard : Nat) (code : Nat)
  /-- SCORE (R374). -/
  | score (n : Nat) (guard : Nat) (tallyEnable : Nat) (tallyReg : Nat)
  /-- SELECT_ARM (R375). -/
  | selectArm (n : Nat) (guard : Nat)
  /-- ARM_LEVEL (R375). -/
  | armLevel (n : Nat) (guard : Nat) (level : Nat)
  /-- POUR_ARM (R376). -/
  | pourArm (n : Nat) (guard : Nat) (tallyEnable : Nat) (tallyReg : Nat)
  /-- STITCH_OPEN (R377). -/
  | stitchOpen (n : Nat) (guard : Nat) (tallyReg : Nat)
  /-- STITCH_SHARED (R377). -/
  | stitchShared (n : Nat) (guard : Nat) (descReg : Nat)
  /-- TALLY_SLOT_ADD (R378). -/
  | tallySlotAdd (n : Nat) (guard : Nat) (tallyReg : Nat) (valueReg : Nat)
  /-- TALLY_SLOT_SET (R378). -/
  | tallySlotSet (n : Nat) (guard : Nat) (tallyReg : Nat) (valueReg : Nat)
  /-- TALLY_SLOT_ADDI (R378). -/
  | tallySlotAddi (n : Nat) (guard : Nat) (tallyReg : Nat) (imm : Nat)
  /-- COPY_ISSUE (R379). -/
  | copyIssue (n : Nat) (guard : Nat) (descReg : Nat) (countM1 : Nat) (doneEnable : Nat) (doneReg : Nat)
  /-- READ (R517). -/
  | read (dest : AapDest) (message : List Byte)
  /-- WRITE (R517). -/
  | write (dest : AapDest) (message : List Byte)
  /-- DESCRIBE (R517). -/
  | describe (dest : AapDest) (message : List Byte)
  /-- NEXT (R517). -/
  | next (dest : AapDest) (message : List Byte)
  /-- SUBSCRIBE (R532). -/
  | subscribe (dest : AapDest) (message : List Byte)
  /-- UNSUBSCRIBE (R534). -/
  | unsubscribe (dest : AapDest) (message : List Byte)
  /-- SET_ENDPOINT_ID (R529). -/
  | setEndpointId (source : Nat) (tag : Nat) (iid : Nat) (eid : Nat)
  /-- GET_ENDPOINT_ID (R529). -/
  | getEndpointId (source : Nat) (tag : Nat) (iid : Nat)
  /-- GET_MCTP_VERSION_SUPPORT (R529). -/
  | getMctpVersionSupport (source : Nat) (tag : Nat) (iid : Nat)
  /-- GET_MESSAGE_TYPE_SUPPORT (R529). -/
  | getMessageTypeSupport (source : Nat) (tag : Nat) (iid : Nat)
  /-- SUBMIT_TAIL (R73). -/
  | submitTail (a : PageAccess)
  /-- COMPLETION_HEAD (R72). -/
  | completionHead (a : PageAccess)
  /-- POP (R291). -/
  | pop (a : PageAccess)
  /-- MARK (R291). -/
  | mark (a : PageAccess)
  /-- REWIND (R291). -/
  | rewind (a : PageAccess)
  /-- RELEASE (R291). -/
  | release (a : PageAccess)
  /-- TALLY_PAGE_ADD (R324). -/
  | tallyPageAdd (a : PageAccess)
  /-- WATCH (R332). -/
  | watch (a : PageAccess)
  /-- ALLOC (R393). -/
  | alloc (a : PageAccess)
  /-- FREE (R396). -/
  | free (a : PageAccess)
  /-- RING_ENABLE (R69). -/
  | ringEnable (p : Nat) (ring : Nat)
  /-- RING_DISABLE (R70). -/
  | ringDisable (p : Nat) (ring : Nat)
  /-- PLAN_LOAD_GO (R164). -/
  | planLoadGo (p : Nat) (host : Nat) (planId : Nat)
  /-- PLAN_IMAGE_READ_DONE (R164). -/
  | planImageReadDone (host : Nat)
  /-- KEY_LOAD_DONE (R104). -/
  | keyLoadDone (host : Nat)
  /-- PLAN_UNLOAD (R173). -/
  | planUnload (p : Nat) (host : Nat) (planId : Nat)
  /-- PLAN_FREE (R173). -/
  | planFree (planId : Nat)
  /-- PATTERN_LOAD_GO (R363). -/
  | patternLoadGo (p : Nat) (host : Nat) (patternId : Nat)
  /-- PATTERN_LOAD_DONE (R363). -/
  | patternLoadDone (host : Nat)
  /-- PATTERN_UNLOAD (R364). -/
  | patternUnload (p : Nat) (host : Nat) (patternId : Nat)
  /-- PATTERN_FREE (R364). -/
  | patternFree (patternId : Nat)
  /-- TABLE_LOAD_GO (R233). -/
  | tableLoadGo (p : Nat) (version : Nat)
  /-- TABLE_LOAD_DONE (R233). -/
  | tableLoadDone (version : Nat)
  /-- ACTIVE_VERSION (R233). -/
  | activeVersion (p : Nat) (version : Nat)
  /-- VERSION_FREE (R233). -/
  | versionFree (p : Nat) (version : Nat)
  /-- PEER_JOIN (R245). -/
  | peerJoin (p : Nat)
  /-- PEER_LEAVE (R248). -/
  | peerLeave (p : Nat)
  /-- PEER_DECLARE_DEAD (R215). -/
  | peerDeclareDead (p : Nat)
  /-- PORT_ENABLE (R268). -/
  | portEnable (p : Nat) (port : Nat)
  /-- PORT_DISABLE (R268). -/
  | portDisable (p : Nat) (port : Nat)
  /-- SURVEY_GO (R263). -/
  | surveyGo (p : Nat)
  /-- SURVEY_WAIT_EXPIRY (R264). -/
  | surveyWaitExpiry
  /-- LINK_EVENT_CLEAR (R556). -/
  | linkEventClear (p : Nat)
  /-- WATCH_SESSION (R162). -/
  | watchSession (p : Nat) (watch : Nat) (session : Nat)
  /-- MASK_APPLY_STEP (R157). -/
  | maskApplyStep (p : Nat) (planId : Nat) (step : Nat)
  /-- GROUP_ENABLE (R333). -/
  | groupEnable (p : Nat) (group : Nat)
  /-- GROUP_LIST_READ_DONE (R333). -/
  | groupListReadDone (group : Nat)
  /-- BALANCE_ENABLE (R349). -/
  | balanceEnable (p : Nat) (balance : Nat)
  /-- REJOIN (R355). -/
  | rejoin (p : Nat) (balance : Nat)
  /-- SNAPSHOT_GO (R356). -/
  | snapshotGo (p : Nat)
  /-- EXC_RESUME (R385). -/
  | excResume (p : Nat) (n : Nat)
  /-- EXC_SKIP (R385). -/
  | excSkip (p : Nat) (n : Nat)
  /-- EXC_KILL (R385). -/
  | excKill (p : Nat) (n : Nat)
  /-- HOST_ENABLE (R425). -/
  | hostEnable (p : Nat) (host : Nat) (value : Nat)
  /-- CONTEXT_DEFINE (R430). -/
  | contextDefine (p : Nat) (x : Nat)
  /-- CONTEXT_UNDEFINE (R431). -/
  | contextUndefine (p : Nat) (x : Nat)
  /-- CONTEXT_RESET (R548). -/
  | contextReset (p : Nat) (x : Nat)
  /-- ACCOUNTING_CLEAR (R457). -/
  | accountingClear (p : Nat) (x : Nat)
  /-- HOST_ACCOUNTING_CLEAR (R457). -/
  | hostAccountingClear (p : Nat) (host : Nat)
  /-- WIN_ENABLE (R413). -/
  | winEnable (p : Nat) (window : Nat)
  /-- WIN_DISABLE (R416). -/
  | winDisable (p : Nat) (window : Nat)
  /-- OWNER_FLUSH (R419). -/
  | ownerFlush (p : Nat) (table : Nat)
  /-- CHECK_GO (R421). -/
  | checkGo (p : Nat) (channel : Nat)
  /-- CHECK_RUN_END (R422). -/
  | checkRunEnd (channel : Nat)
  /-- FAULT_CLEAR (R462). -/
  | faultClear (p : Nat) (unit : Nat) (mask : Nat)
  /-- FIRST_ERROR_REARM (R463). -/
  | firstErrorRearm (p : Nat) (unit : Nat)
  /-- HISTORY_DRAIN (R464). -/
  | historyDrain (p : Nat) (unit : Nat)
  /-- FAULT_ACK (R469). -/
  | faultAck (p : Nat) (unit : Nat) (slot : Nat)
  /-- HOST_FAULT_ACK (R469). -/
  | hostFaultAck (p : Nat) (host : Nat) (value : Nat)
  /-- FATAL_STOP_NOW (R470). -/
  | fatalStopNow (p : Nat)
  /-- PROMOTE_COUNT (R461). -/
  | promoteCount (p : Nat) (window : Bool) (source : Nat) (value : Nat)
  /-- INJECT_GO (R479). -/
  | injectGo (p : Nat)
  /-- KEY_SLOT (R519). -/
  | keySlot (p : Nat) (second : Bool) (principal : Nat) (key : Nat)
  /-- KEY_REVOKE (R519). -/
  | keyRevoke (p : Nat) (principal : Nat) (mask : Nat)
  /-- PEER_WAKE_TOLERANCE (R493). -/
  | peerWakeTolerance (p : Nat) (ticks : Nat)
  /-- WAKE_NOW (R490). -/
  | wakeNow (p : Nat)
  /-- ENGINE_RUN (R544). -/
  | engineRun (p : Nat)
  /-- UNIT_HALT (R544). -/
  | unitHalt (p : Nat) (units : Nat)
  /-- UNIT_HALTED (R544). -/
  | unitHalted (unit : Nat)
  /-- DICTIONARY_WRITE (R511). -/
  | dictionaryWrite (p : Nat) (ix : Nat) (sub : Nat) (inst : Nat) (len : Nat) (value : Nat)
  /-- COLD_RESET (R547). -/
  | coldReset (pin : Bool)
  /-- BOOT_READY (R550). -/
  | bootReady
  /-- WARM_RESET (R546). -/
  | warmReset
  /-- PORT_RESET (R549). -/
  | portReset (port : Nat) (pin : Bool)
  /-- MAIN_GOOD_FALL (R539). -/
  | mainGoodFall
  /-- MAIN_GOOD_RISE (R539). -/
  | mainGoodRise
  /-- KRD_WAKE (R490). -/
  | krdWake
  /-- FEED_SWITCH_OVER (R484). -/
  | feedSwitchOver (keepBGood : Bool)
  /-- FEED_RETURN (R485). -/
  | feedReturn
  /-- KEEPER_FEED_LOSS (R482). -/
  | keeperFeedLoss
  /-- LINK_UP (R268). -/
  | linkUp (port : Nat)
  /-- LINK_DOWN (R269). -/
  | linkDown (port : Nat)
  /-- FEC_DEGRADE (R268). -/
  | fecDegrade (port : Nat) (corrected : Nat) (bad : Nat)
  /-- DISPATCH_COPY_FRAME (R278). -/
  | dispatchCopyFrame (rx : Rx) (f : RFrame)
  /-- POUR_CLOSE_FRAME (R283). -/
  | pourCloseFrame (rx : Rx) (f : RFrame)
  /-- RETURN_ANSWER_FRAME (R304). -/
  | returnAnswerFrame (rx : Rx) (f : RFrame)
  /-- REMOTE_STORE_FRAME (R204). -/
  | remoteStoreFrame (rx : Rx) (f : RFrame)
  /-- ATOMIC_FRAME (R226). -/
  | atomicFrame (rx : Rx) (f : RFrame)
  /-- REPLY_FRAME (R227). -/
  | replyFrame (rx : Rx) (f : RFrame)
  /-- ACK_FRAME (R216). -/
  | ackFrame (rx : Rx) (f : RFrame)
  /-- HOP_CREDIT_FRAME (R239). -/
  | hopCreditFrame (rx : Rx) (f : RFrame)
  /-- COLL_SEGMENT (R344). -/
  | collSegment (rx : Rx) (f : RFrame)
  /-- COLL_REPORT (R345). -/
  | collReport (rx : Rx) (f : RFrame)
  /-- COLL_COMMIT (R345). -/
  | collCommit (rx : Rx) (f : RFrame)
  /-- COLL_ABORT (R346). -/
  | collAbort (rx : Rx) (f : RFrame)
  /-- COLL_LAUNCH (R348). -/
  | collLaunch (group : Nat)
  /-- JOIN (R245). -/
  | join (rx : Rx) (f : RFrame)
  /-- JOIN_ACK (R245). -/
  | joinAck (rx : Rx) (f : RFrame)
  /-- LEAVE (R248). -/
  | leave (rx : Rx) (f : RFrame)
  /-- LEAVE_ACK (R248). -/
  | leaveAck (rx : Rx) (f : RFrame)
  /-- SLEEP (R494). -/
  | sleep (rx : Rx) (f : RFrame)
  /-- SLEEP_ACK (R494). -/
  | sleepAck (rx : Rx) (f : RFrame)
  /-- AWAKE (R494). -/
  | awake (rx : Rx) (f : RFrame)
  /-- AWAKE_ACK (R494). -/
  | awakeAck (rx : Rx) (f : RFrame)
  /-- AWAKE_REFUSED (R495). -/
  | awakeRefused (rx : Rx) (f : RFrame)
  /-- AAP_RELAY (R528). -/
  | aapRelay (rx : Rx) (f : RFrame)
  /-- SURVEY_PROBE (R264). -/
  | surveyProbe (rx : Rx) (f : RFrame)
  /-- SURVEY_REPLY (R264). -/
  | surveyReply (rx : Rx) (f : RFrame)
  /-- ICMPV6_TIME_EXCEEDED (R264). -/
  | icmpv6TimeExceeded (port : Nat) (source : Nat) (udpSource : Nat) (hop : Nat)
  /-- TRANSIT_FRAME (R237). -/
  | transitFrame (rx : Rx) (f : RFrame)
  /-- PFC_FRAME (R265). -/
  | pfcFrame (rx : Rx) (enable : Nat) (quanta : List Nat)
  /-- PAUSE_FRAME (R255). -/
  | pauseFrame (rx : Rx)
  /-- PFC_PAUSE_EXPIRY (R265). -/
  | pfcPauseExpiry (port : Nat) (prio : Nat)
  /-- FRAME_START (R234). -/
  | frameStart (port : Nat)
  /-- ACK_SEND (R212). -/
  | ackSend (node : Nat)
  /-- ACK_HOLD_EXPIRY (R212). -/
  | ackHoldExpiry (node : Nat) (cls : Nat) (seq : Nat)
  /-- RETRANSMIT_TIMEOUT (R213). -/
  | retransmitTimeout (node : Nat) (cls : Nat) (seq : Nat)
  /-- SETTLE_LIMIT_EXPIRY (R215). -/
  | settleLimitExpiry (node : Nat) (cls : Nat) (seq : Nat)
  /-- ATOMIC_RETRY_TIMEOUT (R227). -/
  | atomicRetryTimeout (node : Nat) (seq : Nat)
  /-- CREDIT_RELEASE (R225). -/
  | creditRelease (node : Nat)
  /-- REPLY_CACHE_EXPIRY (R224). -/
  | replyCacheExpiry
  /-- FRAME_LIFE_EXPIRY (R235). -/
  | frameLifeExpiry (port : Nat)
  /-- INCARNATION_QUIET_END (R243). -/
  | incarnationQuietEnd
  /-- PEER_SLEEP_HOLD_EXPIRY (R494). -/
  | peerSleepHoldExpiry (node : Nat)
  /-- ROW_SETTLE (R116). -/
  | rowSettle (uid : Nat) (row : Nat)
  /-- SCORE_END (R145). -/
  | scoreEnd (uid : Nat) (row : Nat)
  /-- BLOCK_OPEN (R299). -/
  | blockOpen (uid : Nat)
  /-- DELIVERY_GROUP_SORT (R174). -/
  | deliveryGroupSort (uid : Nat)
  /-- PACKET_BUILD (R178). -/
  | packetBuild (uid : Nat) (half : Nat) (destination : Nat)
  /-- POUR_CLOSE_SEND (R185). -/
  | pourCloseSend (uid : Nat) (half : Nat)
  /-- RETURN_PACKET_BUILD (R194). -/
  | returnPacketBuild (planId : Nat) (flask : Nat)
  /-- GROUP_TABLE_WRITE (R290). -/
  | groupTableWrite (planId : Nat) (pour : Nat)
  /-- GROUP_TABLE_WRITTEN (R290). -/
  | groupTableWritten (host : Nat)
  /-- FORCED_CLOSE (R286). -/
  | forcedClose (planId : Nat) (flask : Nat)
  /-- FLASK_RELEASE (R293). -/
  | flaskRelease (planId : Nat) (flask : Nat)
  /-- SHARED_POST_READ_DONE (R302). -/
  | sharedPostReadDone (post : Nat)
  /-- COMBINE (R309). -/
  | combine (x : Nat) (row : Nat)
  /-- ROW_WRITE_VISIBLE (R312). -/
  | rowWriteVisible (x : Nat) (row : Nat)
  /-- STITCH_WAIT_EXPIRY (R306). -/
  | stitchWaitExpiry (x : Nat) (row : Nat)
  /-- DISPATCH_READY (R372). -/
  | dispatchReady (uid : Nat)
  /-- TALLY_WAIT_RELEASE (R327). -/
  | tallyWaitRelease (position : Nat)
  /-- TALLY_POLL (R327). -/
  | tallyPoll
  /-- CONTEXT_SCHEDULE (R439). -/
  | contextSchedule (n : Nat)
  /-- CONTEXT_SWAP (R441). -/
  | contextSwap
  /-- REST_WATCHDOG (R381). -/
  | restWatchdog (n : Nat)
  /-- STARVE_AGING (R440). -/
  | starveAging (x : Nat)
  /-- BIAS_LATE (R354). -/
  | biasLate (balance : Nat)
  /-- COLL_WATCHDOG (R346). -/
  | collWatchdog (group : Nat)
  /-- MOULD_PHASE_DONE (R408). -/
  | mouldPhaseDone (copy : Nat)
  /-- GROUP_STALL_EXPIRY (R291). -/
  | groupStallExpiry (host : Nat)
  /-- ALLOC_STALL_EXPIRY (R393). -/
  | allocStallExpiry (host : Nat) (cls : Nat)
  /-- ESCALATION_EXPIRY (R467). -/
  | escalationExpiry (unit : Nat) (slot : Nat)
  /-- FATAL_STOP (R477). -/
  | fatalStop
  /-- SUMMARY_WINDOW_END (R465). -/
  | summaryWindowEnd
  /-- IDLE_ENTRY (R489). -/
  | idleEntry
  /-- DOZE_ENTRY (R489). -/
  | dozeEntry
  /-- REST_ENTRY (R489). -/
  | restEntry
  /-- DORMANT_ENTRY (R496). -/
  | dormantEntry
  /-- WAKE_AT_TICK (R490). -/
  | wakeAtTick
  /-- WAKE_TRIGGER (R490). -/
  | wakeTrigger
  /-- DORMANT_EXIT (R497). -/
  | dormantExit
  /-- DOORBELL_LATCH (R492). -/
  | doorbellLatch (a : PageAccess)
  /-- BURNISH_READ (R501). -/
  | burnishRead (store : Nat) (word : Nat)
  /-- KEEPER_BURNISH (R501). -/
  | keeperBurnish (word : Nat)
  /-- BURNISH_SLICE (R502). -/
  | burnishSlice (words : List (Nat × Nat))
  /-- CALIBRATION (R503). -/
  | calibration (inRange : Bool)
  /-- STRESS_ROTATION (R504). -/
  | stressRotation
  /-- TELEMETRY_RECORD (R505). -/
  | telemetryRecord
  /-- SUBSCRIPTION_NOTIFICATION (R533). -/
  | subscriptionNotification (sub : Nat)
  /-- CHANGE_SCAN (R533). -/
  | changeScan
  /-- SUB_LEASE_EXPIRY (R534). -/
  | subLeaseExpiry (sub : Nat)
  /-- KEEPER_POWER_UP (R481). -/
  | keeperPowerUp (keepB : Bool)
  /-- COLD_RESET_RELEASE (R537). -/
  | coldResetRelease (chip : Nat) (pen : Nat) (base : Nat)
  /-- KEEPER_STORE_ZEROED (R547). -/
  | keeperStoreZeroed
  /-- LOSS_OF_SIGNAL (R268). -/
  | lossOfSignal (port : Nat) (lane : Nat) (kind : Nat)
  /-- LANE_LOCK (R268). -/
  | laneLock (port : Nat)
  /-- PORT_RESET_END (R549). -/
  | portResetEnd (port : Nat)
  /-- FRAME_DROP (R259). -/
  | frameDrop (rx : Rx) (reason : Nat)
  /-- PEER_DIRECTORY_FETCH (R249). -/
  | peerDirectoryFetch (node : Nat)
  /-- CORE_CLOCK_THROTTLE (R14). -/
  | coreClockThrottle (mhz : Nat)
deriving DecidableEq, Repr

end Sys2Proof
end

