-- ==== Sys2Proof/WellFormed.lean ====
section
/-! DEFINITION. Which operands a row can carry: every field within the width the spec gives it. -/

set_option Elab.async false

set_option linter.unusedVariables false

namespace Sys2Proof.Machine

/-- The fields of a runner frame within their widths (R197, R199). -/
def RFrame.fits (f : RFrame) : Bool :=
  decide (f.version < 8) && decide (f.cls < 8) && decide (f.epoch < 2) && decide (f.src < 2 ^ 20) && decide (f.dst < 2 ^ 20) &&
    decide (f.ctx < 2 ^ 16) && decide (f.heat < 2 ^ 16) && decide (f.seq < 2 ^ 32) && decide (f.window < 2 ^ 16) && decide (f.offset < 2 ^ 48) &&
    f.length == f.payload.length && decide (f.op < 2 ^ 16) && decide (f.aux < 2 ^ 30) && decide (f.headerCrc < 2 ^ 32) && decide (f.trailer < 2 ^ 32)

/-- What PRT can see around a frame: a port of the 48, and a priority of eight (R253, R258). -/
def Rx.fits (r : Rx) : Bool := decide (r.port < 48) && decide (r.pcp < 8)

/-- A page access inside the 16 MiB of the pages, of a width the network has (R71, R542). -/
def PageAccess.fits (a : PageAccess) : Bool :=
  decide (a.offset < 2 ^ 24) && decide (a.hostTag < 32) && (a.width == 32 || a.width == 64) && decide (a.write.getD 0 < 2 ^ a.width)

end Sys2Proof.Machine

namespace Sys2Proof

open Sys2Proof.Machine in
/-- Whether a row's operands fit. -/
def wellFormed (i : Instr) : Bool :=
  match i with
  | .run ring _ payload => decide (ring < 1024) && decide (payload.length < 2 ^ 32)
  | .dispatch ring _ payload => decide (ring < 1024) && decide (payload.length < 2 ^ 32)
  | .copy ring _ payload => decide (ring < 1024) && decide (payload.length < 2 ^ 32)
  | .fence ring _ payload => decide (ring < 1024) && decide (payload.length < 2 ^ 32)
  | .cancel ring _ payload => decide (ring < 1024) && decide (payload.length < 2 ^ 32)
  | .tallyRead ring _ payload => decide (ring < 1024) && decide (payload.length < 2 ^ 32)
  | .tallySet ring _ payload => decide (ring < 1024) && decide (payload.length < 2 ^ 32)
  | .tallyAdd ring _ payload => decide (ring < 1024) && decide (payload.length < 2 ^ 32)
  | .tallyWait ring _ payload => decide (ring < 1024) && decide (payload.length < 2 ^ 32)
  | .allreduce ring _ payload => decide (ring < 1024) && decide (payload.length < 2 ^ 32)
  | .reduce ring _ payload => decide (ring < 1024) && decide (payload.length < 2 ^ 32)
  | .allgather ring _ payload => decide (ring < 1024) && decide (payload.length < 2 ^ 32)
  | .broadcast ring _ payload => decide (ring < 1024) && decide (payload.length < 2 ^ 32)
  | .biasSet ring _ payload => decide (ring < 1024) && decide (payload.length < 2 ^ 32)
  | .dict ring _ payload => decide (ring < 1024) && decide (payload.length < 2 ^ 32)
  | .park ring _ payload => decide (ring < 1024) && decide (payload.length < 2 ^ 32)
  | .rld ring _ payload => decide (ring < 1024) && decide (payload.length < 2 ^ 32)
  | .rst ring _ payload => decide (ring < 1024) && decide (payload.length < 2 ^ 32)
  | .load ring _ payload => decide (ring < 1024) && decide (payload.length < 2 ^ 32)
  | .fetchAdd ring _ payload => decide (ring < 1024) && decide (payload.length < 2 ^ 32)
  | .fetchAnd ring _ payload => decide (ring < 1024) && decide (payload.length < 2 ^ 32)
  | .fetchOr ring _ payload => decide (ring < 1024) && decide (payload.length < 2 ^ 32)
  | .fetchXor ring _ payload => decide (ring < 1024) && decide (payload.length < 2 ^ 32)
  | .swap ring _ payload => decide (ring < 1024) && decide (payload.length < 2 ^ 32)
  | .compareSwap ring _ payload => decide (ring < 1024) && decide (payload.length < 2 ^ 32)
  | .fetchMaxU ring _ payload => decide (ring < 1024) && decide (payload.length < 2 ^ 32)
  | .fetchMinU ring _ payload => decide (ring < 1024) && decide (payload.length < 2 ^ 32)
  | .probe ring _ payload => decide (ring < 1024) && decide (payload.length < 2 ^ 32)
  | .commandFetch ring => decide (ring < 1024)
  | .completionPost ring => decide (ring < 1024)
  | .add n _ guard rd ra rb => decide (n < 4) && (guard == 1 || decide (0x10 ≤ guard ∧ guard < 0x20)) && decide (rd < 32) && decide (ra < 32) && decide (rb < 32)
  | .sub n _ guard rd ra rb => decide (n < 4) && (guard == 1 || decide (0x10 ≤ guard ∧ guard < 0x20)) && decide (rd < 32) && decide (ra < 32) && decide (rb < 32)
  | .and n _ guard rd ra rb => decide (n < 4) && (guard == 1 || decide (0x10 ≤ guard ∧ guard < 0x20)) && decide (rd < 32) && decide (ra < 32) && decide (rb < 32)
  | .or n _ guard rd ra rb => decide (n < 4) && (guard == 1 || decide (0x10 ≤ guard ∧ guard < 0x20)) && decide (rd < 32) && decide (ra < 32) && decide (rb < 32)
  | .xor n _ guard rd ra rb => decide (n < 4) && (guard == 1 || decide (0x10 ≤ guard ∧ guard < 0x20)) && decide (rd < 32) && decide (ra < 32) && decide (rb < 32)
  | .shl n _ guard rd ra rb => decide (n < 4) && (guard == 1 || decide (0x10 ≤ guard ∧ guard < 0x20)) && decide (rd < 32) && decide (ra < 32) && decide (rb < 32)
  | .shr n _ guard rd ra rb => decide (n < 4) && (guard == 1 || decide (0x10 ≤ guard ∧ guard < 0x20)) && decide (rd < 32) && decide (ra < 32) && decide (rb < 32)
  | .sar n _ guard rd ra rb => decide (n < 4) && (guard == 1 || decide (0x10 ≤ guard ∧ guard < 0x20)) && decide (rd < 32) && decide (ra < 32) && decide (rb < 32)
  | .mul n _ guard rd ra rb => decide (n < 4) && (guard == 1 || decide (0x10 ≤ guard ∧ guard < 0x20)) && decide (rd < 32) && decide (ra < 32) && decide (rb < 32)
  | .minu n _ guard rd ra rb => decide (n < 4) && (guard == 1 || decide (0x10 ≤ guard ∧ guard < 0x20)) && decide (rd < 32) && decide (ra < 32) && decide (rb < 32)
  | .maxu n _ guard rd ra rb => decide (n < 4) && (guard == 1 || decide (0x10 ≤ guard ∧ guard < 0x20)) && decide (rd < 32) && decide (ra < 32) && decide (rb < 32)
  | .addi n _ guard rd ra imm => decide (n < 4) && (guard == 1 || decide (0x10 ≤ guard ∧ guard < 0x20)) && decide (rd < 32) && decide (ra < 32) && decide (imm < 2 ^ 32)
  | .andi n _ guard rd ra imm => decide (n < 4) && (guard == 1 || decide (0x10 ≤ guard ∧ guard < 0x20)) && decide (rd < 32) && decide (ra < 32) && decide (imm < 2 ^ 32)
  | .ori n _ guard rd ra imm => decide (n < 4) && (guard == 1 || decide (0x10 ≤ guard ∧ guard < 0x20)) && decide (rd < 32) && decide (ra < 32) && decide (imm < 2 ^ 32)
  | .shli n _ guard rd ra imm => decide (n < 4) && (guard == 1 || decide (0x10 ≤ guard ∧ guard < 0x20)) && decide (rd < 32) && decide (ra < 32) && decide (imm < 2 ^ 32)
  | .shri n _ guard rd ra imm => decide (n < 4) && (guard == 1 || decide (0x10 ≤ guard ∧ guard < 0x20)) && decide (rd < 32) && decide (ra < 32) && decide (imm < 2 ^ 32)
  | .li n _ guard rd imm => decide (n < 4) && (guard == 1 || decide (0x10 ≤ guard ∧ guard < 0x20)) && decide (rd < 32) && decide (imm < 2 ^ 32)
  | .lih n _ guard rd ra imm => decide (n < 4) && (guard == 1 || decide (0x10 ≤ guard ∧ guard < 0x20)) && decide (rd < 32) && decide (ra < 32) && decide (imm < 2 ^ 32)
  | .bfx n _ guard rd ra imm => decide (n < 4) && (guard == 1 || decide (0x10 ≤ guard ∧ guard < 0x20)) && decide (rd < 32) && decide (ra < 32) && decide (imm < 2 ^ 32)
  | .ceq n _ guard ra rb pd => decide (n < 4) && (guard == 1 || decide (0x10 ≤ guard ∧ guard < 0x20)) && decide (ra < 32) && decide (rb < 32) && decide (pd < 8)
  | .cne n _ guard ra rb pd => decide (n < 4) && (guard == 1 || decide (0x10 ≤ guard ∧ guard < 0x20)) && decide (ra < 32) && decide (rb < 32) && decide (pd < 8)
  | .cltu n _ guard ra rb pd => decide (n < 4) && (guard == 1 || decide (0x10 ≤ guard ∧ guard < 0x20)) && decide (ra < 32) && decide (rb < 32) && decide (pd < 8)
  | .clts n _ guard ra rb pd => decide (n < 4) && (guard == 1 || decide (0x10 ≤ guard ∧ guard < 0x20)) && decide (ra < 32) && decide (rb < 32) && decide (pd < 8)
  | .ceqi n _ guard ra pd imm => decide (n < 4) && (guard == 1 || decide (0x10 ≤ guard ∧ guard < 0x20)) && decide (ra < 32) && decide (pd < 8) && decide (imm < 2 ^ 32)
  | .cltui n _ guard ra pd imm => decide (n < 4) && (guard == 1 || decide (0x10 ≤ guard ∧ guard < 0x20)) && decide (ra < 32) && decide (pd < 8) && decide (imm < 2 ^ 32)
  | .pand n _ guard ra rb pd => decide (n < 4) && (guard == 1 || decide (0x10 ≤ guard ∧ guard < 0x20)) && decide (ra < 32) && decide (rb < 32) && decide (pd < 8)
  | .por n _ guard ra rb pd => decide (n < 4) && (guard == 1 || decide (0x10 ≤ guard ∧ guard < 0x20)) && decide (ra < 32) && decide (rb < 32) && decide (pd < 8)
  | .pnot n _ guard ra pd => decide (n < 4) && (guard == 1 || decide (0x10 ≤ guard ∧ guard < 0x20)) && decide (ra < 32) && decide (pd < 8)
  | .rds n _ guard rd imm => decide (n < 4) && (guard == 1 || decide (0x10 ≤ guard ∧ guard < 0x20)) && decide (rd < 32) && decide (imm < 2 ^ 32)
  | .ldt n _ guard rd ra => decide (n < 4) && (guard == 1 || decide (0x10 ≤ guard ∧ guard < 0x20)) && decide (rd < 32) && decide (ra < 32)
  | .ldm n _ guard rd ra imm => decide (n < 4) && (guard == 1 || decide (0x10 ≤ guard ∧ guard < 0x20)) && decide (rd < 32) && decide (ra < 32) && decide (imm < 2 ^ 32)
  | .stm n _ guard ra rb imm => decide (n < 4) && (guard == 1 || decide (0x10 ≤ guard ∧ guard < 0x20)) && decide (ra < 32) && decide (rb < 32) && decide (imm < 2 ^ 32)
  | .nop n guard => decide (n < 4) && (guard == 0 || guard == 1 || decide (0x10 ≤ guard ∧ guard < 0x20))
  | .br n guard target => decide (n < 4) && (guard == 1 || decide (0x10 ≤ guard ∧ guard < 0x20)) && decide (target < 2 ^ 14)
  | .call n guard target => decide (n < 4) && (guard == 1 || decide (0x10 ≤ guard ∧ guard < 0x20)) && decide (target < 2 ^ 14)
  | .ret n guard => decide (n < 4) && (guard == 1 || decide (0x10 ≤ guard ∧ guard < 0x20))
  | .wait n guard tallyA threshA tallyB threshB combine => decide (n < 4) && (guard == 1 || decide (0x10 ≤ guard ∧ guard < 0x20)) && decide (tallyA < 32) && decide (threshA < 32) && decide (tallyB < 32) && decide (threshB < 32) && decide (combine < 4)
  | .endPattern n guard => decide (n < 4) && (guard == 1 || decide (0x10 ≤ guard ∧ guard < 0x20))
  | .trap n guard code => decide (n < 4) && (guard == 1 || decide (0x10 ≤ guard ∧ guard < 0x20)) && decide (code < 256)
  | .score n guard tallyEnable tallyReg => decide (n < 4) && (guard == 1 || decide (0x10 ≤ guard ∧ guard < 0x20)) && decide (tallyEnable < 2) && decide (tallyReg < 32)
  | .selectArm n guard => decide (n < 4) && (guard == 1 || decide (0x10 ≤ guard ∧ guard < 0x20))
  | .armLevel n guard level => decide (n < 4) && (guard == 1 || decide (0x10 ≤ guard ∧ guard < 0x20)) && decide (level < 4)
  | .pourArm n guard tallyEnable tallyReg => decide (n < 4) && (guard == 1 || decide (0x10 ≤ guard ∧ guard < 0x20)) && decide (tallyEnable < 2) && decide (tallyReg < 32)
  | .stitchOpen n guard tallyReg => decide (n < 4) && (guard == 1 || decide (0x10 ≤ guard ∧ guard < 0x20)) && decide (tallyReg < 32)
  | .stitchShared n guard descReg => decide (n < 4) && (guard == 1 || decide (0x10 ≤ guard ∧ guard < 0x20)) && decide (descReg < 32)
  | .tallySlotAdd n guard tallyReg valueReg => decide (n < 4) && (guard == 1 || decide (0x10 ≤ guard ∧ guard < 0x20)) && decide (tallyReg < 32) && decide (valueReg < 32)
  | .tallySlotSet n guard tallyReg valueReg => decide (n < 4) && (guard == 1 || decide (0x10 ≤ guard ∧ guard < 0x20)) && decide (tallyReg < 32) && decide (valueReg < 32)
  | .tallySlotAddi n guard tallyReg imm => decide (n < 4) && (guard == 1 || decide (0x10 ≤ guard ∧ guard < 0x20)) && decide (tallyReg < 32) && decide (imm < 2 ^ 32)
  | .copyIssue n guard descReg countM1 doneEnable doneReg => decide (n < 4) && (guard == 1 || decide (0x10 ≤ guard ∧ guard < 0x20)) && decide (descReg < 32) && decide (countM1 < 256) && decide (doneEnable < 2) && decide (doneReg < 32)
  | .read _ message => decide (message.length < 2 ^ 32)
  | .write _ message => decide (message.length < 2 ^ 32)
  | .describe _ message => decide (message.length < 2 ^ 32)
  | .next _ message => decide (message.length < 2 ^ 32)
  | .subscribe _ message => decide (message.length < 2 ^ 32)
  | .unsubscribe _ message => decide (message.length < 2 ^ 32)
  | .setEndpointId source tag iid eid => decide (source < 256) && decide (tag < 256) && decide (iid < 256) && decide (eid < 256)
  | .getEndpointId source tag iid => decide (source < 256) && decide (tag < 256) && decide (iid < 256)
  | .getMctpVersionSupport source tag iid => decide (source < 256) && decide (tag < 256) && decide (iid < 256)
  | .getMessageTypeSupport source tag iid => decide (source < 256) && decide (tag < 256) && decide (iid < 256)
  | .submitTail a => PageAccess.fits a
  | .completionHead a => PageAccess.fits a
  | .pop a => PageAccess.fits a
  | .mark a => PageAccess.fits a
  | .rewind a => PageAccess.fits a
  | .release a => PageAccess.fits a
  | .tallyPageAdd a => PageAccess.fits a
  | .watch a => PageAccess.fits a
  | .alloc a => PageAccess.fits a
  | .free a => PageAccess.fits a
  | .ringEnable p ring => decide (p ≤ 16) && decide (ring < 1024)
  | .ringDisable p ring => decide (p ≤ 16) && decide (ring < 1024)
  | .planLoadGo p host planId => decide (p ≤ 16) && decide (host < 16) && decide (planId < 2 ^ 16)
  | .planImageReadDone host => decide (host < 16)
  | .keyLoadDone host => decide (host < 16)
  | .planUnload p host planId => decide (p ≤ 16) && decide (host < 16) && decide (planId < 2 ^ 16)
  | .planFree planId => decide (planId < 2 ^ 16)
  | .patternLoadGo p host patternId => decide (p ≤ 16) && decide (host < 16) && decide (patternId < 2 ^ 16)
  | .patternLoadDone host => decide (host < 16)
  | .patternUnload p host patternId => decide (p ≤ 16) && decide (host < 16) && decide (patternId < 2 ^ 16)
  | .patternFree patternId => decide (patternId < 2 ^ 16)
  | .tableLoadGo p version => decide (p ≤ 16) && decide (version < 2)
  | .tableLoadDone version => decide (version < 2)
  | .activeVersion p version => decide (p ≤ 16) && decide (version < 256)
  | .versionFree p version => decide (p ≤ 16) && decide (version < 2)
  | .peerJoin p => decide (p ≤ 16)
  | .peerLeave p => decide (p ≤ 16)
  | .peerDeclareDead p => decide (p ≤ 16)
  | .portEnable p port => decide (p ≤ 16) && decide (port < 48)
  | .portDisable p port => decide (p ≤ 16) && decide (port < 48)
  | .surveyGo p => decide (p ≤ 16)
  | .surveyWaitExpiry => true
  | .linkEventClear p => decide (p ≤ 16)
  | .watchSession p watch session => decide (p ≤ 16) && decide (watch < 2 ^ 32) && decide (session < 2 ^ 32)
  | .maskApplyStep p planId step => decide (p ≤ 16) && decide (planId < 2 ^ 16) && decide (step < 2 ^ 32)
  | .groupEnable p group => decide (p ≤ 16) && decide (group < 256)
  | .groupListReadDone group => decide (group < 256)
  | .balanceEnable p balance => decide (p ≤ 16) && decide (balance < 256)
  | .rejoin p balance => decide (p ≤ 16) && decide (balance < 256)
  | .snapshotGo p => decide (p ≤ 16)
  | .excResume p n => decide (p ≤ 16) && decide (n < 4)
  | .excSkip p n => decide (p ≤ 16) && decide (n < 4)
  | .excKill p n => decide (p ≤ 16) && decide (n < 4)
  | .hostEnable p host value => decide (p ≤ 16) && decide (host < 16) && decide (value < 256)
  | .contextDefine p x => decide (p ≤ 16) && decide (x < 2 ^ 16)
  | .contextUndefine p x => decide (p ≤ 16) && decide (x < 2 ^ 16)
  | .contextReset p x => decide (p ≤ 16) && decide (x < 2 ^ 16)
  | .accountingClear p x => decide (p ≤ 16) && decide (x < 2 ^ 16)
  | .hostAccountingClear p host => decide (p ≤ 16) && decide (host < 16)
  | .winEnable p window => decide (p ≤ 16) && decide (window < 2 ^ 16)
  | .winDisable p window => decide (p ≤ 16) && decide (window < 2 ^ 16)
  | .ownerFlush p table => decide (p ≤ 16) && decide (table < 256)
  | .checkGo p channel => decide (p ≤ 16) && decide (channel < 256)
  | .checkRunEnd channel => decide (channel < 256)
  | .faultClear p unit mask => decide (p ≤ 16) && decide (unit < 20) && decide (mask < 2 ^ 256)
  | .firstErrorRearm p unit => decide (p ≤ 16) && decide (unit < 20)
  | .historyDrain p unit => decide (p ≤ 16) && decide (unit < 20)
  | .faultAck p unit slot => decide (p ≤ 16) && decide (unit < 20) && decide (slot < 256)
  | .hostFaultAck p host value => decide (p ≤ 16) && decide (host < 16) && decide (value < 2 ^ 16)
  | .fatalStopNow p => decide (p ≤ 16)
  | .promoteCount p _ source value => decide (p ≤ 16) && decide (source < 2 ^ 16) && decide (value < 2 ^ 32)
  | .injectGo p => decide (p ≤ 16)
  | .keySlot p _ principal key => decide (p ≤ 16) && decide (principal ≤ 16) && decide (key < 2 ^ 256)
  | .keyRevoke p principal mask => decide (p ≤ 16) && decide (principal ≤ 16) && decide (mask < 256)
  | .peerWakeTolerance p ticks => decide (p ≤ 16) && decide (ticks < 2 ^ 32)
  | .wakeNow p => decide (p ≤ 16)
  | .engineRun p => decide (p ≤ 16)
  | .unitHalt p units => decide (p ≤ 16) && decide (units < 2 ^ 32)
  | .unitHalted unit => decide (unit < 20)
  | .dictionaryWrite p ix sub inst len _ => decide (p ≤ 16) && decide (ix < 2 ^ 16) && decide (sub < 2 ^ 8) && decide (inst < 2 ^ 32) && decide (len ≤ 2 ^ 16)
  | .coldReset _ => true
  | .bootReady => true
  | .warmReset => true
  | .portReset port _ => decide (port < 48)
  | .mainGoodFall => true
  | .mainGoodRise => true
  | .krdWake => true
  | .feedSwitchOver _ => true
  | .feedReturn => true
  | .keeperFeedLoss => true
  | .linkUp port => decide (port < 48)
  | .linkDown port => decide (port < 48)
  | .fecDegrade port corrected bad => decide (port < 48) && decide (corrected < 2 ^ 32) && decide (bad < 2 ^ 32)
  | .dispatchCopyFrame rx f => Rx.fits rx && RFrame.fits f
  | .pourCloseFrame rx f => Rx.fits rx && RFrame.fits f
  | .returnAnswerFrame rx f => Rx.fits rx && RFrame.fits f
  | .remoteStoreFrame rx f => Rx.fits rx && RFrame.fits f
  | .atomicFrame rx f => Rx.fits rx && RFrame.fits f
  | .replyFrame rx f => Rx.fits rx && RFrame.fits f
  | .ackFrame rx f => Rx.fits rx && RFrame.fits f
  | .hopCreditFrame rx f => Rx.fits rx && RFrame.fits f
  | .collSegment rx f => Rx.fits rx && RFrame.fits f
  | .collReport rx f => Rx.fits rx && RFrame.fits f
  | .collCommit rx f => Rx.fits rx && RFrame.fits f
  | .collAbort rx f => Rx.fits rx && RFrame.fits f
  | .collLaunch group => decide (group < 256)
  | .join rx f => Rx.fits rx && RFrame.fits f
  | .joinAck rx f => Rx.fits rx && RFrame.fits f
  | .leave rx f => Rx.fits rx && RFrame.fits f
  | .leaveAck rx f => Rx.fits rx && RFrame.fits f
  | .sleep rx f => Rx.fits rx && RFrame.fits f
  | .sleepAck rx f => Rx.fits rx && RFrame.fits f
  | .awake rx f => Rx.fits rx && RFrame.fits f
  | .awakeAck rx f => Rx.fits rx && RFrame.fits f
  | .awakeRefused rx f => Rx.fits rx && RFrame.fits f
  | .aapRelay rx f => Rx.fits rx && RFrame.fits f
  | .surveyProbe rx f => Rx.fits rx && RFrame.fits f
  | .surveyReply rx f => Rx.fits rx && RFrame.fits f
  | .icmpv6TimeExceeded port _ udpSource hop => decide (port < 48) && decide (udpSource < 2 ^ 16) && decide (hop < 256)
  | .transitFrame rx f => Rx.fits rx && RFrame.fits f
  | .pfcFrame rx enable _ => Rx.fits rx && decide (enable < 256)
  | .pauseFrame rx => Rx.fits rx
  | .pfcPauseExpiry port prio => decide (port < 48) && decide (prio < 8)
  | .frameStart port => decide (port < 48)
  | .ackSend node => decide (node < 2 ^ 20)
  | .ackHoldExpiry node cls seq => decide (node < 2 ^ 20) && decide (cls < 8) && decide (seq < 2 ^ 32)
  | .retransmitTimeout node cls seq => decide (node < 2 ^ 20) && decide (cls < 8) && decide (seq < 2 ^ 32)
  | .settleLimitExpiry node cls seq => decide (node < 2 ^ 20) && decide (cls < 8) && decide (seq < 2 ^ 32)
  | .atomicRetryTimeout node seq => decide (node < 2 ^ 20) && decide (seq < 2 ^ 32)
  | .creditRelease node => decide (node < 2 ^ 20)
  | .replyCacheExpiry => true
  | .frameLifeExpiry port => decide (port < 48)
  | .incarnationQuietEnd => true
  | .peerSleepHoldExpiry node => decide (node < 2 ^ 20)
  | .rowSettle _ row => decide (row < 4096)
  | .scoreEnd _ row => decide (row < 4096)
  | .blockOpen _ => true
  | .deliveryGroupSort _ => true
  | .packetBuild _ half destination => decide (half < 2) && decide (destination < 2 ^ 16)
  | .pourCloseSend _ half => decide (half < 2)
  | .returnPacketBuild planId flask => decide (planId < 2 ^ 16) && decide (flask < 2 ^ 16)
  | .groupTableWrite planId pour => decide (planId < 2 ^ 16) && decide (pour < 2 ^ 16)
  | .groupTableWritten host => decide (host < 16)
  | .forcedClose planId flask => decide (planId < 2 ^ 16) && decide (flask < 2 ^ 16)
  | .flaskRelease planId flask => decide (planId < 2 ^ 16) && decide (flask < 2 ^ 16)
  | .sharedPostReadDone _ => true
  | .combine x row => decide (x < 2 ^ 16) && decide (row < 4096)
  | .rowWriteVisible x row => decide (x < 2 ^ 16) && decide (row < 4096)
  | .stitchWaitExpiry x row => decide (x < 2 ^ 16) && decide (row < 4096)
  | .dispatchReady _ => true
  | .tallyWaitRelease _ => true
  | .tallyPoll => true
  | .contextSchedule n => decide (n < 4)
  | .contextSwap => true
  | .restWatchdog n => decide (n < 4)
  | .starveAging x => decide (x < 2 ^ 16)
  | .biasLate balance => decide (balance < 256)
  | .collWatchdog group => decide (group < 256)
  | .mouldPhaseDone _ => true
  | .groupStallExpiry host => decide (host < 16)
  | .allocStallExpiry host cls => decide (host < 16) && decide (cls < 8)
  | .escalationExpiry unit slot => decide (unit < 20) && decide (slot < 8)
  | .fatalStop => true
  | .summaryWindowEnd => true
  | .idleEntry => true
  | .dozeEntry => true
  | .restEntry => true
  | .dormantEntry => true
  | .wakeAtTick => true
  | .wakeTrigger => true
  | .dormantExit => true
  | .doorbellLatch a => PageAccess.fits a
  | .burnishRead _ _ => true
  | .keeperBurnish _ => true
  | .burnishSlice _ => true
  | .calibration _ => true
  | .stressRotation => true
  | .telemetryRecord => true
  | .subscriptionNotification _ => true
  | .changeScan => true
  | .subLeaseExpiry _ => true
  | .keeperPowerUp _ => true
  | .coldResetRelease _ _ _ => true
  | .keeperStoreZeroed => true
  | .lossOfSignal port lane kind => decide (port < 48) && decide (lane < 2) && decide (kind < 4)
  | .laneLock port => decide (port < 48)
  | .portResetEnd port => decide (port < 48)
  | .frameDrop rx reason => Rx.fits rx && decide (reason < 8)
  | .peerDirectoryFetch node => decide (node < 2 ^ 20)
  | .coreClockThrottle mhz => decide (mhz < 2 ^ 16)

end Sys2Proof
end

