-- ==== Sys2Proof/Machine/Bits.lean ====
section
/-! DEFINITION. Bit fields and byte orders: `x[hi:lo]` of the spec's pseudocode, little-endian memory and big-endian headers (R9, R10). -/

set_option Elab.async false

namespace Sys2Proof.Machine

/-- `x[hi:lo]`: bits hi down to lo of a number (00, Pseudocode). -/
def bits (x hi lo : Nat) : Nat := (x >>> lo) % 2 ^ (hi - lo + 1)

/-- Bit n of a number (R9). -/
def bit (x n : Nat) : Bool := (x >>> n) % 2 == 1

/-- 1 for true, 0 for false. -/
def b2n (b : Bool) : Nat := if b then 1 else 0

/-- The number with bit n set. -/
def setBit (x n : Nat) : Nat := if bit x n then x else x + 2 ^ n

/-- The number with bit n clear. -/
def clearBit (x n : Nat) : Nat := if bit x n then x - 2 ^ n else x

/-- `x and not m`: the bits of x that m leaves (FaultClear, masks). -/
def andNot (x m : Nat) : Nat := x - (x &&& m)

/-- The number of set bits among the low n bits. -/
def popCount : Nat → Nat → Nat
  | 0, _ => 0
  | n + 1, x => x % 2 + popCount n (x / 2)

/-- The positions of the set bits among the low n bits, rising. -/
def bitList (n x : Nat) : List Nat := (List.range n).filter (bit x)

/-- A number as n bytes, least significant first (R10, memory). -/
def leBytes : Nat → Nat → List Byte
  | 0, _ => []
  | n + 1, x => BitVec.ofNat 8 x :: leBytes n (x / 256)

/-- The number that little-endian bytes stand for (R10, memory). -/
def leNat : List Byte → Nat
  | [] => 0
  | b :: t => b.toNat + 256 * leNat t

/-- A number as n bytes, most significant first (R10, headers). -/
def beBytes (n x : Nat) : List Byte := (leBytes n x).reverse

/-- The number that big-endian bytes stand for (R10, headers). -/
def beNat (l : List Byte) : Nat := leNat l.reverse

/-- The n bytes from an offset; bytes past the end read as zero. -/
def slice (l : List Byte) (off n : Nat) : List Byte :=
  let part := (l.drop off).take n
  part ++ List.replicate (n - part.length) 0

/-- The little-endian number of n bytes at an offset. -/
def leAt (l : List Byte) (off n : Nat) : Nat := leNat (slice l off n)

/-- The big-endian number of n bytes at an offset. -/
def beAt (l : List Byte) (off n : Nat) : Nat := beNat (slice l off n)

/-- The least multiple of m that is not below n. -/
def roundUp (n m : Nat) : Nat := (n + m - 1) / m * m

/-- ⌈a / b⌉. -/
def ceilDiv (a b : Nat) : Nat := (a + b - 1) / b

/-- The signed value of a two's complement number of w bits. -/
def toSigned (w x : Nat) : Int :=
  if bit x (w - 1) then (x % 2 ^ w : Nat) - (2 ^ w : Nat) else (x % 2 ^ w : Nat)

/-- The w-bit two's complement pattern of an integer. -/
def ofSigned (w : Nat) (x : Int) : Nat := (x % (2 ^ w : Nat)).toNat

/-- An integer held inside [lo, hi]. -/
def clampInt (lo hi x : Int) : Int := if x < lo then lo else if hi < x then hi else x

/-- A 48-bit difference of two ticks taken as a signed number (R16). -/
def tickDiff (a b : Nat) : Int := toSigned 48 ((a + 2 ^ 48 - b % 2 ^ 48) % 2 ^ 48)

/-- The tick n ticks after t, modulo 2^48 (R16). -/
def tickAdd (t n : Nat) : Nat := (t + n) % 2 ^ 48

/-- Whether now is at or past the deadline: a deadline is met only below its tick (R15). -/
def tickReached (now deadline : Nat) : Bool := decide (0 ≤ tickDiff now deadline)

/-- The first n elements of a numbered sequence of numbers. -/
def evens (n step : Nat) : List Nat := (List.range n).map (· * step)

/-- Whether a list of flags has one set. -/
def anyB (l : List Bool) : Bool := l.any id

/-- An element put into a sorted list before the first element it must precede. -/
def insertBy {α : Type} (before : α → α → Bool) (x : α) : List α → List α
  | [] => [x]
  | y :: t => if before x y then x :: y :: t else y :: insertBy before x t

/-- A list sorted by an order; elements that neither precedes keep their order. -/
def sortBy {α : Type} (before : α → α → Bool) : List α → List α
  | [] => []
  | x :: t => insertBy (fun a b => !before b a) x (sortBy before t)

/-- The first element that no other precedes. -/
def bestBy {α : Type} (before : α → α → Bool) : List α → Option α
  | [] => none
  | x :: t => match bestBy before t with
    | none => some x
    | some y => if before y x then some y else some x

/-- The first number below n, going upward from p and round, that a test accepts (R22). -/
def roundRobin (n p : Nat) (ok : Nat → Bool) : Option Nat :=
  (((List.range n).map fun i => (p + i) % n).find? ok)

end Sys2Proof.Machine
end

