-- ==== Sys2Proof/Machine/Crc.lean ====
section
/-! DEFINITION. The engine's four CRCs (R54, R198, R420), and SHA-256 with HMAC for the tags of AAP messages (R518). -/

set_option Elab.async false

namespace Sys2Proof.Machine

/-- One bit of a reflected CRC: shift right, subtract the reflected polynomial. -/
def crcRightBit (poly : Nat) : Nat → Nat → Nat
  | 0, c => c
  | n + 1, c => crcRightBit poly n (if c % 2 = 1 then (c / 2) ^^^ poly else c / 2)

/-- A reflected CRC over bytes, from a register value, without final XOR. -/
def crcRight (poly : Nat) : Nat → List Byte → Nat
  | c, [] => c
  | c, b :: bs => crcRight poly (crcRightBit poly 8 (c ^^^ b.toNat)) bs

/-- One bit of an unreflected CRC of w bits: shift left, subtract the polynomial. -/
def crcLeftBit (w poly : Nat) : Nat → Nat → Nat
  | 0, c => c
  | n + 1, c =>
    crcLeftBit w poly n
      (if bit c (w - 1) then ((c * 2) % 2 ^ w) ^^^ poly else (c * 2) % 2 ^ w)

/-- An unreflected CRC of w bits over bytes, from a register value. -/
def crcLeft (w poly : Nat) : Nat → List Byte → Nat
  | c, [] => c
  | c, b :: bs => crcLeft w poly (crcLeftBit w poly 8 (c ^^^ (b.toNat <<< (w - 8)))) bs

/-- CRC-32C over bytes (R54). -/
def crc32c (l : List Byte) : Nat := crcRight 0x82F63B78 0xFFFFFFFF l ^^^ 0xFFFFFFFF

/-- CRC-32C continued over a 64-bit word, from a finished value (EffectCrc, R383). -/
def crc32cMore (c : Nat) (l : List Byte) : Nat :=
  crcRight 0x82F63B78 (c ^^^ 0xFFFFFFFF) l ^^^ 0xFFFFFFFF

/-- CRC-16/T10-DIF over bytes (R198). -/
def crc16 (l : List Byte) : Nat := crcLeft 16 0x8BB7 0 l

/-- The width in bits of the CRC a CheckPoly names (R420). -/
def checkWidth : Nat → Nat
  | 0 => 32
  | 1 => 32
  | 2 => 64
  | _ => 16

/-- The CRC register that a CheckPoly starts from (R420). -/
def checkInit : Nat → Nat
  | 0 => 0xFFFFFFFF
  | 1 => 0xFFFFFFFF
  | _ => 0

/-- The register of a CheckPoly advanced over bytes (R420). -/
def checkRun (poly c : Nat) (l : List Byte) : Nat :=
  match poly with
  | 0 => crcRight 0x82F63B78 c l
  | 1 => crcRight 0xEDB88320 c l
  | 2 => crcLeft 64 0x42F0E1EBA9EA3693 c l
  | _ => crcLeft 16 0x8BB7 c l

/-- The finished CRC of a register (R421: RunningValue). -/
def checkFinish (poly c : Nat) : Nat :=
  match poly with
  | 0 => c ^^^ 0xFFFFFFFF
  | 1 => c ^^^ 0xFFFFFFFF
  | _ => c

/-- The token hash of a row: CRC-32C of context and row in tag position (R54). -/
def tokenHash (context row : Nat) : Nat :=
  crc32c (leBytes 8 (context * 2 ^ 28 + row * 2 ^ 4))

/-! ## SHA-256 -/

/-- The round constants of SHA-256. -/
def shaK : List Nat :=
  [0x428a2f98, 0x71374491, 0xb5c0fbcf, 0xe9b5dba5, 0x3956c25b, 0x59f111f1, 0x923f82a4, 0xab1c5ed5,
   0xd807aa98, 0x12835b01, 0x243185be, 0x550c7dc3, 0x72be5d74, 0x80deb1fe, 0x9bdc06a7, 0xc19bf174,
   0xe49b69c1, 0xefbe4786, 0x0fc19dc6, 0x240ca1cc, 0x2de92c6f, 0x4a7484aa, 0x5cb0a9dc, 0x76f988da,
   0x983e5152, 0xa831c66d, 0xb00327c8, 0xbf597fc7, 0xc6e00bf3, 0xd5a79147, 0x06ca6351, 0x14292967] ++
  [0x27b70a85, 0x2e1b2138, 0x4d2c6dfc, 0x53380d13, 0x650a7354, 0x766a0abb, 0x81c2c92e, 0x92722c85,
   0xa2bfe8a1, 0xa81a664b, 0xc24b8b70, 0xc76c51a3, 0xd192e819, 0xd6990624, 0xf40e3585, 0x106aa070,
   0x19a4c116, 0x1e376c08, 0x2748774c, 0x34b0bcb5, 0x391c0cb3, 0x4ed8aa4a, 0x5b9cca4f, 0x682e6ff3,
   0x748f82ee, 0x78a5636f, 0x84c87814, 0x8cc70208, 0x90befffa, 0xa4506ceb, 0xbef9a3f7, 0xc67178f2]

/-- Rotate a 32-bit number right. -/
def rotr32 (x n : Nat) : Nat := (x >>> n) ||| ((x <<< (32 - n)) % 2 ^ 32)

/-- The next word of a SHA-256 message schedule held newest first. -/
def shaNextW (w : List Nat) : Nat :=
  let w2 := w.getD 1 0
  let w15 := w.getD 14 0
  let s1 := rotr32 w2 17 ^^^ rotr32 w2 19 ^^^ (w2 >>> 10)
  let s0 := rotr32 w15 7 ^^^ rotr32 w15 18 ^^^ (w15 >>> 3)
  (w.getD 15 0 + s0 + w.getD 6 0 + s1) % 2 ^ 32

/-- A message schedule extended by n words, newest first. -/
def shaExtend : Nat → List Nat → List Nat
  | 0, w => w
  | n + 1, w => shaExtend n (shaNextW w :: w)

/-- The working variables of a SHA-256 compression. -/
structure ShaRegs where
  a : Nat
  b : Nat
  c : Nat
  d : Nat
  e : Nat
  f : Nat
  g : Nat
  h : Nat
deriving DecidableEq, Repr

/-- One round of SHA-256. -/
def shaRound (r : ShaRegs) (k w : Nat) : ShaRegs :=
  let s1 := rotr32 r.e 6 ^^^ rotr32 r.e 11 ^^^ rotr32 r.e 25
  let ch := (r.e &&& r.f) ^^^ ((0xFFFFFFFF ^^^ r.e) &&& r.g)
  let t1 := r.h + s1 + ch + k + w
  let s0 := rotr32 r.a 2 ^^^ rotr32 r.a 13 ^^^ rotr32 r.a 22
  let maj := (r.a &&& r.b) ^^^ (r.a &&& r.c) ^^^ (r.b &&& r.c)
  { a := (t1 + s0 + maj) % 2 ^ 32, b := r.a, c := r.b, d := r.c,
    e := (r.d + t1) % 2 ^ 32, f := r.e, g := r.f, h := r.g }

/-- The rounds of one block over its schedule. -/
def shaRounds : ShaRegs → List Nat → List Nat → ShaRegs
  | r, k :: ks, w :: ws => shaRounds (shaRound r k w) ks ws
  | r, _, _ => r

/-- The compression of one 64-byte block. -/
def shaBlock (r : ShaRegs) (block : List Byte) : ShaRegs :=
  let w := (List.range 16).map fun i => beAt block (4 * i) 4
  let t := shaRounds r shaK (shaExtend 48 w.reverse).reverse
  { a := (r.a + t.a) % 2 ^ 32, b := (r.b + t.b) % 2 ^ 32, c := (r.c + t.c) % 2 ^ 32,
    d := (r.d + t.d) % 2 ^ 32, e := (r.e + t.e) % 2 ^ 32, f := (r.f + t.f) % 2 ^ 32,
    g := (r.g + t.g) % 2 ^ 32, h := (r.h + t.h) % 2 ^ 32 }

/-- The compression of n blocks of a padded message. -/
def shaBlocks : Nat → ShaRegs → List Byte → ShaRegs
  | 0, r, _ => r
  | n + 1, r, l => shaBlocks n (shaBlock r (l.take 64)) (l.drop 64)

/-- The padding of a message of n bytes. -/
def shaPad (n : Nat) : List Byte :=
  (0x80 : Byte) :: List.replicate ((119 - n % 64) % 64) 0 ++ beBytes 8 (8 * n)

/-- SHA-256 of bytes, as 32 bytes. -/
def sha256 (l : List Byte) : List Byte :=
  let p := l ++ shaPad l.length
  let r := shaBlocks (p.length / 64)
    { a := 0x6a09e667, b := 0xbb67ae85, c := 0x3c6ef372, d := 0xa54ff53a,
      e := 0x510e527f, f := 0x9b05688c, g := 0x1f83d9ab, h := 0x5be0cd19 } p
  [r.a, r.b, r.c, r.d, r.e, r.f, r.g, r.h].flatMap (beBytes 4)

/-- HMAC-SHA-256 with a key of at most 64 bytes. -/
def hmacSha256 (key msg : List Byte) : List Byte :=
  let k := slice key 0 64
  sha256 (k.map (· ^^^ 0x5C) ++ sha256 (k.map (· ^^^ 0x36) ++ msg))

/-- The tag of an AAP message: the leftmost 16 bytes of its HMAC (R518). -/
def aapTag (key msg : List Byte) : List Byte := (hmacSha256 key msg).take 16

end Sys2Proof.Machine
end

