-- ==== Sys2Proof/Config.lean ====
section
/-! DEFINITION. The values the spec leaves open: opaque constants, so that nothing can be proved of any one of them. -/

set_option Elab.async false

namespace Sys2Proof

/-- The n-th free value drawn, as a number: bytes the spec calls undefined, sensor readings, the point at which a killed COPY stopped (log entry 3). -/
opaque Config.freeValue : Nat → Nat

/-- A sensor reading by its number and the draw: temperature, power, feed millivolts (R503, R505; log entry 3). -/
opaque Config.sensor : Nat → Nat → Nat

/-- The node at the other end of a port's direct link: the spec has a frame for the neighbour itself need no hop credit and names no object that holds the neighbour's node id (R239; log entry 30). -/
opaque Config.neighbour : Nat → Nat

end Sys2Proof
end

