-- ==== Sys2Proof/Machine/Objects.lean ====
section
/-! DEFINITION. The object dictionary's rows, one constant per object, from the object tables of the chapters (R508 to R512, R535). -/

set_option Elab.async false

namespace Sys2Proof.Machine

/-- One object of the dictionary: index, subindex, type code (R509), access class (0 RO, 1 RW, 2 WO, 3 RWH, 4 CONST), keep flag, value length and Reset value (R510 to R512). -/
structure Obj where
  ix : Nat
  sub : Nat
  ty : Nat
  acc : Nat
  keep : Bool
  len : Nat
  reset : Nat
deriving DecidableEq, Repr

/-- The key of an instance of an object in the register file. -/
def Obj.key (o : Obj) (i : Nat) : Nat := o.ix * 2 ^ 24 + o.sub * 2 ^ 16 + i % 2 ^ 16


/-! Family 0x0000 (17_object_dictionary.md) -/
/-- `0x0000.01` DictFormatVersion (0x0001). -/
def Reg.dictFormatVersion : Obj := ⟨0x0000, 0x01, 2, 4, false, 2, 1⟩
/-- `0x0000.02` MaxMessageUdp (8,192). -/
def Reg.maxMessageUdp : Obj := ⟨0x0000, 0x02, 2, 4, false, 2, 8192⟩
/-- `0x0000.03` MaxMessageMctp (4,096). -/
def Reg.maxMessageMctp : Obj := ⟨0x0000, 0x03, 2, 4, false, 2, 4096⟩
/-- `0x0000.04` MaxMessageInBand (1,048,576). -/
def Reg.maxMessageInBand : Obj := ⟨0x0000, 0x04, 3, 4, false, 4, 1048576⟩

/-! Family 0x0001 (17_object_dictionary.md) -/
/-- `0x0001.01` AapUdpEnable (1). -/
def Reg.aapUdpEnable : Obj := ⟨0x0001, 0x01, 0, 1, false, 1, 1⟩
/-- `0x0001.02` AapInBandEnable (1). -/
def Reg.aapInBandEnable : Obj := ⟨0x0001, 0x02, 0, 1, false, 1, 1⟩
/-- `0x0001.03` SubsPerPrincipal (16). -/
def Reg.subsPerPrincipal : Obj := ⟨0x0001, 0x03, 1, 1, false, 1, 16⟩
/-- `0x0001.04` SubLeaseTicks (312,500,000). -/
def Reg.subLeaseTicks : Obj := ⟨0x0001, 0x04, 3, 1, false, 4, 312500000⟩
/-- `0x0001.05` ChangeScanTicks (3,125). -/
def Reg.changeScanTicks : Obj := ⟨0x0001, 0x05, 3, 1, false, 4, 3125⟩

/-! Family 0x0002 (17_object_dictionary.md) -/
/-- `0x0002.01[p]` KeySlot0 (no reset value). -/
def Reg.keySlot0 : Obj := ⟨0x0002, 0x01, 11, 2, true, 32, 0⟩
/-- `0x0002.02[p]` KeySlot1 (no reset value). -/
def Reg.keySlot1 : Obj := ⟨0x0002, 0x02, 11, 2, true, 32, 0⟩
/-- `0x0002.03[p]` KeyRevoke (no reset value). -/
def Reg.keyRevoke : Obj := ⟨0x0002, 0x03, 1, 2, false, 1, 0⟩
/-- `0x0002.04[p]` KeyState (0). -/
def Reg.keyState : Obj := ⟨0x0002, 0x04, 1, 0, true, 1, 0⟩
/-- `0x0002.05[p]` HighestSeq0 (0). -/
def Reg.highestSeq0 : Obj := ⟨0x0002, 0x05, 4, 0, true, 8, 0⟩
/-- `0x0002.06[p]` HighestSeq1 (0). -/
def Reg.highestSeq1 : Obj := ⟨0x0002, 0x06, 4, 0, true, 8, 0⟩

/-! Family 0x0003 (17_object_dictionary.md) -/
/-- `0x0003.01` AapMalformed (0). -/
def Reg.aapMalformed : Obj := ⟨0x0003, 0x01, 4, 0, false, 8, 0⟩
/-- `0x0003.02` AapAuthFailures (0). -/
def Reg.aapAuthFailures : Obj := ⟨0x0003, 0x02, 4, 0, false, 8, 0⟩
/-- `0x0003.03` AapOps (0). -/
def Reg.aapOps : Obj := ⟨0x0003, 0x03, 4, 0, false, 8, 0⟩
/-- `0x0003.04` AapNotifications (0). -/
def Reg.aapNotifications : Obj := ⟨0x0003, 0x04, 4, 0, false, 8, 0⟩

/-! Family 0x0004 (17_object_dictionary.md) -/
/-- `0x0004.01[p]` PrincipalMessages (0). -/
def Reg.principalMessages : Obj := ⟨0x0004, 0x01, 4, 0, false, 8, 0⟩
/-- `0x0004.02[p]` PrincipalReplays (0). -/
def Reg.principalReplays : Obj := ⟨0x0004, 0x02, 4, 0, false, 8, 0⟩
/-- `0x0004.03[p]` PrincipalCachedAnswers (0). -/
def Reg.principalCachedAnswers : Obj := ⟨0x0004, 0x03, 4, 0, false, 8, 0⟩
/-- `0x0004.04[p]` PrincipalDenied (0). -/
def Reg.principalDenied : Obj := ⟨0x0004, 0x04, 4, 0, false, 8, 0⟩

/-! Family 0x0100 (17_object_dictionary.md) -/
/-- `0x0100.01` VendorName ("Monaesh Silicon"). -/
def Reg.vendorName : Obj := ⟨0x0100, 0x01, 12, 4, false, 0, 0⟩
/-- `0x0100.02` DeviceName ("Krytdiux Dispatch Engine"). -/
def Reg.deviceName : Obj := ⟨0x0100, 0x02, 12, 4, false, 0, 0⟩
/-- `0x0100.03` VariantCode (variant). -/
def Reg.variantCode : Obj := ⟨0x0100, 0x03, 1, 4, false, 1, 0⟩
/-- `0x0100.04` DesignStep (0x0100). -/
def Reg.designStep : Obj := ⟨0x0100, 0x04, 2, 4, false, 2, 256⟩
/-- `0x0100.05` ChipId (input). -/
def Reg.chipId : Obj := ⟨0x0100, 0x05, 4, 4, false, 8, 0⟩
/-- `0x0100.06` MctpVendorPen (input). -/
def Reg.mctpVendorPen : Obj := ⟨0x0100, 0x06, 3, 4, false, 4, 0⟩
/-- `0x0100.07` CoreClockKhz (1,300,000). -/
def Reg.coreClockKhz : Obj := ⟨0x0100, 0x07, 3, 4, false, 4, 1300000⟩
/-- `0x0100.08` KeeperClockHz (31,250,000). -/
def Reg.keeperClockHz : Obj := ⟨0x0100, 0x08, 3, 4, false, 4, 31250000⟩

/-! Family 0x0110 (00_scope.md) -/
/-- `0x0110.01` UnitPresence (variant). -/
def Reg.unitPresence : Obj := ⟨0x0110, 0x01, 3, 4, false, 4, 0⟩

/-! Family 0x0200 (14_contexts_and_sharing.md) -/
/-- `0x0200.01[h]` HostEnable (0). -/
def Reg.hostEnable : Obj := ⟨0x0200, 0x01, 0, 1, false, 1, 0⟩
/-- `0x0200.02[h]` ContextBase (0). -/
def Reg.contextBase : Obj := ⟨0x0200, 0x02, 3, 1, false, 4, 0⟩
/-- `0x0200.03[h]` ContextCount (0). -/
def Reg.contextCount : Obj := ⟨0x0200, 0x03, 3, 1, false, 4, 0⟩
/-- `0x0200.04[h]` GateWays (0). -/
def Reg.gateWays : Obj := ⟨0x0200, 0x04, 4, 1, false, 8, 0⟩
/-- `0x0200.05[h]` LandingWays (0). -/
def Reg.landingWays : Obj := ⟨0x0200, 0x05, 4, 1, false, 8, 0⟩
/-- `0x0200.06[h]` StitchWays (0). -/
def Reg.stitchWays : Obj := ⟨0x0200, 0x06, 3, 1, false, 4, 0⟩
/-- `0x0200.07[h]` PlanCacheWays (0). -/
def Reg.planCacheWays : Obj := ⟨0x0200, 0x07, 3, 1, false, 4, 0⟩
/-- `0x0200.08[h]` CtxCacheWays (0). -/
def Reg.ctxCacheWays : Obj := ⟨0x0200, 0x08, 3, 1, false, 4, 0⟩
/-- `0x0200.09[h]` HbmChannelMask (0). -/
def Reg.hbmChannelMask : Obj := ⟨0x0200, 0x09, 4, 1, false, 8, 0⟩
/-- `0x0200.0A[h]` ResidentQuota (16). -/
def Reg.residentQuota : Obj := ⟨0x0200, 0x0A, 1, 1, false, 1, 16⟩
/-- `0x0200.0B[h]` ObserveGlobal (0). -/
def Reg.observeGlobal : Obj := ⟨0x0200, 0x0B, 0, 1, false, 1, 0⟩
/-- `0x0200.0C[h]` DefaultWakeTolerance (0xFFFF_FFFF). -/
def Reg.defaultWakeTolerance : Obj := ⟨0x0200, 0x0C, 3, 1, false, 4, 4294967295⟩

/-! Family 0x0201 (14_contexts_and_sharing.md) -/
/-- `0x0201.01[c]` ChannelHost (0xFF). -/
def Reg.channelHost : Obj := ⟨0x0201, 0x01, 1, 1, false, 1, 255⟩

/-! Family 0x0210 (03_command_rings.md) -/
/-- `0x0210.01[i]` RingEnable (0). -/
def Reg.ringEnable : Obj := ⟨0x0210, 0x01, 0, 1, false, 1, 0⟩
/-- `0x0210.02[i]` SubmitBase (0). -/
def Reg.submitBase : Obj := ⟨0x0210, 0x02, 4, 1, false, 8, 0⟩
/-- `0x0210.03[i]` SubmitSizeLog2 (12). -/
def Reg.submitSizeLog2 : Obj := ⟨0x0210, 0x03, 1, 1, false, 1, 12⟩
/-- `0x0210.04[i]` CompletionBase (0). -/
def Reg.completionBase : Obj := ⟨0x0210, 0x04, 4, 1, false, 8, 0⟩
/-- `0x0210.05[i]` CompletionSizeLog2 (12). -/
def Reg.completionSizeLog2 : Obj := ⟨0x0210, 0x05, 1, 1, false, 1, 12⟩
/-- `0x0210.06[i]` NotifyAddr (0). -/
def Reg.notifyAddr : Obj := ⟨0x0210, 0x06, 4, 1, false, 8, 0⟩
/-- `0x0210.07[i]` RingState (0). -/
def Reg.ringState : Obj := ⟨0x0210, 0x07, 1, 0, false, 1, 0⟩
/-- `0x0210.08[i]` CompletionsPosted (0). -/
def Reg.completionsPosted : Obj := ⟨0x0210, 0x08, 4, 0, false, 8, 0⟩

/-! Family 0x0220 (17_object_dictionary.md) -/
/-- `0x0220.01[c]` DoorbellIgnored (0). -/
def Reg.doorbellIgnored : Obj := ⟨0x0220, 0x01, 4, 0, false, 8, 0⟩

/-! Family 0x0230 (14_contexts_and_sharing.md) -/
/-- `0x0230.01[h]` HostWaitTicks (0). -/
def Reg.hostWaitTicks : Obj := ⟨0x0230, 0x01, 4, 0, false, 8, 0⟩
/-- `0x0230.02[h]` HostRunCycles (0). -/
def Reg.hostRunCycles : Obj := ⟨0x0230, 0x02, 4, 0, false, 8, 0⟩
/-- `0x0230.03[h]` HostTakesSuffered (0). -/
def Reg.hostTakesSuffered : Obj := ⟨0x0230, 0x03, 4, 0, false, 8, 0⟩
/-- `0x0230.04[h]` HostAbortsSuffered (0). -/
def Reg.hostAbortsSuffered : Obj := ⟨0x0230, 0x04, 4, 0, false, 8, 0⟩
/-- `0x0230.05[h]` HostSwapIns (0). -/
def Reg.hostSwapIns : Obj := ⟨0x0230, 0x05, 4, 0, false, 8, 0⟩
/-- `0x0230.06[h]` HostDeadlineMisses (0). -/
def Reg.hostDeadlineMisses : Obj := ⟨0x0230, 0x06, 4, 0, false, 8, 0⟩
/-- `0x0230.07[h]` HostResident (0). -/
def Reg.hostResident : Obj := ⟨0x0230, 0x07, 1, 0, false, 1, 0⟩
/-- `0x0230.08[h]` HostAccountingClear (no reset value). -/
def Reg.hostAccountingClear : Obj := ⟨0x0230, 0x08, 0, 2, false, 1, 0⟩

/-! Family 0x1001 (04_scoring.md) -/
/-- `0x1001.01` RowsScored (0). -/
def Reg.rowsScored : Obj := ⟨0x1001, 0x01, 4, 0, false, 8, 0⟩
/-- `0x1001.02` RowsSettledEarly (0). -/
def Reg.rowsSettledEarly : Obj := ⟨0x1001, 0x02, 4, 0, false, 8, 0⟩
/-- `0x1001.03` StreamedKeyBytes (0). -/
def Reg.streamedKeyBytes : Obj := ⟨0x1001, 0x03, 4, 0, false, 8, 0⟩
/-- `0x1001.04` NonFiniteRows (0). -/
def Reg.nonFiniteRows : Obj := ⟨0x1001, 0x04, 4, 0, false, 8, 0⟩
/-- `0x1001.05` KeyLoads (0). -/
def Reg.keyLoads : Obj := ⟨0x1001, 0x05, 4, 0, false, 8, 0⟩
/-- `0x1001.06` ArrayWaitCycles (0). -/
def Reg.arrayWaitCycles : Obj := ⟨0x1001, 0x06, 4, 0, false, 8, 0⟩

/-! Family 0x1003 (04_scoring.md) -/
/-- `0x1003.01[c]` SettledAtChunk (0). -/
def Reg.settledAtChunk : Obj := ⟨0x1003, 0x01, 4, 0, false, 8, 0⟩

/-! Family 0x1008 (04_scoring.md) -/
/-- `0x1008.01[n]` SlotWordsUsed (0). -/
def Reg.slotWordsUsed : Obj := ⟨0x1008, 0x01, 3, 0, false, 4, 0⟩
/-- `0x1008.02[n]` SlotLayers (0). -/
def Reg.slotLayers : Obj := ⟨0x1008, 0x02, 2, 0, false, 2, 0⟩
/-- `0x1008.03[n]` SlotLargestFree (262,144). -/
def Reg.slotLargestFree : Obj := ⟨0x1008, 0x03, 3, 0, false, 4, 262144⟩

/-! Family 0x1010 (05_selection_and_capacity.md) -/
/-- `0x1010.01` AssignmentsChosen (0). -/
def Reg.assignmentsChosen : Obj := ⟨0x1010, 0x01, 4, 0, false, 8, 0⟩
/-- `0x1010.02` SkimQuota (0). -/
def Reg.skimQuota : Obj := ⟨0x1010, 0x02, 4, 0, false, 8, 0⟩
/-- `0x1010.03` SkimNoReplica (0). -/
def Reg.skimNoReplica : Obj := ⟨0x1010, 0x03, 4, 0, false, 8, 0⟩
/-- `0x1010.04` RowsSkippedThreshold (0). -/
def Reg.rowsSkippedThreshold : Obj := ⟨0x1010, 0x04, 4, 0, false, 8, 0⟩
/-- `0x1010.05` RowsSkippedCommand (0). -/
def Reg.rowsSkippedCommand : Obj := ⟨0x1010, 0x05, 4, 0, false, 8, 0⟩
/-- `0x1010.06` BorrowRequests (0). -/
def Reg.borrowRequests : Obj := ⟨0x1010, 0x06, 4, 0, false, 8, 0⟩
/-- `0x1010.07` BorrowGranted (0). -/
def Reg.borrowGranted : Obj := ⟨0x1010, 0x07, 4, 0, false, 8, 0⟩
/-- `0x1010.08` BorrowUnknown (0). -/
def Reg.borrowUnknown : Obj := ⟨0x1010, 0x08, 4, 0, false, 8, 0⟩
/-- `0x1010.09` FallbackReducedK (0). -/
def Reg.fallbackReducedK : Obj := ⟨0x1010, 0x09, 4, 0, false, 8, 0⟩
/-- `0x1010.0A` FallbackRoutedSkip (0). -/
def Reg.fallbackRoutedSkip : Obj := ⟨0x1010, 0x0A, 4, 0, false, 8, 0⟩
/-- `0x1010.0B` PourWaitCycles (0). -/
def Reg.pourWaitCycles : Obj := ⟨0x1010, 0x0B, 4, 0, false, 8, 0⟩

/-! Family 0x1012 (05_selection_and_capacity.md) -/
/-- `0x1012.01[p]` MaskPending (all zero). -/
def Reg.maskPending : Obj := ⟨0x1012, 0x01, 11, 1, false, 32, 0⟩
/-- `0x1012.02[p]` MaskApplyStep (0). -/
def Reg.maskApplyStep : Obj := ⟨0x1012, 0x02, 3, 1, false, 4, 0⟩
/-- `0x1012.03[p]` MaskInForce (all zero). -/
def Reg.maskInForce : Obj := ⟨0x1012, 0x03, 11, 0, false, 32, 0⟩
/-- `0x1012.04[p]` MaskArmed (0). -/
def Reg.maskArmed : Obj := ⟨0x1012, 0x04, 0, 0, false, 1, 0⟩

/-! Family 0x1020 (05_selection_and_capacity.md) -/
/-- `0x1020.01[i]` WatchSession (0xFFFF_FFFF). -/
def Reg.watchSession : Obj := ⟨0x1020, 0x01, 3, 1, false, 4, 4294967295⟩
/-- `0x1020.02[i]` WatchSkims (0). -/
def Reg.watchSkims : Obj := ⟨0x1020, 0x02, 4, 0, false, 8, 0⟩
/-- `0x1020.03[i]` WatchSkips (0). -/
def Reg.watchSkips : Obj := ⟨0x1020, 0x03, 4, 0, false, 8, 0⟩
/-- `0x1020.04[i]` WatchFallbackRows (0). -/
def Reg.watchFallbackRows : Obj := ⟨0x1020, 0x04, 4, 0, false, 8, 0⟩

/-! Family 0x2010 (06_pour.md) -/
/-- `0x2010.01` AssignmentsSorted (0). -/
def Reg.assignmentsSorted : Obj := ⟨0x2010, 0x01, 4, 0, false, 8, 0⟩
/-- `0x2010.02` BinFullCycles (0). -/
def Reg.binFullCycles : Obj := ⟨0x2010, 0x02, 4, 0, false, 8, 0⟩
/-- `0x2010.03` StagingWaitCycles (0). -/
def Reg.stagingWaitCycles : Obj := ⟨0x2010, 0x03, 4, 0, false, 8, 0⟩
/-- `0x2010.04` DispatchPackets (0). -/
def Reg.dispatchPackets : Obj := ⟨0x2010, 0x04, 4, 0, false, 8, 0⟩
/-- `0x2010.05` DispatchCopies (0). -/
def Reg.dispatchCopies : Obj := ⟨0x2010, 0x05, 4, 0, false, 8, 0⟩
/-- `0x2010.06` CoalescedPackets (0). -/
def Reg.coalescedPackets : Obj := ⟨0x2010, 0x06, 4, 0, false, 8, 0⟩
/-- `0x2010.07` SegmentedCopies (0). -/
def Reg.segmentedCopies : Obj := ⟨0x2010, 0x07, 4, 0, false, 8, 0⟩
/-- `0x2010.08` ClosePackets (0). -/
def Reg.closePackets : Obj := ⟨0x2010, 0x08, 4, 0, false, 8, 0⟩
/-- `0x2010.09` SplitDispatches (0). -/
def Reg.splitDispatches : Obj := ⟨0x2010, 0x09, 4, 0, false, 8, 0⟩
/-- `0x2010.0A` ReturnPackets (0). -/
def Reg.returnPackets : Obj := ⟨0x2010, 0x0A, 4, 0, false, 8, 0⟩
/-- `0x2010.0B` AnswersReturned (0). -/
def Reg.answersReturned : Obj := ⟨0x2010, 0x0B, 4, 0, false, 8, 0⟩
/-- `0x2010.0C` LaneBusyCycles (0). -/
def Reg.laneBusyCycles : Obj := ⟨0x2010, 0x0C, 4, 0, false, 8, 0⟩

/-! Family 0x2100 (06_pour.md) -/
/-- `0x2100.01[h]` PlanLoadAddr (0). -/
def Reg.planLoadAddr : Obj := ⟨0x2100, 0x01, 4, 1, false, 8, 0⟩
/-- `0x2100.02[h]` PlanLoadBytes (0). -/
def Reg.planLoadBytes : Obj := ⟨0x2100, 0x02, 3, 1, false, 4, 0⟩
/-- `0x2100.03[h]` PlanLoadGo (no reset value). -/
def Reg.planLoadGo : Obj := ⟨0x2100, 0x03, 2, 2, false, 2, 0⟩
/-- `0x2100.04[h]` PlanLoadStatus (0). -/
def Reg.planLoadStatus : Obj := ⟨0x2100, 0x04, 1, 0, false, 1, 0⟩
/-- `0x2100.05[h]` PlanUnload (no reset value). -/
def Reg.planUnload : Obj := ⟨0x2100, 0x05, 2, 2, false, 2, 0⟩

/-! Family 0x2104 (06_pour.md) -/
/-- `0x2104.01[i]` PlanState (0). -/
def Reg.planState : Obj := ⟨0x2104, 0x01, 1, 0, false, 1, 0⟩
/-- `0x2104.02[i]` PourWindowTicks (0). -/
def Reg.pourWindowTicks : Obj := ⟨0x2104, 0x02, 2, 0, false, 2, 0⟩
/-- `0x2104.03[i]` PlanCrcLoaded (0). -/
def Reg.planCrcLoaded : Obj := ⟨0x2104, 0x03, 3, 0, false, 4, 0⟩
/-- `0x2104.04[i]` PlanStamp (0). -/
def Reg.planStamp : Obj := ⟨0x2104, 0x04, 3, 0, false, 4, 0⟩
/-- `0x2104.05[i]` PlanBytes (0). -/
def Reg.planBytes : Obj := ⟨0x2104, 0x05, 3, 0, false, 4, 0⟩

/-! Family 0x2120 (06_pour.md) -/
/-- `0x2120.01[p]` CollShare (16,384). -/
def Reg.collShare : Obj := ⟨0x2120, 0x01, 3, 1, false, 4, 16384⟩
/-- `0x2120.02[p]` XferShare (8,192). -/
def Reg.xferShare : Obj := ⟨0x2120, 0x02, 3, 1, false, 4, 8192⟩
/-- `0x2120.03[p]` MgmtShare (4,096). -/
def Reg.mgmtShare : Obj := ⟨0x2120, 0x03, 3, 1, false, 4, 4096⟩
/-- `0x2120.04[p]` ControlShare (8,192). -/
def Reg.controlShare : Obj := ⟨0x2120, 0x04, 3, 1, false, 4, 8192⟩
/-- `0x2120.05[p]` ForwardShare (4,096). -/
def Reg.forwardShare : Obj := ⟨0x2120, 0x05, 3, 1, false, 4, 4096⟩
/-- `0x2120.06[p]` CommittedRate (40,960). -/
def Reg.committedRate : Obj := ⟨0x2120, 0x06, 3, 0, false, 4, 40960⟩
/-- `0x2120.07[p]` PortRate (mode). -/
def Reg.portRate : Obj := ⟨0x2120, 0x07, 3, 0, false, 4, 0⟩
/-- `0x2120.08[p]` HeldTicks (0). -/
def Reg.heldTicks : Obj := ⟨0x2120, 0x08, 4, 0, false, 8, 0⟩
/-- `0x2120.09[p]` ControlOverdraft (0). -/
def Reg.controlOverdraft : Obj := ⟨0x2120, 0x09, 4, 0, false, 8, 0⟩

/-! Family 0x3001 (07_runner_transport.md) -/
/-- `0x3001.01` NodeId (0). -/
def Reg.nodeId : Obj := ⟨0x3001, 0x01, 3, 3, true, 4, 0⟩
/-- `0x3001.02` Incarnation (0). -/
def Reg.incarnation : Obj := ⟨0x3001, 0x02, 2, 3, true, 2, 0⟩
/-- `0x3001.03` TransportEnable (0). -/
def Reg.transportEnable : Obj := ⟨0x3001, 0x03, 0, 1, false, 1, 0⟩
/-- `0x3001.04` RetransmitTicks (250). -/
def Reg.retransmitTicks : Obj := ⟨0x3001, 0x04, 2, 1, false, 2, 250⟩
/-- `0x3001.05` RetransmitLimit (12). -/
def Reg.retransmitLimit : Obj := ⟨0x3001, 0x05, 1, 1, false, 1, 12⟩
/-- `0x3001.06` SettleLimitTicks (31,250). -/
def Reg.settleLimitTicks : Obj := ⟨0x3001, 0x06, 3, 1, false, 4, 31250⟩
/-- `0x3001.07` GatewaySettleLimitTicks (312,500). -/
def Reg.gatewaySettleLimitTicks : Obj := ⟨0x3001, 0x07, 3, 1, false, 4, 312500⟩
/-- `0x3001.08` AtomicRetryTicks (625). -/
def Reg.atomicRetryTicks : Obj := ⟨0x3001, 0x08, 2, 1, false, 2, 625⟩
/-- `0x3001.09` AtomicRetryLimit (8). -/
def Reg.atomicRetryLimit : Obj := ⟨0x3001, 0x09, 1, 1, false, 1, 8⟩
/-- `0x3001.0A` ReplyRetentionTicks (6,250). -/
def Reg.replyRetentionTicks : Obj := ⟨0x3001, 0x0A, 2, 1, false, 2, 6250⟩
/-- `0x3001.0B` AtomicCredits (32). -/
def Reg.atomicCredits : Obj := ⟨0x3001, 0x0B, 2, 1, false, 2, 32⟩
/-- `0x3001.0C` AckHoldTicks (125). -/
def Reg.ackHoldTicks : Obj := ⟨0x3001, 0x0C, 2, 1, false, 2, 125⟩
/-- `0x3001.0D` MaxFrameLifeTicks (3,125). -/
def Reg.maxFrameLifeTicks : Obj := ⟨0x3001, 0x0D, 3, 1, false, 4, 3125⟩
/-- `0x3001.0E` PeerDirectoryWindow (0). -/
def Reg.peerDirectoryWindow : Obj := ⟨0x3001, 0x0E, 2, 3, false, 2, 0⟩
/-- `0x3001.0F` ReplyCacheWindow (0). -/
def Reg.replyCacheWindow : Obj := ⟨0x3001, 0x0F, 2, 3, false, 2, 0⟩
/-- `0x3001.10` ForwardEnable (0). -/
def Reg.forwardEnable : Obj := ⟨0x3001, 0x10, 0, 1, false, 1, 0⟩
/-- `0x3001.11` ForwardDepth (4). -/
def Reg.forwardDepth : Obj := ⟨0x3001, 0x11, 1, 3, false, 1, 4⟩
/-- `0x3001.12` ActiveVersion (0xFF). -/
def Reg.activeVersion : Obj := ⟨0x3001, 0x12, 1, 1, false, 1, 255⟩
/-- `0x3001.13` ReceivedSettleLimitTicks (312,500). -/
def Reg.receivedSettleLimitTicks : Obj := ⟨0x3001, 0x13, 3, 1, false, 4, 312500⟩

/-! Family 0x3002 (07_runner_transport.md) -/
/-- `0x3002.01[v]` TableAddr (0). -/
def Reg.tableAddr : Obj := ⟨0x3002, 0x01, 4, 1, false, 8, 0⟩
/-- `0x3002.02[v]` TableBytes (0). -/
def Reg.tableBytes : Obj := ⟨0x3002, 0x02, 3, 1, false, 4, 0⟩
/-- `0x3002.03[v]` TableLoadGo (no reset value). -/
def Reg.tableLoadGo : Obj := ⟨0x3002, 0x03, 0, 2, false, 1, 0⟩
/-- `0x3002.04[v]` VersionState (0). -/
def Reg.versionState : Obj := ⟨0x3002, 0x04, 1, 1, false, 1, 0⟩
/-- `0x3002.05[v]` TableCrcLoaded (0). -/
def Reg.tableCrcLoaded : Obj := ⟨0x3002, 0x05, 3, 0, false, 4, 0⟩

/-! Family 0x3003 (07_runner_transport.md) -/
/-- `0x3003.01[p]` EpochInFlight0 (0). -/
def Reg.epochInFlight0 : Obj := ⟨0x3003, 0x01, 3, 0, false, 4, 0⟩
/-- `0x3003.02[p]` EpochInFlight1 (0). -/
def Reg.epochInFlight1 : Obj := ⟨0x3003, 0x02, 3, 0, false, 4, 0⟩
/-- `0x3003.03[p]` ForwardedFrames (0). -/
def Reg.forwardedFrames : Obj := ⟨0x3003, 0x03, 4, 0, false, 8, 0⟩
/-- `0x3003.04[p]` ForwardDrops (0). -/
def Reg.forwardDrops : Obj := ⟨0x3003, 0x04, 4, 0, false, 8, 0⟩

/-! Family 0x3004 (07_runner_transport.md) -/
/-- `0x3004.01` PeerQueryNode (0). -/
def Reg.peerQueryNode : Obj := ⟨0x3004, 0x01, 3, 1, false, 4, 0⟩
/-- `0x3004.02` PeerState (0). -/
def Reg.peerState : Obj := ⟨0x3004, 0x02, 1, 0, false, 1, 0⟩
/-- `0x3004.03` PeerIncarnation (0). -/
def Reg.peerIncarnation : Obj := ⟨0x3004, 0x03, 2, 0, false, 2, 0⟩
/-- `0x3004.04` PeerCaps (0). -/
def Reg.peerCaps : Obj := ⟨0x3004, 0x04, 1, 0, false, 1, 0⟩
/-- `0x3004.05` PeerSendNext (0). -/
def Reg.peerSendNext : Obj := ⟨0x3004, 0x05, 11, 0, false, 12, 0⟩
/-- `0x3004.06` PeerCumSettled (0). -/
def Reg.peerCumSettled : Obj := ⟨0x3004, 0x06, 11, 0, false, 12, 0⟩
/-- `0x3004.07` PeerCommand (no reset value). -/
def Reg.peerCommand : Obj := ⟨0x3004, 0x07, 1, 2, false, 1, 0⟩

/-! Family 0x3010 (07_runner_transport.md) -/
/-- `0x3010.01` FramesSent (0). -/
def Reg.framesSent : Obj := ⟨0x3010, 0x01, 4, 0, false, 8, 0⟩
/-- `0x3010.02` FramesReceived (0). -/
def Reg.framesReceived : Obj := ⟨0x3010, 0x02, 4, 0, false, 8, 0⟩
/-- `0x3010.03` Retransmits (0). -/
def Reg.retransmits : Obj := ⟨0x3010, 0x03, 4, 0, false, 8, 0⟩
/-- `0x3010.04` Duplicates (0). -/
def Reg.duplicates : Obj := ⟨0x3010, 0x04, 4, 0, false, 8, 0⟩
/-- `0x3010.05` BeyondWindow (0). -/
def Reg.beyondWindow : Obj := ⟨0x3010, 0x05, 4, 0, false, 8, 0⟩
/-- `0x3010.06` Expired (0). -/
def Reg.expired : Obj := ⟨0x3010, 0x06, 4, 0, false, 8, 0⟩
/-- `0x3010.07` HeaderCrcErrors (0). -/
def Reg.headerCrcErrors : Obj := ⟨0x3010, 0x07, 4, 0, false, 8, 0⟩
/-- `0x3010.08` TrailerErrors (0). -/
def Reg.trailerErrors : Obj := ⟨0x3010, 0x08, 4, 0, false, 8, 0⟩
/-- `0x3010.09` Malformed (0). -/
def Reg.malformed : Obj := ⟨0x3010, 0x09, 4, 0, false, 8, 0⟩
/-- `0x3010.0A` NotJoined (0). -/
def Reg.notJoined : Obj := ⟨0x3010, 0x0A, 4, 0, false, 8, 0⟩
/-- `0x3010.0B` NotForMe (0). -/
def Reg.notForMe : Obj := ⟨0x3010, 0x0B, 4, 0, false, 8, 0⟩
/-- `0x3010.0C` RefusedSettles (0). -/
def Reg.refusedSettles : Obj := ⟨0x3010, 0x0C, 4, 0, false, 8, 0⟩
/-- `0x3010.0D` AtomicsApplied (0). -/
def Reg.atomicsApplied : Obj := ⟨0x3010, 0x0D, 4, 0, false, 8, 0⟩
/-- `0x3010.0E` AtomicCachedReplies (0). -/
def Reg.atomicCachedReplies : Obj := ⟨0x3010, 0x0E, 4, 0, false, 8, 0⟩
/-- `0x3010.0F` AtomicStale (0). -/
def Reg.atomicStale : Obj := ⟨0x3010, 0x0F, 4, 0, false, 8, 0⟩
/-- `0x3010.10` AtomicBusy (0). -/
def Reg.atomicBusy : Obj := ⟨0x3010, 0x10, 4, 0, false, 8, 0⟩
/-- `0x3010.11` OutcomeUnknown (0). -/
def Reg.outcomeUnknown : Obj := ⟨0x3010, 0x11, 4, 0, false, 8, 0⟩
/-- `0x3010.12` PeersDeclaredDead (0). -/
def Reg.peersDeclaredDead : Obj := ⟨0x3010, 0x12, 4, 0, false, 8, 0⟩
/-- `0x3010.13` PeerCacheMisses (0). -/
def Reg.peerCacheMisses : Obj := ⟨0x3010, 0x13, 4, 0, false, 8, 0⟩
/-- `0x3010.14` PeerCacheFull (0). -/
def Reg.peerCacheFull : Obj := ⟨0x3010, 0x14, 4, 0, false, 8, 0⟩
/-- `0x3010.15` NoRoute (0). -/
def Reg.noRoute : Obj := ⟨0x3010, 0x15, 4, 0, false, 8, 0⟩
/-- `0x3010.16` StaleEpochDrops (0). -/
def Reg.staleEpochDrops : Obj := ⟨0x3010, 0x16, 4, 0, false, 8, 0⟩
/-- `0x3010.17` HopCreditWaitCycles (0). -/
def Reg.hopCreditWaitCycles : Obj := ⟨0x3010, 0x17, 4, 0, false, 8, 0⟩

/-! Family 0x3100 (08_ethernet_ports.md) -/
/-- `0x3100.01` FabricPrefix (all zero). -/
def Reg.fabricPrefix : Obj := ⟨0x3100, 0x01, 11, 3, true, 8, 0⟩
/-- `0x3100.02` RunnerUdpPort (39,710). -/
def Reg.runnerUdpPort : Obj := ⟨0x3100, 0x02, 2, 3, false, 2, 39710⟩
/-- `0x3100.03` RawEtherType (0x88B5). -/
def Reg.rawEtherType : Obj := ⟨0x3100, 0x03, 2, 3, false, 2, 34997⟩
/-- `0x3100.04` HopLimit (64). -/
def Reg.hopLimit : Obj := ⟨0x3100, 0x04, 1, 1, false, 1, 64⟩
/-- `0x3100.05` EcnMark (1). -/
def Reg.ecnMark : Obj := ⟨0x3100, 0x05, 1, 1, false, 1, 1⟩
/-- `0x3100.06` MgmtVlanId (0). -/
def Reg.mgmtVlanId : Obj := ⟨0x3100, 0x06, 2, 1, false, 2, 0⟩
/-- `0x3100.07` LinkEventPending (0). -/
def Reg.linkEventPending : Obj := ⟨0x3100, 0x07, 0, 0, false, 1, 0⟩
/-- `0x3100.08` LinkEventClear (no reset value). -/
def Reg.linkEventClear : Obj := ⟨0x3100, 0x08, 0, 2, false, 1, 0⟩
/-- `0x3100.09` LinkEventMask (0). -/
def Reg.linkEventMask : Obj := ⟨0x3100, 0x09, 0, 1, false, 1, 0⟩

/-! Family 0x3110 (08_ethernet_ports.md) -/
/-- `0x3110.01[p]` PortEnable (0). -/
def Reg.portEnable : Obj := ⟨0x3110, 0x01, 0, 1, false, 1, 0⟩
/-- `0x3110.02[p]` PortMode (0). -/
def Reg.portMode : Obj := ⟨0x3110, 0x02, 1, 1, false, 1, 0⟩
/-- `0x3110.03[p]` PortMac (all zero). -/
def Reg.portMac : Obj := ⟨0x3110, 0x03, 11, 1, false, 6, 0⟩
/-- `0x3110.04[p]` NextHopMac (all zero). -/
def Reg.nextHopMac : Obj := ⟨0x3110, 0x04, 11, 1, false, 6, 0⟩
/-- `0x3110.05[p]` VlanId (1). -/
def Reg.vlanId : Obj := ⟨0x3110, 0x05, 2, 1, false, 2, 1⟩
/-- `0x3110.06[p]` AcceptUntagged (0). -/
def Reg.acceptUntagged : Obj := ⟨0x3110, 0x06, 0, 1, false, 1, 0⟩
/-- `0x3110.07[p]` LaneSwap (0). -/
def Reg.laneSwap : Obj := ⟨0x3110, 0x07, 0, 1, false, 1, 0⟩
/-- `0x3110.08[p]` PfcEnable (0). -/
def Reg.pfcEnable : Obj := ⟨0x3110, 0x08, 0, 1, false, 1, 0⟩
/-- `0x3110.09[p]` PfcXoffBytes (131,072). -/
def Reg.pfcXoffBytes : Obj := ⟨0x3110, 0x09, 3, 1, false, 4, 131072⟩
/-- `0x3110.0A[p]` LinkUpTicks (3,125). -/
def Reg.linkUpTicks : Obj := ⟨0x3110, 0x0A, 3, 1, false, 4, 3125⟩
/-- `0x3110.0B[p]` LinkDownTicks (8). -/
def Reg.linkDownTicks : Obj := ⟨0x3110, 0x0B, 2, 1, false, 2, 8⟩
/-- `0x3110.0C[p]` FecDownThreshold (16). -/
def Reg.fecDownThreshold : Obj := ⟨0x3110, 0x0C, 3, 1, false, 4, 16⟩
/-- `0x3110.0D[p]` PortStatus (0). -/
def Reg.portStatus : Obj := ⟨0x3110, 0x0D, 3, 0, false, 4, 0⟩
/-- `0x3110.0E[p]` PortReset (no reset value). -/
def Reg.portReset : Obj := ⟨0x3110, 0x0E, 0, 2, false, 1, 0⟩

/-! Family 0x3120 (08_ethernet_ports.md) -/
/-- `0x3120.01[p]` TxFrames (0). -/
def Reg.txFrames : Obj := ⟨0x3120, 0x01, 4, 0, false, 8, 0⟩
/-- `0x3120.02[p]` TxBytes (0). -/
def Reg.txBytes : Obj := ⟨0x3120, 0x02, 4, 0, false, 8, 0⟩
/-- `0x3120.03[p]` RxFrames (0). -/
def Reg.rxFrames : Obj := ⟨0x3120, 0x03, 4, 0, false, 8, 0⟩
/-- `0x3120.04[p]` RxBytes (0). -/
def Reg.rxBytes : Obj := ⟨0x3120, 0x04, 4, 0, false, 8, 0⟩
/-- `0x3120.05[p]` FcsErrors (0). -/
def Reg.fcsErrors : Obj := ⟨0x3120, 0x05, 4, 0, false, 8, 0⟩
/-- `0x3120.06[p]` Oversize (0). -/
def Reg.oversize : Obj := ⟨0x3120, 0x06, 4, 0, false, 8, 0⟩
/-- `0x3120.07[p]` TagErrors (0). -/
def Reg.tagErrors : Obj := ⟨0x3120, 0x07, 4, 0, false, 8, 0⟩
/-- `0x3120.08[p]` UnknownType (0). -/
def Reg.unknownType : Obj := ⟨0x3120, 0x08, 4, 0, false, 8, 0⟩
/-- `0x3120.09[p]` NotForMe (0). -/
def Reg.portNotForMe : Obj := ⟨0x3120, 0x09, 4, 0, false, 8, 0⟩
/-- `0x3120.0A[p]` SrhErrors (0). -/
def Reg.srhErrors : Obj := ⟨0x3120, 0x0A, 4, 0, false, 8, 0⟩
/-- `0x3120.0B[p]` UdpChecksumErrors (0). -/
def Reg.udpChecksumErrors : Obj := ⟨0x3120, 0x0B, 4, 0, false, 8, 0⟩
/-- `0x3120.0C[p]` PauseIgnored (0). -/
def Reg.pauseIgnored : Obj := ⟨0x3120, 0x0C, 4, 0, false, 8, 0⟩
/-- `0x3120.0D[p]` PfcSent (0). -/
def Reg.pfcSent : Obj := ⟨0x3120, 0x0D, 4, 0, false, 8, 0⟩
/-- `0x3120.0E[p]` PfcPausedTicks (0). -/
def Reg.pfcPausedTicks : Obj := ⟨0x3120, 0x0E, 4, 0, false, 8, 0⟩
/-- `0x3120.0F[p]` RxFifoDrops (0). -/
def Reg.rxFifoDrops : Obj := ⟨0x3120, 0x0F, 4, 0, false, 8, 0⟩
/-- `0x3120.10[p]` EcnCe (0). -/
def Reg.ecnCe : Obj := ⟨0x3120, 0x10, 4, 0, false, 8, 0⟩
/-- `0x3120.11[p]` FecCorrected (0). -/
def Reg.fecCorrected : Obj := ⟨0x3120, 0x11, 4, 0, false, 8, 0⟩
/-- `0x3120.12[p]` FecUncorrectable (0). -/
def Reg.fecUncorrectable : Obj := ⟨0x3120, 0x12, 4, 0, false, 8, 0⟩
/-- `0x3120.13[p]` LinkDownEvents (0). -/
def Reg.linkDownEvents : Obj := ⟨0x3120, 0x13, 4, 0, false, 8, 0⟩
/-- `0x3120.14[p]` SurveyLost (0). -/
def Reg.surveyLost : Obj := ⟨0x3120, 0x14, 4, 0, false, 8, 0⟩

/-! Family 0x3130 (08_ethernet_ports.md) -/
/-- `0x3130.01[i]` Segment (all zero). -/
def Reg.segment : Obj := ⟨0x3130, 0x01, 11, 3, false, 16, 0⟩

/-! Family 0x3140 (08_ethernet_ports.md) -/
/-- `0x3140.01` SurveyNode (0). -/
def Reg.surveyNode : Obj := ⟨0x3140, 0x01, 3, 1, false, 4, 0⟩
/-- `0x3140.02` SurveyPort (0). -/
def Reg.surveyPort : Obj := ⟨0x3140, 0x02, 1, 1, false, 1, 0⟩
/-- `0x3140.03` SurveyPortFirst (49,152). -/
def Reg.surveyPortFirst : Obj := ⟨0x3140, 0x03, 2, 1, false, 2, 49152⟩
/-- `0x3140.04` SurveyPortCount (64). -/
def Reg.surveyPortCount : Obj := ⟨0x3140, 0x04, 2, 1, false, 2, 64⟩
/-- `0x3140.05` SurveyHops (4). -/
def Reg.surveyHops : Obj := ⟨0x3140, 0x05, 1, 1, false, 1, 4⟩
/-- `0x3140.06` SurveyResultAddr (0). -/
def Reg.surveyResultAddr : Obj := ⟨0x3140, 0x06, 4, 1, false, 8, 0⟩
/-- `0x3140.07` SurveyResultMax (0). -/
def Reg.surveyResultMax : Obj := ⟨0x3140, 0x07, 2, 1, false, 2, 0⟩
/-- `0x3140.08` SurveyWaitTicks (3,125). -/
def Reg.surveyWaitTicks : Obj := ⟨0x3140, 0x08, 3, 1, false, 4, 3125⟩
/-- `0x3140.09` SurveyGo (no reset value). -/
def Reg.surveyGo : Obj := ⟨0x3140, 0x09, 0, 2, false, 1, 0⟩
/-- `0x3140.0A` SurveyState (0). -/
def Reg.surveyState : Obj := ⟨0x3140, 0x0A, 1, 0, false, 1, 0⟩
/-- `0x3140.0B` SurveyRecords (0). -/
def Reg.surveyRecords : Obj := ⟨0x3140, 0x0B, 2, 0, false, 2, 0⟩

/-! Family 0x4001 (09_landing.md) -/
/-- `0x4001.01[h]` LandingWindowId (0). -/
def Reg.landingWindowId : Obj := ⟨0x4001, 0x01, 2, 1, false, 2, 0⟩
/-- `0x4001.02[h]` GroupRingBase (0). -/
def Reg.groupRingBase : Obj := ⟨0x4001, 0x02, 4, 1, false, 8, 0⟩
/-- `0x4001.03[h]` GroupRingBytesLog2 (16). -/
def Reg.groupRingBytesLog2 : Obj := ⟨0x4001, 0x03, 1, 1, false, 1, 16⟩
/-- `0x4001.04[h]` GroupTally (0). -/
def Reg.groupTally : Obj := ⟨0x4001, 0x04, 3, 1, false, 4, 0⟩
/-- `0x4001.05[h]` HoldFrames (64). -/
def Reg.holdFrames : Obj := ⟨0x4001, 0x05, 2, 1, false, 2, 64⟩
/-- `0x4001.06[h]` UseLimitTicks (31,250). -/
def Reg.useLimitTicks : Obj := ⟨0x4001, 0x06, 3, 1, false, 4, 31250⟩
/-- `0x4001.07[h]` GroupStallTicks (63). -/
def Reg.groupStallTicks : Obj := ⟨0x4001, 0x07, 2, 1, false, 2, 63⟩

/-! Family 0x4010 (09_landing.md) -/
/-- `0x4010.01` CopiesCommitted (0). -/
def Reg.copiesCommitted : Obj := ⟨0x4010, 0x01, 4, 0, false, 8, 0⟩
/-- `0x4010.02` CopiesCommittedHbm (0). -/
def Reg.copiesCommittedHbm : Obj := ⟨0x4010, 0x02, 4, 0, false, 8, 0⟩
/-- `0x4010.03` FramesRewound (0). -/
def Reg.framesRewound : Obj := ⟨0x4010, 0x03, 4, 0, false, 8, 0⟩
/-- `0x4010.04` RefusedWindow (0). -/
def Reg.refusedWindow : Obj := ⟨0x4010, 0x04, 4, 0, false, 8, 0⟩
/-- `0x4010.05` RefusedNotTarget (0). -/
def Reg.refusedNotTarget : Obj := ⟨0x4010, 0x05, 4, 0, false, 8, 0⟩
/-- `0x4010.06` RefusedPlan (0). -/
def Reg.refusedPlan : Obj := ⟨0x4010, 0x06, 4, 0, false, 8, 0⟩
/-- `0x4010.07` FramesHeld (0). -/
def Reg.framesHeld : Obj := ⟨0x4010, 0x07, 4, 0, false, 8, 0⟩
/-- `0x4010.08` HoldDrops (0). -/
def Reg.holdDrops : Obj := ⟨0x4010, 0x08, 4, 0, false, 8, 0⟩
/-- `0x4010.09` BeyondUseDrops (0). -/
def Reg.beyondUseDrops : Obj := ⟨0x4010, 0x09, 4, 0, false, 8, 0⟩
/-- `0x4010.0A` PoolBusy (0). -/
def Reg.poolBusy : Obj := ⟨0x4010, 0x0A, 4, 0, false, 8, 0⟩
/-- `0x4010.0B` ForcedCloses (0). -/
def Reg.forcedCloses : Obj := ⟨0x4010, 0x0B, 4, 0, false, 8, 0⟩
/-- `0x4010.0C` GroupTables (0). -/
def Reg.groupTables : Obj := ⟨0x4010, 0x0C, 4, 0, false, 8, 0⟩
/-- `0x4010.0D` GroupRingFullCycles (0). -/
def Reg.groupRingFullCycles : Obj := ⟨0x4010, 0x0D, 4, 0, false, 8, 0⟩
/-- `0x4010.0E` PopEmpty (0). -/
def Reg.popEmpty : Obj := ⟨0x4010, 0x0E, 4, 0, false, 8, 0⟩
/-- `0x4010.0F` ReleaseIgnored (0). -/
def Reg.releaseIgnored : Obj := ⟨0x4010, 0x0F, 4, 0, false, 8, 0⟩

/-! Family 0x4101 (10_stitch.md) -/
/-- `0x4101.01` StitchWaitTicks (93,750). -/
def Reg.stitchWaitTicks : Obj := ⟨0x4101, 0x01, 3, 1, false, 4, 93750⟩
/-- `0x4101.02` BlocksOpen (0). -/
def Reg.blocksOpen : Obj := ⟨0x4101, 0x02, 2, 0, false, 2, 0⟩
/-- `0x4101.03` RowsQueued (0). -/
def Reg.rowsQueued : Obj := ⟨0x4101, 0x03, 2, 0, false, 2, 0⟩

/-! Family 0x4110 (10_stitch.md) -/
/-- `0x4110.01[h]` BlocksOpened (0). -/
def Reg.blocksOpened : Obj := ⟨0x4110, 0x01, 4, 0, false, 8, 0⟩
/-- `0x4110.02[h]` BlockWaitCycles (0). -/
def Reg.blockWaitCycles : Obj := ⟨0x4110, 0x02, 4, 0, false, 8, 0⟩
/-- `0x4110.03[h]` RowsWritten (0). -/
def Reg.rowsWritten : Obj := ⟨0x4110, 0x03, 4, 0, false, 8, 0⟩
/-- `0x4110.04[h]` RowsPassThrough (0). -/
def Reg.rowsPassThrough : Obj := ⟨0x4110, 0x04, 4, 0, false, 8, 0⟩
/-- `0x4110.05[h]` AnswersStitched (0). -/
def Reg.answersStitched : Obj := ⟨0x4110, 0x05, 4, 0, false, 8, 0⟩
/-- `0x4110.06[h]` SharedRowsRead (0). -/
def Reg.sharedRowsRead : Obj := ⟨0x4110, 0x06, 4, 0, false, 8, 0⟩
/-- `0x4110.07[h]` SharedRepeats (0). -/
def Reg.sharedRepeats : Obj := ⟨0x4110, 0x07, 4, 0, false, 8, 0⟩
/-- `0x4110.08[h]` RanksLost (0). -/
def Reg.ranksLost : Obj := ⟨0x4110, 0x08, 4, 0, false, 8, 0⟩
/-- `0x4110.09[h]` RanksLostTimeout (0). -/
def Reg.ranksLostTimeout : Obj := ⟨0x4110, 0x09, 4, 0, false, 8, 0⟩
/-- `0x4110.0A[h]` DropCancelled (0). -/
def Reg.dropCancelled : Obj := ⟨0x4110, 0x0A, 4, 0, false, 8, 0⟩
/-- `0x4110.0B[h]` DropEnded (0). -/
def Reg.dropEnded : Obj := ⟨0x4110, 0x0B, 4, 0, false, 8, 0⟩
/-- `0x4110.0C[h]` AnswersInvalid (0). -/
def Reg.answersInvalid : Obj := ⟨0x4110, 0x0C, 4, 0, false, 8, 0⟩
/-- `0x4110.0D[h]` DuplicateRanks (0). -/
def Reg.duplicateRanks : Obj := ⟨0x4110, 0x0D, 4, 0, false, 8, 0⟩
/-- `0x4110.0E[h]` LateAnswers (0). -/
def Reg.lateAnswers : Obj := ⟨0x4110, 0x0E, 4, 0, false, 8, 0⟩
/-- `0x4110.0F[h]` ReturnsRefused (0). -/
def Reg.returnsRefused : Obj := ⟨0x4110, 0x0F, 4, 0, false, 8, 0⟩
/-- `0x4110.10[h]` ResidueRetries (0). -/
def Reg.residueRetries : Obj := ⟨0x4110, 0x10, 4, 0, false, 8, 0⟩
/-- `0x4110.11[h]` ResidueFailures (0). -/
def Reg.residueFailures : Obj := ⟨0x4110, 0x11, 4, 0, false, 8, 0⟩
/-- `0x4110.12[h]` CombineWaitCycles (0). -/
def Reg.combineWaitCycles : Obj := ⟨0x4110, 0x12, 4, 0, false, 8, 0⟩

/-! Family 0x5001 (11_tallies_collectives_balance.md) -/
/-- `0x5001.01[h]` TallyBase (0). -/
def Reg.tallyBase : Obj := ⟨0x5001, 0x01, 3, 3, false, 4, 0⟩
/-- `0x5001.02[h]` TallyCount (0). -/
def Reg.tallyCount : Obj := ⟨0x5001, 0x02, 3, 3, false, 4, 0⟩

/-! Family 0x5010 (11_tallies_collectives_balance.md) -/
/-- `0x5010.01` TallyUpdates (0). -/
def Reg.tallyUpdates : Obj := ⟨0x5010, 0x01, 4, 0, false, 8, 0⟩
/-- `0x5010.02` RemoteIncrements (0). -/
def Reg.remoteIncrements : Obj := ⟨0x5010, 0x02, 4, 0, false, 8, 0⟩
/-- `0x5010.03` WaitsReleased (0). -/
def Reg.waitsReleased : Obj := ⟨0x5010, 0x03, 4, 0, false, 8, 0⟩
/-- `0x5010.04` PolledWaits (0). -/
def Reg.polledWaits : Obj := ⟨0x5010, 0x04, 4, 0, false, 8, 0⟩
/-- `0x5010.05` TallyRefused (0). -/
def Reg.tallyRefused : Obj := ⟨0x5010, 0x05, 4, 0, false, 8, 0⟩
/-- `0x5010.06` TallyParityErrors (0). -/
def Reg.tallyParityErrors : Obj := ⟨0x5010, 0x06, 4, 0, false, 8, 0⟩
/-- `0x5010.07` CollStarted (0). -/
def Reg.collStarted : Obj := ⟨0x5010, 0x07, 4, 0, false, 8, 0⟩
/-- `0x5010.08` CollCommitted (0). -/
def Reg.collCommitted : Obj := ⟨0x5010, 0x08, 4, 0, false, 8, 0⟩
/-- `0x5010.09` CollAborted (0). -/
def Reg.collAborted : Obj := ⟨0x5010, 0x09, 4, 0, false, 8, 0⟩
/-- `0x5010.0A` CollWatchdogFires (0). -/
def Reg.collWatchdogFires : Obj := ⟨0x5010, 0x0A, 4, 0, false, 8, 0⟩
/-- `0x5010.0B` CollResidueRetries (0). -/
def Reg.collResidueRetries : Obj := ⟨0x5010, 0x0B, 4, 0, false, 8, 0⟩
/-- `0x5010.0C` CollResidueFailures (0). -/
def Reg.collResidueFailures : Obj := ⟨0x5010, 0x0C, 4, 0, false, 8, 0⟩
/-- `0x5010.0D` CollStale (0). -/
def Reg.collStale : Obj := ⟨0x5010, 0x0D, 4, 0, false, 8, 0⟩
/-- `0x5010.0E` BalanceRounds (0). -/
def Reg.balanceRounds : Obj := ⟨0x5010, 0x0E, 4, 0, false, 8, 0⟩
/-- `0x5010.0F` EpochsArmed (0). -/
def Reg.epochsArmed : Obj := ⟨0x5010, 0x0F, 4, 0, false, 8, 0⟩
/-- `0x5010.10` EpochsIgnored (0). -/
def Reg.epochsIgnored : Obj := ⟨0x5010, 0x10, 4, 0, false, 8, 0⟩
/-- `0x5010.11` AbortedRounds (0). -/
def Reg.abortedRounds : Obj := ⟨0x5010, 0x11, 4, 0, false, 8, 0⟩
/-- `0x5010.12` BiasLateEvents (0). -/
def Reg.biasLateEvents : Obj := ⟨0x5010, 0x12, 4, 0, false, 8, 0⟩
/-- `0x5010.13` BiasHeldTicks (0). -/
def Reg.biasHeldTicks : Obj := ⟨0x5010, 0x13, 4, 0, false, 8, 0⟩

/-! Family 0x5020 (11_tallies_collectives_balance.md) -/
/-- `0x5020.01[g]` GroupEnable (0). -/
def Reg.groupEnable : Obj := ⟨0x5020, 0x01, 0, 1, false, 1, 0⟩
/-- `0x5020.02[g]` GroupHost (0). -/
def Reg.groupHost : Obj := ⟨0x5020, 0x02, 1, 1, false, 1, 0⟩
/-- `0x5020.03[g]` GroupKey (0). -/
def Reg.groupKey : Obj := ⟨0x5020, 0x03, 2, 1, false, 2, 0⟩
/-- `0x5020.04[g]` MemberListAddr (0). -/
def Reg.memberListAddr : Obj := ⟨0x5020, 0x04, 4, 1, false, 8, 0⟩
/-- `0x5020.05[g]` MemberCount (2). -/
def Reg.memberCount : Obj := ⟨0x5020, 0x05, 2, 1, false, 2, 2⟩
/-- `0x5020.06[g]` MyRank (0). -/
def Reg.myRank : Obj := ⟨0x5020, 0x06, 2, 0, false, 2, 0⟩
/-- `0x5020.07[g]` Algorithm (2). -/
def Reg.algorithm : Obj := ⟨0x5020, 0x07, 1, 1, false, 1, 2⟩
/-- `0x5020.08[g]` TreeMaxBytes (65,536). -/
def Reg.treeMaxBytes : Obj := ⟨0x5020, 0x08, 3, 1, false, 4, 65536⟩
/-- `0x5020.09[g]` CollDepth (4). -/
def Reg.collDepth : Obj := ⟨0x5020, 0x09, 1, 1, false, 1, 4⟩
/-- `0x5020.0A[g]` CollStepTicks (3,125). -/
def Reg.collStepTicks : Obj := ⟨0x5020, 0x0A, 3, 1, false, 4, 3125⟩
/-- `0x5020.0B[g]` CompletionTallyEnable (0). -/
def Reg.completionTallyEnable : Obj := ⟨0x5020, 0x0B, 0, 1, false, 1, 0⟩
/-- `0x5020.0C[g]` CompletionTally (0). -/
def Reg.completionTally : Obj := ⟨0x5020, 0x0C, 3, 1, false, 4, 0⟩
/-- `0x5020.0D[g]` GroupStatus (0). -/
def Reg.groupStatus : Obj := ⟨0x5020, 0x0D, 1, 0, false, 1, 0⟩
/-- `0x5020.0E[g]` CollNumber (0). -/
def Reg.collNumber : Obj := ⟨0x5020, 0x0E, 3, 0, false, 4, 0⟩

/-! Family 0x5040 (11_tallies_collectives_balance.md) -/
/-- `0x5040.01[b]` BalanceEnable (0). -/
def Reg.balanceEnable : Obj := ⟨0x5040, 0x01, 0, 1, false, 1, 0⟩
/-- `0x5040.02[b]` BalancePlan (0). -/
def Reg.balancePlan : Obj := ⟨0x5040, 0x02, 2, 1, false, 2, 0⟩
/-- `0x5040.03[b]` FirstLayer (0). -/
def Reg.firstLayer : Obj := ⟨0x5040, 0x03, 1, 1, false, 1, 0⟩
/-- `0x5040.04[b]` LastLayer (0). -/
def Reg.lastLayer : Obj := ⟨0x5040, 0x04, 1, 1, false, 1, 0⟩
/-- `0x5040.05[b]` BalanceContext (0). -/
def Reg.balanceContext : Obj := ⟨0x5040, 0x05, 2, 1, false, 2, 0⟩
/-- `0x5040.06[b]` CollGroup (0). -/
def Reg.collGroup : Obj := ⟨0x5040, 0x06, 1, 1, false, 1, 0⟩
/-- `0x5040.07[b]` Period (32). -/
def Reg.period : Obj := ⟨0x5040, 0x07, 2, 1, false, 2, 32⟩
/-- `0x5040.08[b]` ApplyDelay (8). -/
def Reg.applyDelay : Obj := ⟨0x5040, 0x08, 2, 1, false, 2, 8⟩
/-- `0x5040.09[b]` Gain (64). -/
def Reg.gain : Obj := ⟨0x5040, 0x09, 2, 1, false, 2, 64⟩
/-- `0x5040.0A[b]` MaxStep (32). -/
def Reg.maxStep : Obj := ⟨0x5040, 0x0A, 2, 1, false, 2, 32⟩
/-- `0x5040.0B[b]` BiasMin (−4,096). -/
def Reg.biasMin : Obj := ⟨0x5040, 0x0B, 6, 1, false, 2, 61440⟩
/-- `0x5040.0C[b]` BiasMax (4,096). -/
def Reg.biasMax : Obj := ⟨0x5040, 0x0C, 6, 1, false, 2, 4096⟩
/-- `0x5040.0D[b]` BiasLateTicks (1,563). -/
def Reg.biasLateTicks : Obj := ⟨0x5040, 0x0D, 3, 1, false, 4, 1563⟩
/-- `0x5040.0E[b]` BalanceState (0). -/
def Reg.balanceState : Obj := ⟨0x5040, 0x0E, 1, 0, false, 1, 0⟩
/-- `0x5040.0F[b]` Rejoin (no reset value). -/
def Reg.rejoin : Obj := ⟨0x5040, 0x0F, 0, 2, false, 1, 0⟩
/-- `0x5040.10[b]` EpochInForce (0). -/
def Reg.epochInForce : Obj := ⟨0x5040, 0x10, 3, 0, false, 4, 0⟩
/-- `0x5040.11[b]` PendingApplyStep (0). -/
def Reg.pendingApplyStep : Obj := ⟨0x5040, 0x11, 3, 0, false, 4, 0⟩

/-! Family 0x5050 (11_tallies_collectives_balance.md) -/
/-- `0x5050.01` QueryPlan (0). -/
def Reg.queryPlan : Obj := ⟨0x5050, 0x01, 2, 1, false, 2, 0⟩
/-- `0x5050.02` QueryLayer (0). -/
def Reg.queryLayer : Obj := ⟨0x5050, 0x02, 1, 1, false, 1, 0⟩
/-- `0x5050.03` SnapshotGo (no reset value). -/
def Reg.snapshotGo : Obj := ⟨0x5050, 0x03, 0, 2, false, 1, 0⟩
/-- `0x5050.04` LoadSnapshot (empty). -/
def Reg.loadSnapshot : Obj := ⟨0x5050, 0x04, 13, 0, false, 0, 0⟩
/-- `0x5050.05` BiasInForce (empty). -/
def Reg.biasInForce : Obj := ⟨0x5050, 0x05, 13, 0, false, 0, 0⟩
/-- `0x5050.06` BiasPending (empty). -/
def Reg.biasPending : Obj := ⟨0x5050, 0x06, 13, 0, false, 0, 0⟩

/-! Family 0x6001 (12_pattern_sequencers.md) -/
/-- `0x6001.01` RestWatchdogTicks (250). -/
def Reg.restWatchdogTicks : Obj := ⟨0x6001, 0x01, 3, 1, false, 4, 250⟩

/-! Family 0x6002 (14_contexts_and_sharing.md) -/
/-- `0x6002.01` StarveTicks (31,250). -/
def Reg.starveTicks : Obj := ⟨0x6002, 0x01, 3, 1, false, 4, 31250⟩
/-- `0x6002.02` AbortLimit (2). -/
def Reg.abortLimit : Obj := ⟨0x6002, 0x02, 1, 1, false, 1, 2⟩
/-- `0x6002.03` ContextImageWindow (0). -/
def Reg.contextImageWindow : Obj := ⟨0x6002, 0x03, 2, 3, false, 2, 0⟩

/-! Family 0x6010 (12_pattern_sequencers.md) -/
/-- `0x6010.01[s]` WordsIssued (0). -/
def Reg.wordsIssued : Obj := ⟨0x6010, 0x01, 4, 0, false, 8, 0⟩
/-- `0x6010.02[s]` WaitsIssued (0). -/
def Reg.waitsIssued : Obj := ⟨0x6010, 0x02, 4, 0, false, 8, 0⟩
/-- `0x6010.03[s]` RestsBlocked (0). -/
def Reg.restsBlocked : Obj := ⟨0x6010, 0x03, 4, 0, false, 8, 0⟩
/-- `0x6010.04[s]` ContextSwitches (0). -/
def Reg.contextSwitches : Obj := ⟨0x6010, 0x04, 4, 0, false, 8, 0⟩
/-- `0x6010.05[s]` SlotStallCycles (0). -/
def Reg.slotStallCycles : Obj := ⟨0x6010, 0x05, 4, 0, false, 8, 0⟩
/-- `0x6010.06[s]` RestWatchdogFires (0). -/
def Reg.restWatchdogFires : Obj := ⟨0x6010, 0x06, 4, 0, false, 8, 0⟩
/-- `0x6010.07[s]` PatternExceptions (0). -/
def Reg.patternExceptions : Obj := ⟨0x6010, 0x07, 4, 0, false, 8, 0⟩
/-- `0x6010.08[s]` EffectsSuppressed (0). -/
def Reg.effectsSuppressed : Obj := ⟨0x6010, 0x08, 4, 0, false, 8, 0⟩

/-! Family 0x6020 (12_pattern_sequencers.md) -/
/-- `0x6020.01[s]` ExcStopped (0). -/
def Reg.excStopped : Obj := ⟨0x6020, 0x01, 0, 0, false, 1, 0⟩
/-- `0x6020.02[s]` ExcContext (0). -/
def Reg.excContext : Obj := ⟨0x6020, 0x02, 2, 0, false, 2, 0⟩
/-- `0x6020.03[s]` ExcCode (0). -/
def Reg.excCode : Obj := ⟨0x6020, 0x03, 1, 0, false, 1, 0⟩
/-- `0x6020.04[s]` ExcPc (0). -/
def Reg.excPc : Obj := ⟨0x6020, 0x04, 2, 0, false, 2, 0⟩
/-- `0x6020.05[s]` ExcWord (all zero). -/
def Reg.excWord : Obj := ⟨0x6020, 0x05, 11, 0, false, 64, 0⟩
/-- `0x6020.06[s]` ExcAction (no reset value). -/
def Reg.excAction : Obj := ⟨0x6020, 0x06, 1, 2, false, 1, 0⟩

/-! Family 0x6030 (14_contexts_and_sharing.md) -/
/-- `0x6030.01[s]` ResidentCount (0). -/
def Reg.residentCount : Obj := ⟨0x6030, 0x01, 1, 0, false, 1, 0⟩
/-- `0x6030.02[s]` RunningContext (0xFFFF_FFFF). -/
def Reg.runningContext : Obj := ⟨0x6030, 0x02, 3, 0, false, 4, 4294967295⟩
/-- `0x6030.03[s]` TakePending (0). -/
def Reg.takePending : Obj := ⟨0x6030, 0x03, 0, 0, false, 1, 0⟩

/-! Family 0x6100 (12_pattern_sequencers.md) -/
/-- `0x6100.01[h]` PatternLoadAddr (0). -/
def Reg.patternLoadAddr : Obj := ⟨0x6100, 0x01, 4, 1, false, 8, 0⟩
/-- `0x6100.02[h]` PatternLoadBytes (0). -/
def Reg.patternLoadBytes : Obj := ⟨0x6100, 0x02, 3, 1, false, 4, 0⟩
/-- `0x6100.03[h]` PatternLoadGo (no reset value). -/
def Reg.patternLoadGo : Obj := ⟨0x6100, 0x03, 2, 2, false, 2, 0⟩
/-- `0x6100.04[h]` PatternLoadStatus (0). -/
def Reg.patternLoadStatus : Obj := ⟨0x6100, 0x04, 1, 0, false, 1, 0⟩
/-- `0x6100.05[h]` PatternUnload (no reset value). -/
def Reg.patternUnload : Obj := ⟨0x6100, 0x05, 2, 2, false, 2, 0⟩

/-! Family 0x6104 (12_pattern_sequencers.md) -/
/-- `0x6104.01[i]` PatternState (0). -/
def Reg.patternState : Obj := ⟨0x6104, 0x01, 1, 0, false, 1, 0⟩
/-- `0x6104.02[i]` PatternKind (0). -/
def Reg.patternKind : Obj := ⟨0x6104, 0x02, 1, 0, false, 1, 0⟩
/-- `0x6104.03[i]` PatternWords (0). -/
def Reg.patternWords : Obj := ⟨0x6104, 0x03, 2, 0, false, 2, 0⟩
/-- `0x6104.04[i]` PatternCrcLoaded (0). -/
def Reg.patternCrcLoaded : Obj := ⟨0x6104, 0x04, 3, 0, false, 4, 0⟩
/-- `0x6104.05[i]` PatternStamp (0). -/
def Reg.patternStamp : Obj := ⟨0x6104, 0x05, 3, 0, false, 4, 0⟩

/-! Family 0x6200 (14_contexts_and_sharing.md) -/
/-- `0x6200.01[x]` ContextDefine (no reset value). -/
def Reg.contextDefine : Obj := ⟨0x6200, 0x01, 0, 2, false, 1, 0⟩
/-- `0x6200.02[x]` ContextUndefine (no reset value). -/
def Reg.contextUndefine : Obj := ⟨0x6200, 0x02, 0, 2, false, 1, 0⟩
/-- `0x6200.03[x]` HomeRing (0). -/
def Reg.homeRing : Obj := ⟨0x6200, 0x03, 2, 1, false, 2, 0⟩
/-- `0x6200.04[x]` DispatchPattern (0). -/
def Reg.dispatchPattern : Obj := ⟨0x6200, 0x04, 2, 1, false, 2, 0⟩
/-- `0x6200.05[x]` InitialStep (0). -/
def Reg.initialStep : Obj := ⟨0x6200, 0x05, 3, 1, false, 4, 0⟩
/-- `0x6200.06[x]` EstFull (0). -/
def Reg.estFull : Obj := ⟨0x6200, 0x06, 3, 1, false, 4, 0⟩
/-- `0x6200.07[x]` EstReduced (0). -/
def Reg.estReduced : Obj := ⟨0x6200, 0x07, 3, 1, false, 4, 0⟩
/-- `0x6200.08[x]` EstSkip (0). -/
def Reg.estSkip : Obj := ⟨0x6200, 0x08, 3, 1, false, 4, 0⟩
/-- `0x6200.09[x]` ContextReset (no reset value). -/
def Reg.contextReset : Obj := ⟨0x6200, 0x09, 0, 2, false, 1, 0⟩
/-- `0x6200.0A[x]` ContextResetState (0). -/
def Reg.contextResetState : Obj := ⟨0x6200, 0x0A, 1, 0, false, 1, 0⟩

/-! Family 0x6210 (14_contexts_and_sharing.md) -/
/-- `0x6210.01[x]` ContextState (0). -/
def Reg.contextState : Obj := ⟨0x6210, 0x01, 1, 0, false, 1, 0⟩
/-- `0x6210.02[x]` Residency (0). -/
def Reg.residency : Obj := ⟨0x6210, 0x02, 1, 0, false, 1, 0⟩
/-- `0x6210.03[x]` Sequencer (0). -/
def Reg.sequencer : Obj := ⟨0x6210, 0x03, 1, 0, false, 1, 0⟩
/-- `0x6210.04[x]` ContextClass (0). -/
def Reg.contextClass : Obj := ⟨0x6210, 0x04, 1, 0, false, 1, 0⟩
/-- `0x6210.05[x]` WakeTolerance (0xFFFF_FFFF). -/
def Reg.wakeTolerance : Obj := ⟨0x6210, 0x05, 3, 0, false, 4, 4294967295⟩
/-- `0x6210.06[x]` Heat (0). -/
def Reg.heat : Obj := ⟨0x6210, 0x06, 2, 0, false, 2, 0⟩
/-- `0x6210.07[x]` Step (0). -/
def Reg.step : Obj := ⟨0x6210, 0x07, 3, 0, false, 4, 0⟩
/-- `0x6210.08[x]` WaitTicks (0). -/
def Reg.waitTicks : Obj := ⟨0x6210, 0x08, 4, 0, false, 8, 0⟩
/-- `0x6210.09[x]` RunCycles (0). -/
def Reg.runCycles : Obj := ⟨0x6210, 0x09, 4, 0, false, 8, 0⟩
/-- `0x6210.0A[x]` CommandsDone (0). -/
def Reg.commandsDone : Obj := ⟨0x6210, 0x0A, 4, 0, false, 8, 0⟩
/-- `0x6210.0B[x]` TakesSuffered (0). -/
def Reg.takesSuffered : Obj := ⟨0x6210, 0x0B, 3, 0, false, 4, 0⟩
/-- `0x6210.0C[x]` AbortsSuffered (0). -/
def Reg.abortsSuffered : Obj := ⟨0x6210, 0x0C, 3, 0, false, 4, 0⟩
/-- `0x6210.0D[x]` SwapIns (0). -/
def Reg.swapIns : Obj := ⟨0x6210, 0x0D, 3, 0, false, 4, 0⟩
/-- `0x6210.0E[x]` DeadlineMisses (0). -/
def Reg.deadlineMisses : Obj := ⟨0x6210, 0x0E, 3, 0, false, 4, 0⟩
/-- `0x6210.0F[x]` FallbackDispatches (0). -/
def Reg.fallbackDispatches : Obj := ⟨0x6210, 0x0F, 3, 0, false, 4, 0⟩
/-- `0x6210.10[x]` AccountingClear (no reset value). -/
def Reg.accountingClear : Obj := ⟨0x6210, 0x10, 0, 2, false, 1, 0⟩

/-! Family 0x7000 (13_ladle_and_mould.md) -/
/-- `0x7000.01` AllocStallTicks (63). -/
def Reg.allocStallTicks : Obj := ⟨0x7000, 0x01, 2, 1, false, 2, 63⟩
/-- `0x7000.02` WithdrawCorrections (4). -/
def Reg.withdrawCorrections : Obj := ⟨0x7000, 0x02, 1, 1, false, 1, 4⟩
/-- `0x7000.03` WithdrawWindowTicks (31,250,000). -/
def Reg.withdrawWindowTicks : Obj := ⟨0x7000, 0x03, 3, 1, false, 4, 31250000⟩

/-! Family 0x7001 (13_ladle_and_mould.md) -/
/-- `0x7001.01[c]` PoolBuffers (0). -/
def Reg.poolBuffers : Obj := ⟨0x7001, 0x01, 3, 0, false, 4, 0⟩
/-- `0x7001.02[c]` PoolFree (0). -/
def Reg.poolFree : Obj := ⟨0x7001, 0x02, 3, 0, false, 4, 0⟩
/-- `0x7001.03[c]` LowWater (0). -/
def Reg.lowWater : Obj := ⟨0x7001, 0x03, 3, 1, false, 4, 0⟩
/-- `0x7001.04[c]` HighWater (1). -/
def Reg.highWater : Obj := ⟨0x7001, 0x04, 3, 1, false, 4, 1⟩
/-- `0x7001.05[c]` PoolState (0). -/
def Reg.poolState : Obj := ⟨0x7001, 0x05, 1, 0, false, 1, 0⟩

/-! Family 0x7002 (13_ladle_and_mould.md) -/
/-- `0x7002.01[i]` SegKind (0). -/
def Reg.segKind : Obj := ⟨0x7002, 0x01, 1, 3, false, 1, 0⟩
/-- `0x7002.02[i]` SegWindow (0). -/
def Reg.segWindow : Obj := ⟨0x7002, 0x02, 2, 3, false, 2, 0⟩
/-- `0x7002.03[i]` SegBase (0). -/
def Reg.segBase : Obj := ⟨0x7002, 0x03, 4, 3, false, 8, 0⟩
/-- `0x7002.04[i]` SegBuffers (0). -/
def Reg.segBuffers : Obj := ⟨0x7002, 0x04, 3, 3, false, 4, 0⟩

/-! Family 0x7008 (13_ladle_and_mould.md) -/
/-- `0x7008.01` WithdrawnList (empty). -/
def Reg.withdrawnList : Obj := ⟨0x7008, 0x01, 13, 0, true, 0, 0⟩

/-! Family 0x7010 (13_ladle_and_mould.md) -/
/-- `0x7010.01[i]` Reserve (0). -/
def Reg.reserve : Obj := ⟨0x7010, 0x01, 3, 1, false, 4, 0⟩
/-- `0x7010.02[i]` Quota (units 0xFFFF_FFFF, hosts 0). -/
def Reg.quota : Obj := ⟨0x7010, 0x02, 3, 1, false, 4, 0⟩
/-- `0x7010.03[i]` Cascade (0). -/
def Reg.cascade : Obj := ⟨0x7010, 0x03, 0, 1, false, 1, 0⟩
/-- `0x7010.04[i]` HeldNow (0). -/
def Reg.heldNow : Obj := ⟨0x7010, 0x04, 3, 0, false, 4, 0⟩

/-! Family 0x7020 (13_ladle_and_mould.md) -/
/-- `0x7020.01` Grants (0). -/
def Reg.grants : Obj := ⟨0x7020, 0x01, 4, 0, false, 8, 0⟩
/-- `0x7020.02` CascadeGrants (0). -/
def Reg.cascadeGrants : Obj := ⟨0x7020, 0x02, 4, 0, false, 8, 0⟩
/-- `0x7020.03` HeldRequestCycles (0). -/
def Reg.heldRequestCycles : Obj := ⟨0x7020, 0x03, 4, 0, false, 8, 0⟩
/-- `0x7020.04` AllocTimeouts (0). -/
def Reg.allocTimeouts : Obj := ⟨0x7020, 0x04, 4, 0, false, 8, 0⟩
/-- `0x7020.05` RefusedFrees (0). -/
def Reg.refusedFrees : Obj := ⟨0x7020, 0x05, 4, 0, false, 8, 0⟩
/-- `0x7020.06` Withdrawals (0). -/
def Reg.withdrawals : Obj := ⟨0x7020, 0x06, 4, 0, false, 8, 0⟩
/-- `0x7020.07` DescriptorsDone (0). -/
def Reg.descriptorsDone : Obj := ⟨0x7020, 0x07, 4, 0, false, 8, 0⟩
/-- `0x7020.08` MouldBytes (0). -/
def Reg.mouldBytes : Obj := ⟨0x7020, 0x08, 4, 0, false, 8, 0⟩
/-- `0x7020.09` StagedDescriptors (0). -/
def Reg.stagedDescriptors : Obj := ⟨0x7020, 0x09, 4, 0, false, 8, 0⟩
/-- `0x7020.0A` InPlaceTransposes (0). -/
def Reg.inPlaceTransposes : Obj := ⟨0x7020, 0x0A, 4, 0, false, 8, 0⟩
/-- `0x7020.0B` MisalignedDescriptors (0). -/
def Reg.misalignedDescriptors : Obj := ⟨0x7020, 0x0B, 4, 0, false, 8, 0⟩
/-- `0x7020.0C` CopyRefusals (0). -/
def Reg.copyRefusals : Obj := ⟨0x7020, 0x0C, 4, 0, false, 8, 0⟩
/-- `0x7020.0D` LocalRefusals (0). -/
def Reg.localRefusals : Obj := ⟨0x7020, 0x0D, 4, 0, false, 8, 0⟩
/-- `0x7020.0E` RemoteRefusals (0). -/
def Reg.remoteRefusals : Obj := ⟨0x7020, 0x0E, 4, 0, false, 8, 0⟩
/-- `0x7020.0F` OwnerMisses (0). -/
def Reg.ownerMisses : Obj := ⟨0x7020, 0x0F, 4, 0, false, 8, 0⟩
/-- `0x7020.10` CheckRuns (0). -/
def Reg.checkRuns : Obj := ⟨0x7020, 0x10, 4, 0, false, 8, 0⟩
/-- `0x7020.11` CheckMismatches (0). -/
def Reg.checkMismatches : Obj := ⟨0x7020, 0x11, 4, 0, false, 8, 0⟩

/-! Family 0x7030 (13_ladle_and_mould.md) -/
/-- `0x7030.01` MouldBufferBytes (0). -/
def Reg.mouldBufferBytes : Obj := ⟨0x7030, 0x01, 3, 0, false, 4, 0⟩

/-! Family 0x7040 (13_ladle_and_mould.md) -/
/-- `0x7040.01[s]` WinEnable (0). -/
def Reg.winEnable : Obj := ⟨0x7040, 0x01, 0, 1, false, 1, 0⟩
/-- `0x7040.02[s]` WinId (0). -/
def Reg.winId : Obj := ⟨0x7040, 0x02, 2, 1, false, 2, 0⟩
/-- `0x7040.03[s]` WinKind (0). -/
def Reg.winKind : Obj := ⟨0x7040, 0x03, 1, 1, false, 1, 0⟩
/-- `0x7040.04[s]` WinHostBase (0). -/
def Reg.winHostBase : Obj := ⟨0x7040, 0x04, 4, 1, false, 8, 0⟩
/-- `0x7040.05[s]` WinLength (0). -/
def Reg.winLength : Obj := ⟨0x7040, 0x05, 4, 1, false, 8, 0⟩
/-- `0x7040.06[s]` WinTarget (0). -/
def Reg.winTarget : Obj := ⟨0x7040, 0x06, 4, 1, false, 8, 0⟩
/-- `0x7040.07[s]` WinPerm (0). -/
def Reg.winPerm : Obj := ⟨0x7040, 0x07, 2, 1, false, 2, 0⟩
/-- `0x7040.08[s]` WinNodeLo (0). -/
def Reg.winNodeLo : Obj := ⟨0x7040, 0x08, 3, 1, false, 4, 0⟩
/-- `0x7040.09[s]` WinNodeHi (0). -/
def Reg.winNodeHi : Obj := ⟨0x7040, 0x09, 3, 1, false, 4, 0⟩

/-! Family 0x7060 (13_ladle_and_mould.md) -/
/-- `0x7060.01[t]` OwnerEnable (0). -/
def Reg.ownerEnable : Obj := ⟨0x7060, 0x01, 0, 1, false, 1, 0⟩
/-- `0x7060.02[t]` OwnerTableAddr (0). -/
def Reg.ownerTableAddr : Obj := ⟨0x7060, 0x02, 4, 1, false, 8, 0⟩
/-- `0x7060.03[t]` OwnerEntries (1). -/
def Reg.ownerEntries : Obj := ⟨0x7060, 0x03, 3, 1, false, 4, 1⟩
/-- `0x7060.04[t]` ShardLog2 (12). -/
def Reg.shardLog2 : Obj := ⟨0x7060, 0x04, 1, 1, false, 1, 12⟩
/-- `0x7060.05[t]` OwnerFlush (no reset value). -/
def Reg.ownerFlush : Obj := ⟨0x7060, 0x05, 0, 2, false, 1, 0⟩

/-! Family 0x7080 (13_ladle_and_mould.md) -/
/-- `0x7080.01[i]` CheckEnable (0). -/
def Reg.checkEnable : Obj := ⟨0x7080, 0x01, 0, 1, false, 1, 0⟩
/-- `0x7080.02[i]` CheckPoly (0). -/
def Reg.checkPoly : Obj := ⟨0x7080, 0x02, 1, 1, false, 1, 0⟩
/-- `0x7080.03[i]` CheckSeedMode (0). -/
def Reg.checkSeedMode : Obj := ⟨0x7080, 0x03, 1, 1, false, 1, 0⟩
/-- `0x7080.04[i]` FoldAddr (0). -/
def Reg.foldAddr : Obj := ⟨0x7080, 0x04, 4, 1, false, 8, 0⟩
/-- `0x7080.05[i]` FoldSeq (0). -/
def Reg.foldSeq : Obj := ⟨0x7080, 0x05, 3, 1, false, 4, 0⟩
/-- `0x7080.06[i]` FoldContext (0). -/
def Reg.foldContext : Obj := ⟨0x7080, 0x06, 2, 1, false, 2, 0⟩
/-- `0x7080.07[i]` CheckAddr (0). -/
def Reg.checkAddr : Obj := ⟨0x7080, 0x07, 4, 1, false, 8, 0⟩
/-- `0x7080.08[i]` CheckBytes (0). -/
def Reg.checkBytes : Obj := ⟨0x7080, 0x08, 3, 1, false, 4, 0⟩
/-- `0x7080.09[i]` CheckGo (no reset value). -/
def Reg.checkGo : Obj := ⟨0x7080, 0x09, 0, 2, false, 1, 0⟩
/-- `0x7080.0A[i]` CompareEnable (0). -/
def Reg.compareEnable : Obj := ⟨0x7080, 0x0A, 0, 1, false, 1, 0⟩
/-- `0x7080.0B[i]` Expected (0). -/
def Reg.expected : Obj := ⟨0x7080, 0x0B, 4, 1, false, 8, 0⟩
/-- `0x7080.0C[i]` RunningValue (0). -/
def Reg.runningValue : Obj := ⟨0x7080, 0x0C, 4, 0, false, 8, 0⟩
/-- `0x7080.0D[i]` CheckStatus (0). -/
def Reg.checkStatus : Obj := ⟨0x7080, 0x0D, 1, 0, false, 1, 0⟩

/-! Family 0x8000 (15_faults_and_recovery.md) -/
/-- `0x8000.01` EscalationTicks (1,563). -/
def Reg.escalationTicks : Obj := ⟨0x8000, 0x01, 3, 1, false, 4, 1563⟩
/-- `0x8000.02` SummaryWindowTicks (31,250). -/
def Reg.summaryWindowTicks : Obj := ⟨0x8000, 0x02, 3, 1, false, 4, 31250⟩
/-- `0x8000.03` HistoryPerSource (4). -/
def Reg.historyPerSource : Obj := ⟨0x8000, 0x03, 1, 1, false, 1, 4⟩
/-- `0x8000.04` FatalState (0). -/
def Reg.fatalState : Obj := ⟨0x8000, 0x04, 1, 0, false, 1, 0⟩
/-- `0x8000.05` FatalSource (0). -/
def Reg.fatalSource : Obj := ⟨0x8000, 0x05, 2, 0, true, 2, 0⟩
/-- `0x8000.06` FatalStopNow (no reset value). -/
def Reg.fatalStopNow : Obj := ⟨0x8000, 0x06, 0, 2, false, 1, 0⟩
/-- `0x8000.07` FatalStops (0). -/
def Reg.fatalStops : Obj := ⟨0x8000, 0x07, 4, 0, true, 8, 0⟩

/-! Family 0x8001 (15_faults_and_recovery.md) -/
/-- `0x8001.01[u]` FaultStatus (0). -/
def Reg.faultStatus : Obj := ⟨0x8001, 0x01, 4, 0, false, 8, 0⟩
/-- `0x8001.02[u]` FaultClear (no reset value). -/
def Reg.faultClear : Obj := ⟨0x8001, 0x02, 4, 2, false, 8, 0⟩
/-- `0x8001.03[u]` FaultMask (0). -/
def Reg.faultMask : Obj := ⟨0x8001, 0x03, 4, 1, false, 8, 0⟩
/-- `0x8001.04[u]` FirstErrorValid (0). -/
def Reg.firstErrorValid : Obj := ⟨0x8001, 0x04, 0, 0, true, 1, 0⟩
/-- `0x8001.05[u]` FirstError (all zero). -/
def Reg.firstError : Obj := ⟨0x8001, 0x05, 11, 0, true, 32, 0⟩
/-- `0x8001.06[u]` FirstErrorRearm (no reset value). -/
def Reg.firstErrorRearm : Obj := ⟨0x8001, 0x06, 0, 2, false, 1, 0⟩
/-- `0x8001.07[u]` History (empty). -/
def Reg.history : Obj := ⟨0x8001, 0x07, 13, 0, false, 0, 0⟩
/-- `0x8001.08[u]` HistoryDrain (no reset value). -/
def Reg.historyDrain : Obj := ⟨0x8001, 0x08, 0, 2, false, 1, 0⟩
/-- `0x8001.09[u]` HistoryLost (0). -/
def Reg.historyLost : Obj := ⟨0x8001, 0x09, 4, 0, false, 8, 0⟩
/-- `0x8001.0A[u]` Slots (8 Free entries). -/
def Reg.slots : Obj := ⟨0x8001, 0x0A, 13, 0, false, 0, 0⟩
/-- `0x8001.0B[u]` FaultAck (no reset value). -/
def Reg.faultAck : Obj := ⟨0x8001, 0x0B, 1, 2, false, 1, 0⟩

/-! Family 0x8040 (15_faults_and_recovery.md) -/
/-- `0x8040.01[i]` PromoteCount (per the table of fault sources; 0 for K and F). -/
def Reg.promoteCount : Obj := ⟨0x8040, 0x01, 2, 1, false, 2, 0⟩
/-- `0x8040.02[i]` PromoteWindowTicks (per the table; 0 for K and F). -/
def Reg.promoteWindowTicks : Obj := ⟨0x8040, 0x02, 3, 1, false, 4, 0⟩
/-- `0x8040.03[i]` EventCount (0). -/
def Reg.eventCount : Obj := ⟨0x8040, 0x03, 4, 0, false, 8, 0⟩
/-- `0x8040.04[i]` PromotedCount (0). -/
def Reg.promotedCount : Obj := ⟨0x8040, 0x04, 4, 0, false, 8, 0⟩
/-- `0x8040.05[i]` SummarisedCount (0). -/
def Reg.summarisedCount : Obj := ⟨0x8040, 0x05, 4, 0, false, 8, 0⟩
/-- `0x8040.06[i]` InjectedEvents (0). -/
def Reg.injectedEvents : Obj := ⟨0x8040, 0x06, 4, 0, false, 8, 0⟩

/-! Family 0x8080 (15_faults_and_recovery.md) -/
/-- `0x8080.01[h]` HostSlots (empty). -/
def Reg.hostSlots : Obj := ⟨0x8080, 0x01, 13, 0, false, 0, 0⟩
/-- `0x8080.02[h]` HostFaultAck (no reset value). -/
def Reg.hostFaultAck : Obj := ⟨0x8080, 0x02, 2, 2, false, 2, 0⟩
/-- `0x8080.03[h]` HostKills (0). -/
def Reg.hostKills : Obj := ⟨0x8080, 0x03, 4, 0, false, 8, 0⟩

/-! Family 0x9000 (16_keeper_power_background.md) -/
/-- `0x9000.01` KeeperTick (0). -/
def Reg.keeperTick : Obj := ⟨0x9000, 0x01, 10, 0, false, 8, 0⟩
/-- `0x9000.02` FeedInUse (0). -/
def Reg.feedInUse : Obj := ⟨0x9000, 0x02, 1, 0, false, 1, 0⟩
/-- `0x9000.03` KeepAMillivolts (no reset value). -/
def Reg.keepAMillivolts : Obj := ⟨0x9000, 0x03, 2, 0, false, 2, 0⟩
/-- `0x9000.04` KeepBMillivolts (no reset value). -/
def Reg.keepBMillivolts : Obj := ⟨0x9000, 0x04, 2, 0, false, 2, 0⟩
/-- `0x9000.05` FeedSwitchOvers (0). -/
def Reg.feedSwitchOvers : Obj := ⟨0x9000, 0x05, 4, 0, true, 8, 0⟩
/-- `0x9000.06` TicksOnKeepB (0). -/
def Reg.ticksOnKeepB : Obj := ⟨0x9000, 0x06, 4, 0, true, 8, 0⟩
/-- `0x9000.07` KeeperOverflow (0). -/
def Reg.keeperOverflow : Obj := ⟨0x9000, 0x07, 4, 0, true, 8, 0⟩

/-! Family 0x9010 (16_keeper_power_background.md) -/
/-- `0x9010.01` PowerState (0). -/
def Reg.powerState : Obj := ⟨0x9010, 0x01, 1, 0, false, 1, 0⟩
/-- `0x9010.02` MaxSleepState (3). -/
def Reg.maxSleepState : Obj := ⟨0x9010, 0x02, 1, 1, false, 1, 3⟩
/-- `0x9010.03` EffectiveTolerance (0xFFFF_FFFF). -/
def Reg.effectiveTolerance : Obj := ⟨0x9010, 0x03, 3, 0, false, 4, 4294967295⟩
/-- `0x9010.04` SleepBlockers (0). -/
def Reg.sleepBlockers : Obj := ⟨0x9010, 0x04, 3, 0, false, 4, 0⟩
/-- `0x9010.05` IdleDelayCycles (64). -/
def Reg.idleDelayCycles : Obj := ⟨0x9010, 0x05, 2, 1, false, 2, 64⟩
/-- `0x9010.06` DozeDelayTicks (313). -/
def Reg.dozeDelayTicks : Obj := ⟨0x9010, 0x06, 3, 1, false, 4, 313⟩
/-- `0x9010.07` RestDelayTicks (3,125). -/
def Reg.restDelayTicks : Obj := ⟨0x9010, 0x07, 3, 1, false, 4, 3125⟩
/-- `0x9010.08` DormantDelayTicks (31,250,000). -/
def Reg.dormantDelayTicks : Obj := ⟨0x9010, 0x08, 3, 1, false, 4, 31250000⟩
/-- `0x9010.09` DormantSaveWindow (0). -/
def Reg.dormantSaveWindow : Obj := ⟨0x9010, 0x09, 2, 3, false, 2, 0⟩
/-- `0x9010.0A` WakeAtTick (0). -/
def Reg.wakeAtTick : Obj := ⟨0x9010, 0x0A, 10, 1, false, 8, 0⟩
/-- `0x9010.0B` WakeNow (no reset value). -/
def Reg.wakeNow : Obj := ⟨0x9010, 0x0B, 0, 2, false, 1, 0⟩
/-- `0x9010.0C` PeerWakeTolerance (0). -/
def Reg.peerWakeTolerance : Obj := ⟨0x9010, 0x0C, 3, 1, false, 4, 0⟩
/-- `0x9010.0D` PeerSleepHoldTicks (31,250,000). -/
def Reg.peerSleepHoldTicks : Obj := ⟨0x9010, 0x0D, 3, 1, false, 4, 31250000⟩
/-- `0x9010.0E` DormantRestoreFailures (0). -/
def Reg.dormantRestoreFailures : Obj := ⟨0x9010, 0x0E, 4, 0, true, 8, 0⟩
/-- `0x9010.0F` BootState (0). -/
def Reg.bootState : Obj := ⟨0x9010, 0x0F, 1, 0, false, 1, 0⟩
/-- `0x9010.10` EngineRun (no reset value). -/
def Reg.engineRun : Obj := ⟨0x9010, 0x10, 0, 2, false, 1, 0⟩
/-- `0x9010.11` UnitHalt (0). -/
def Reg.unitHalt : Obj := ⟨0x9010, 0x11, 3, 1, false, 4, 0⟩
/-- `0x9010.12` UnitHalted (0x000F_FFFF). -/
def Reg.unitHalted : Obj := ⟨0x9010, 0x12, 3, 0, false, 4, 1048575⟩
/-- `0x9010.13` WarmResetNow (no reset value). -/
def Reg.warmResetNow : Obj := ⟨0x9010, 0x13, 0, 2, false, 1, 0⟩
/-- `0x9010.14` ColdResetNow (no reset value). -/
def Reg.coldResetNow : Obj := ⟨0x9010, 0x14, 0, 2, false, 1, 0⟩

/-! Family 0x9011 (16_keeper_power_background.md) -/
/-- `0x9011.01[s]` StateTicks (0). -/
def Reg.stateTicks : Obj := ⟨0x9011, 0x01, 4, 0, false, 8, 0⟩
/-- `0x9011.02[s]` StateEntries (0). -/
def Reg.stateEntries : Obj := ⟨0x9011, 0x02, 4, 0, false, 8, 0⟩
/-- `0x9011.03[s]` WakeMaxTicks (0). -/
def Reg.wakeMaxTicks : Obj := ⟨0x9011, 0x03, 3, 0, false, 4, 0⟩

/-! Family 0x9020 (16_keeper_power_background.md) -/
/-- `0x9020.01` BurnishPeriodTicks (31,250,000). -/
def Reg.burnishPeriodTicks : Obj := ⟨0x9020, 0x01, 3, 1, false, 4, 31250000⟩
/-- `0x9020.02` BurnishSliceTicks (31,250). -/
def Reg.burnishSliceTicks : Obj := ⟨0x9020, 0x02, 3, 1, false, 4, 31250⟩
/-- `0x9020.03` CalibrationPeriodTicks (1,875,000,000). -/
def Reg.calibrationPeriodTicks : Obj := ⟨0x9020, 0x03, 3, 1, false, 4, 1875000000⟩
/-- `0x9020.04` RotationPeriodTicks (112,500,000,000). -/
def Reg.rotationPeriodTicks : Obj := ⟨0x9020, 0x04, 4, 1, false, 8, 112500000000⟩
/-- `0x9020.05` TelemetryPeriodTicks (31,250). -/
def Reg.telemetryPeriodTicks : Obj := ⟨0x9020, 0x05, 3, 1, false, 4, 31250⟩
/-- `0x9020.06` TelemetryWindow (0). -/
def Reg.telemetryWindow : Obj := ⟨0x9020, 0x06, 2, 3, false, 2, 0⟩
/-- `0x9020.07` TelemetryRingLog2 (20). -/
def Reg.telemetryRingLog2 : Obj := ⟨0x9020, 0x07, 1, 1, false, 1, 20⟩
/-- `0x9020.08` TelemetryReadIndex (0). -/
def Reg.telemetryReadIndex : Obj := ⟨0x9020, 0x08, 3, 1, false, 4, 0⟩
/-- `0x9020.09` TraceWindow (0). -/
def Reg.traceWindow : Obj := ⟨0x9020, 0x09, 2, 3, false, 2, 0⟩
/-- `0x9020.0A` TraceRingLog2 (20). -/
def Reg.traceRingLog2 : Obj := ⟨0x9020, 0x0A, 1, 1, false, 1, 20⟩
/-- `0x9020.0B` TraceReadIndex (0). -/
def Reg.traceReadIndex : Obj := ⟨0x9020, 0x0B, 3, 1, false, 4, 0⟩
/-- `0x9020.0C` TraceUnitMask (0). -/
def Reg.traceUnitMask : Obj := ⟨0x9020, 0x0C, 3, 1, false, 4, 0⟩

/-! Family 0x9030 (16_keeper_power_background.md) -/
/-- `0x9030.01` BurnishPasses (0). -/
def Reg.burnishPasses : Obj := ⟨0x9030, 0x01, 4, 0, false, 8, 0⟩
/-- `0x9030.02` BurnishWords (0). -/
def Reg.burnishWords : Obj := ⟨0x9030, 0x02, 4, 0, false, 8, 0⟩
/-- `0x9030.03` CalibrationRuns (0). -/
def Reg.calibrationRuns : Obj := ⟨0x9030, 0x03, 4, 0, false, 8, 0⟩
/-- `0x9030.04` CalibrationRejects (0). -/
def Reg.calibrationRejects : Obj := ⟨0x9030, 0x04, 4, 0, false, 8, 0⟩
/-- `0x9030.05` StressRotations (0). -/
def Reg.stressRotations : Obj := ⟨0x9030, 0x05, 4, 0, false, 8, 0⟩
/-- `0x9030.06` TelemetryRecords (0). -/
def Reg.telemetryRecords : Obj := ⟨0x9030, 0x06, 4, 0, false, 8, 0⟩
/-- `0x9030.07` TelemetryOverwritten (0). -/
def Reg.telemetryOverwritten : Obj := ⟨0x9030, 0x07, 4, 0, false, 8, 0⟩
/-- `0x9030.08` TraceRecords (0). -/
def Reg.traceRecords : Obj := ⟨0x9030, 0x08, 4, 0, false, 8, 0⟩
/-- `0x9030.09` TraceOverwritten (0). -/
def Reg.traceOverwritten : Obj := ⟨0x9030, 0x09, 4, 0, false, 8, 0⟩
/-- `0x9030.0A` TraceShed (0). -/
def Reg.traceShed : Obj := ⟨0x9030, 0x0A, 4, 0, false, 8, 0⟩
/-- `0x9030.0B` TelemetryShed (0). -/
def Reg.telemetryShed : Obj := ⟨0x9030, 0x0B, 4, 0, false, 8, 0⟩
/-- `0x9030.0C` AlarmShed (0). -/
def Reg.alarmShed : Obj := ⟨0x9030, 0x0C, 4, 0, false, 8, 0⟩
/-- `0x9030.0D` AlarmWaitCycles (0). -/
def Reg.alarmWaitCycles : Obj := ⟨0x9030, 0x0D, 4, 0, false, 8, 0⟩

/-! Family 0xA000 (17_object_dictionary.md) -/
/-- `0xA000.01[i]` SubState (0). -/
def Reg.subState : Obj := ⟨0xA000, 0x01, 1, 0, false, 1, 0⟩
/-- `0xA000.02[i]` SubOwner (0). -/
def Reg.subOwner : Obj := ⟨0xA000, 0x02, 1, 0, false, 1, 0⟩
/-- `0xA000.03[i]` SubObject (0). -/
def Reg.subObject : Obj := ⟨0xA000, 0x03, 4, 0, false, 8, 0⟩
/-- `0xA000.04[i]` SubMode (0). -/
def Reg.subMode : Obj := ⟨0xA000, 0x04, 1, 0, false, 1, 0⟩
/-- `0xA000.05[i]` SubPeriodTicks (0). -/
def Reg.subPeriodTicks : Obj := ⟨0xA000, 0x05, 3, 0, false, 4, 0⟩
/-- `0xA000.06[i]` SubLeaseEnd (0). -/
def Reg.subLeaseEnd : Obj := ⟨0xA000, 0x06, 10, 0, false, 8, 0⟩
/-- `0xA000.07[i]` SubSent (0). -/
def Reg.subSent : Obj := ⟨0xA000, 0x07, 4, 0, false, 8, 0⟩
/-- `0xA000.08[i]` SubMissed (0). -/
def Reg.subMissed : Obj := ⟨0xA000, 0x08, 4, 0, false, 8, 0⟩

/-! Family 0xF000 (15_faults_and_recovery.md) -/
/-- `0xF000.01` InjectEnable (0). -/
def Reg.injectEnable : Obj := ⟨0xF000, 0x01, 0, 1, false, 1, 0⟩
/-- `0xF000.02` InjectSource (0). -/
def Reg.injectSource : Obj := ⟨0xF000, 0x02, 2, 1, false, 2, 0⟩
/-- `0xF000.03` InjectWord (0). -/
def Reg.injectWord : Obj := ⟨0xF000, 0x03, 3, 1, false, 4, 0⟩
/-- `0xF000.04` InjectCheckMask (0). -/
def Reg.injectCheckMask : Obj := ⟨0xF000, 0x04, 2, 1, false, 2, 0⟩
/-- `0xF000.05` InjectGo (no reset value). -/
def Reg.injectGo : Obj := ⟨0xF000, 0x05, 0, 2, false, 1, 0⟩
/-- `0xF000.06` InjectState (0). -/
def Reg.injectState : Obj := ⟨0xF000, 0x06, 1, 0, false, 1, 0⟩

/-- The rows of family 0x0000 in order of subindex. -/
def family0000 : List Obj := [Reg.dictFormatVersion, Reg.maxMessageUdp, Reg.maxMessageMctp, Reg.maxMessageInBand]
/-- The rows of family 0x0001 in order of subindex. -/
def family0001 : List Obj := [Reg.aapUdpEnable, Reg.aapInBandEnable, Reg.subsPerPrincipal, Reg.subLeaseTicks, Reg.changeScanTicks]
/-- The rows of family 0x0002 in order of subindex. -/
def family0002 : List Obj := [Reg.keySlot0, Reg.keySlot1, Reg.keyRevoke, Reg.keyState, Reg.highestSeq0, Reg.highestSeq1]
/-- The rows of family 0x0003 in order of subindex. -/
def family0003 : List Obj := [Reg.aapMalformed, Reg.aapAuthFailures, Reg.aapOps, Reg.aapNotifications]
/-- The rows of family 0x0004 in order of subindex. -/
def family0004 : List Obj := [Reg.principalMessages, Reg.principalReplays, Reg.principalCachedAnswers, Reg.principalDenied]
/-- The rows of family 0x0100 in order of subindex. -/
def family0100 : List Obj := [Reg.vendorName, Reg.deviceName, Reg.variantCode, Reg.designStep, Reg.chipId, Reg.mctpVendorPen, Reg.coreClockKhz, Reg.keeperClockHz]
/-- The rows of family 0x0110 in order of subindex. -/
def family0110 : List Obj := [Reg.unitPresence]
/-- The rows of family 0x0200 in order of subindex. -/
def family0200 : List Obj := [Reg.hostEnable, Reg.contextBase, Reg.contextCount, Reg.gateWays, Reg.landingWays, Reg.stitchWays, Reg.planCacheWays, Reg.ctxCacheWays, Reg.hbmChannelMask, Reg.residentQuota, Reg.observeGlobal, Reg.defaultWakeTolerance]
/-- The rows of family 0x0201 in order of subindex. -/
def family0201 : List Obj := [Reg.channelHost]
/-- The rows of family 0x0210 in order of subindex. -/
def family0210 : List Obj := [Reg.ringEnable, Reg.submitBase, Reg.submitSizeLog2, Reg.completionBase, Reg.completionSizeLog2, Reg.notifyAddr, Reg.ringState, Reg.completionsPosted]
/-- The rows of family 0x0220 in order of subindex. -/
def family0220 : List Obj := [Reg.doorbellIgnored]
/-- The rows of family 0x0230 in order of subindex. -/
def family0230 : List Obj := [Reg.hostWaitTicks, Reg.hostRunCycles, Reg.hostTakesSuffered, Reg.hostAbortsSuffered, Reg.hostSwapIns, Reg.hostDeadlineMisses, Reg.hostResident, Reg.hostAccountingClear]
/-- The rows of family 0x1001 in order of subindex. -/
def family1001 : List Obj := [Reg.rowsScored, Reg.rowsSettledEarly, Reg.streamedKeyBytes, Reg.nonFiniteRows, Reg.keyLoads, Reg.arrayWaitCycles]
/-- The rows of family 0x1003 in order of subindex. -/
def family1003 : List Obj := [Reg.settledAtChunk]
/-- The rows of family 0x1008 in order of subindex. -/
def family1008 : List Obj := [Reg.slotWordsUsed, Reg.slotLayers, Reg.slotLargestFree]
/-- The rows of family 0x1010 in order of subindex. -/
def family1010 : List Obj := [Reg.assignmentsChosen, Reg.skimQuota, Reg.skimNoReplica, Reg.rowsSkippedThreshold, Reg.rowsSkippedCommand, Reg.borrowRequests, Reg.borrowGranted, Reg.borrowUnknown, Reg.fallbackReducedK, Reg.fallbackRoutedSkip, Reg.pourWaitCycles]
/-- The rows of family 0x1012 in order of subindex. -/
def family1012 : List Obj := [Reg.maskPending, Reg.maskApplyStep, Reg.maskInForce, Reg.maskArmed]
/-- The rows of family 0x1020 in order of subindex. -/
def family1020 : List Obj := [Reg.watchSession, Reg.watchSkims, Reg.watchSkips, Reg.watchFallbackRows]
/-- The rows of family 0x2010 in order of subindex. -/
def family2010 : List Obj := [Reg.assignmentsSorted, Reg.binFullCycles, Reg.stagingWaitCycles, Reg.dispatchPackets, Reg.dispatchCopies, Reg.coalescedPackets, Reg.segmentedCopies, Reg.closePackets, Reg.splitDispatches, Reg.returnPackets, Reg.answersReturned, Reg.laneBusyCycles]
/-- The rows of family 0x2100 in order of subindex. -/
def family2100 : List Obj := [Reg.planLoadAddr, Reg.planLoadBytes, Reg.planLoadGo, Reg.planLoadStatus, Reg.planUnload]
/-- The rows of family 0x2104 in order of subindex. -/
def family2104 : List Obj := [Reg.planState, Reg.pourWindowTicks, Reg.planCrcLoaded, Reg.planStamp, Reg.planBytes]
/-- The rows of family 0x2120 in order of subindex. -/
def family2120 : List Obj := [Reg.collShare, Reg.xferShare, Reg.mgmtShare, Reg.controlShare, Reg.forwardShare, Reg.committedRate, Reg.portRate, Reg.heldTicks, Reg.controlOverdraft]
/-- The rows of family 0x3001 in order of subindex. -/
def family3001 : List Obj := [Reg.nodeId, Reg.incarnation, Reg.transportEnable, Reg.retransmitTicks, Reg.retransmitLimit, Reg.settleLimitTicks, Reg.gatewaySettleLimitTicks, Reg.atomicRetryTicks, Reg.atomicRetryLimit, Reg.replyRetentionTicks, Reg.atomicCredits, Reg.ackHoldTicks, Reg.maxFrameLifeTicks, Reg.peerDirectoryWindow, Reg.replyCacheWindow, Reg.forwardEnable, Reg.forwardDepth, Reg.activeVersion, Reg.receivedSettleLimitTicks]
/-- The rows of family 0x3002 in order of subindex. -/
def family3002 : List Obj := [Reg.tableAddr, Reg.tableBytes, Reg.tableLoadGo, Reg.versionState, Reg.tableCrcLoaded]
/-- The rows of family 0x3003 in order of subindex. -/
def family3003 : List Obj := [Reg.epochInFlight0, Reg.epochInFlight1, Reg.forwardedFrames, Reg.forwardDrops]
/-- The rows of family 0x3004 in order of subindex. -/
def family3004 : List Obj := [Reg.peerQueryNode, Reg.peerState, Reg.peerIncarnation, Reg.peerCaps, Reg.peerSendNext, Reg.peerCumSettled, Reg.peerCommand]
/-- The rows of family 0x3010 in order of subindex. -/
def family3010 : List Obj := [Reg.framesSent, Reg.framesReceived, Reg.retransmits, Reg.duplicates, Reg.beyondWindow, Reg.expired, Reg.headerCrcErrors, Reg.trailerErrors, Reg.malformed, Reg.notJoined, Reg.notForMe, Reg.refusedSettles, Reg.atomicsApplied, Reg.atomicCachedReplies, Reg.atomicStale, Reg.atomicBusy, Reg.outcomeUnknown, Reg.peersDeclaredDead, Reg.peerCacheMisses, Reg.peerCacheFull, Reg.noRoute, Reg.staleEpochDrops, Reg.hopCreditWaitCycles]
/-- The rows of family 0x3100 in order of subindex. -/
def family3100 : List Obj := [Reg.fabricPrefix, Reg.runnerUdpPort, Reg.rawEtherType, Reg.hopLimit, Reg.ecnMark, Reg.mgmtVlanId, Reg.linkEventPending, Reg.linkEventClear, Reg.linkEventMask]
/-- The rows of family 0x3110 in order of subindex. -/
def family3110 : List Obj := [Reg.portEnable, Reg.portMode, Reg.portMac, Reg.nextHopMac, Reg.vlanId, Reg.acceptUntagged, Reg.laneSwap, Reg.pfcEnable, Reg.pfcXoffBytes, Reg.linkUpTicks, Reg.linkDownTicks, Reg.fecDownThreshold, Reg.portStatus, Reg.portReset]
/-- The rows of family 0x3120 in order of subindex. -/
def family3120 : List Obj := [Reg.txFrames, Reg.txBytes, Reg.rxFrames, Reg.rxBytes, Reg.fcsErrors, Reg.oversize, Reg.tagErrors, Reg.unknownType, Reg.portNotForMe, Reg.srhErrors, Reg.udpChecksumErrors, Reg.pauseIgnored, Reg.pfcSent, Reg.pfcPausedTicks, Reg.rxFifoDrops, Reg.ecnCe, Reg.fecCorrected, Reg.fecUncorrectable, Reg.linkDownEvents, Reg.surveyLost]
/-- The rows of family 0x3130 in order of subindex. -/
def family3130 : List Obj := [Reg.segment]
/-- The rows of family 0x3140 in order of subindex. -/
def family3140 : List Obj := [Reg.surveyNode, Reg.surveyPort, Reg.surveyPortFirst, Reg.surveyPortCount, Reg.surveyHops, Reg.surveyResultAddr, Reg.surveyResultMax, Reg.surveyWaitTicks, Reg.surveyGo, Reg.surveyState, Reg.surveyRecords]
/-- The rows of family 0x4001 in order of subindex. -/
def family4001 : List Obj := [Reg.landingWindowId, Reg.groupRingBase, Reg.groupRingBytesLog2, Reg.groupTally, Reg.holdFrames, Reg.useLimitTicks, Reg.groupStallTicks]
/-- The rows of family 0x4010 in order of subindex. -/
def family4010 : List Obj := [Reg.copiesCommitted, Reg.copiesCommittedHbm, Reg.framesRewound, Reg.refusedWindow, Reg.refusedNotTarget, Reg.refusedPlan, Reg.framesHeld, Reg.holdDrops, Reg.beyondUseDrops, Reg.poolBusy, Reg.forcedCloses, Reg.groupTables, Reg.groupRingFullCycles, Reg.popEmpty, Reg.releaseIgnored]
/-- The rows of family 0x4101 in order of subindex. -/
def family4101 : List Obj := [Reg.stitchWaitTicks, Reg.blocksOpen, Reg.rowsQueued]
/-- The rows of family 0x4110 in order of subindex. -/
def family4110 : List Obj := [Reg.blocksOpened, Reg.blockWaitCycles, Reg.rowsWritten, Reg.rowsPassThrough, Reg.answersStitched, Reg.sharedRowsRead, Reg.sharedRepeats, Reg.ranksLost, Reg.ranksLostTimeout, Reg.dropCancelled, Reg.dropEnded, Reg.answersInvalid, Reg.duplicateRanks, Reg.lateAnswers, Reg.returnsRefused, Reg.residueRetries, Reg.residueFailures, Reg.combineWaitCycles]
/-- The rows of family 0x5001 in order of subindex. -/
def family5001 : List Obj := [Reg.tallyBase, Reg.tallyCount]
/-- The rows of family 0x5010 in order of subindex. -/
def family5010 : List Obj := [Reg.tallyUpdates, Reg.remoteIncrements, Reg.waitsReleased, Reg.polledWaits, Reg.tallyRefused, Reg.tallyParityErrors, Reg.collStarted, Reg.collCommitted, Reg.collAborted, Reg.collWatchdogFires, Reg.collResidueRetries, Reg.collResidueFailures, Reg.collStale, Reg.balanceRounds, Reg.epochsArmed, Reg.epochsIgnored, Reg.abortedRounds, Reg.biasLateEvents, Reg.biasHeldTicks]
/-- The rows of family 0x5020 in order of subindex. -/
def family5020 : List Obj := [Reg.groupEnable, Reg.groupHost, Reg.groupKey, Reg.memberListAddr, Reg.memberCount, Reg.myRank, Reg.algorithm, Reg.treeMaxBytes, Reg.collDepth, Reg.collStepTicks, Reg.completionTallyEnable, Reg.completionTally, Reg.groupStatus, Reg.collNumber]
/-- The rows of family 0x5040 in order of subindex. -/
def family5040 : List Obj := [Reg.balanceEnable, Reg.balancePlan, Reg.firstLayer, Reg.lastLayer, Reg.balanceContext, Reg.collGroup, Reg.period, Reg.applyDelay, Reg.gain, Reg.maxStep, Reg.biasMin, Reg.biasMax, Reg.biasLateTicks, Reg.balanceState, Reg.rejoin, Reg.epochInForce, Reg.pendingApplyStep]
/-- The rows of family 0x5050 in order of subindex. -/
def family5050 : List Obj := [Reg.queryPlan, Reg.queryLayer, Reg.snapshotGo, Reg.loadSnapshot, Reg.biasInForce, Reg.biasPending]
/-- The rows of family 0x6001 in order of subindex. -/
def family6001 : List Obj := [Reg.restWatchdogTicks]
/-- The rows of family 0x6002 in order of subindex. -/
def family6002 : List Obj := [Reg.starveTicks, Reg.abortLimit, Reg.contextImageWindow]
/-- The rows of family 0x6010 in order of subindex. -/
def family6010 : List Obj := [Reg.wordsIssued, Reg.waitsIssued, Reg.restsBlocked, Reg.contextSwitches, Reg.slotStallCycles, Reg.restWatchdogFires, Reg.patternExceptions, Reg.effectsSuppressed]
/-- The rows of family 0x6020 in order of subindex. -/
def family6020 : List Obj := [Reg.excStopped, Reg.excContext, Reg.excCode, Reg.excPc, Reg.excWord, Reg.excAction]
/-- The rows of family 0x6030 in order of subindex. -/
def family6030 : List Obj := [Reg.residentCount, Reg.runningContext, Reg.takePending]
/-- The rows of family 0x6100 in order of subindex. -/
def family6100 : List Obj := [Reg.patternLoadAddr, Reg.patternLoadBytes, Reg.patternLoadGo, Reg.patternLoadStatus, Reg.patternUnload]
/-- The rows of family 0x6104 in order of subindex. -/
def family6104 : List Obj := [Reg.patternState, Reg.patternKind, Reg.patternWords, Reg.patternCrcLoaded, Reg.patternStamp]
/-- The rows of family 0x6200 in order of subindex. -/
def family6200 : List Obj := [Reg.contextDefine, Reg.contextUndefine, Reg.homeRing, Reg.dispatchPattern, Reg.initialStep, Reg.estFull, Reg.estReduced, Reg.estSkip, Reg.contextReset, Reg.contextResetState]
/-- The rows of family 0x6210 in order of subindex. -/
def family6210 : List Obj := [Reg.contextState, Reg.residency, Reg.sequencer, Reg.contextClass, Reg.wakeTolerance, Reg.heat, Reg.step, Reg.waitTicks, Reg.runCycles, Reg.commandsDone, Reg.takesSuffered, Reg.abortsSuffered, Reg.swapIns, Reg.deadlineMisses, Reg.fallbackDispatches, Reg.accountingClear]
/-- The rows of family 0x7000 in order of subindex. -/
def family7000 : List Obj := [Reg.allocStallTicks, Reg.withdrawCorrections, Reg.withdrawWindowTicks]
/-- The rows of family 0x7001 in order of subindex. -/
def family7001 : List Obj := [Reg.poolBuffers, Reg.poolFree, Reg.lowWater, Reg.highWater, Reg.poolState]
/-- The rows of family 0x7002 in order of subindex. -/
def family7002 : List Obj := [Reg.segKind, Reg.segWindow, Reg.segBase, Reg.segBuffers]
/-- The rows of family 0x7008 in order of subindex. -/
def family7008 : List Obj := [Reg.withdrawnList]
/-- The rows of family 0x7010 in order of subindex. -/
def family7010 : List Obj := [Reg.reserve, Reg.quota, Reg.cascade, Reg.heldNow]
/-- The rows of family 0x7020 in order of subindex. -/
def family7020 : List Obj := [Reg.grants, Reg.cascadeGrants, Reg.heldRequestCycles, Reg.allocTimeouts, Reg.refusedFrees, Reg.withdrawals, Reg.descriptorsDone, Reg.mouldBytes, Reg.stagedDescriptors, Reg.inPlaceTransposes, Reg.misalignedDescriptors, Reg.copyRefusals, Reg.localRefusals, Reg.remoteRefusals, Reg.ownerMisses, Reg.checkRuns, Reg.checkMismatches]
/-- The rows of family 0x7030 in order of subindex. -/
def family7030 : List Obj := [Reg.mouldBufferBytes]
/-- The rows of family 0x7040 in order of subindex. -/
def family7040 : List Obj := [Reg.winEnable, Reg.winId, Reg.winKind, Reg.winHostBase, Reg.winLength, Reg.winTarget, Reg.winPerm, Reg.winNodeLo, Reg.winNodeHi]
/-- The rows of family 0x7060 in order of subindex. -/
def family7060 : List Obj := [Reg.ownerEnable, Reg.ownerTableAddr, Reg.ownerEntries, Reg.shardLog2, Reg.ownerFlush]
/-- The rows of family 0x7080 in order of subindex. -/
def family7080 : List Obj := [Reg.checkEnable, Reg.checkPoly, Reg.checkSeedMode, Reg.foldAddr, Reg.foldSeq, Reg.foldContext, Reg.checkAddr, Reg.checkBytes, Reg.checkGo, Reg.compareEnable, Reg.expected, Reg.runningValue, Reg.checkStatus]
/-- The rows of family 0x8000 in order of subindex. -/
def family8000 : List Obj := [Reg.escalationTicks, Reg.summaryWindowTicks, Reg.historyPerSource, Reg.fatalState, Reg.fatalSource, Reg.fatalStopNow, Reg.fatalStops]
/-- The rows of family 0x8001 in order of subindex. -/
def family8001 : List Obj := [Reg.faultStatus, Reg.faultClear, Reg.faultMask, Reg.firstErrorValid, Reg.firstError, Reg.firstErrorRearm, Reg.history, Reg.historyDrain, Reg.historyLost, Reg.slots, Reg.faultAck]
/-- The rows of family 0x8040 in order of subindex. -/
def family8040 : List Obj := [Reg.promoteCount, Reg.promoteWindowTicks, Reg.eventCount, Reg.promotedCount, Reg.summarisedCount, Reg.injectedEvents]
/-- The rows of family 0x8080 in order of subindex. -/
def family8080 : List Obj := [Reg.hostSlots, Reg.hostFaultAck, Reg.hostKills]
/-- The rows of family 0x9000 in order of subindex. -/
def family9000 : List Obj := [Reg.keeperTick, Reg.feedInUse, Reg.keepAMillivolts, Reg.keepBMillivolts, Reg.feedSwitchOvers, Reg.ticksOnKeepB, Reg.keeperOverflow]
/-- The rows of family 0x9010 in order of subindex. -/
def family9010 : List Obj := [Reg.powerState, Reg.maxSleepState, Reg.effectiveTolerance, Reg.sleepBlockers, Reg.idleDelayCycles, Reg.dozeDelayTicks, Reg.restDelayTicks, Reg.dormantDelayTicks, Reg.dormantSaveWindow, Reg.wakeAtTick, Reg.wakeNow, Reg.peerWakeTolerance, Reg.peerSleepHoldTicks, Reg.dormantRestoreFailures, Reg.bootState, Reg.engineRun, Reg.unitHalt, Reg.unitHalted, Reg.warmResetNow, Reg.coldResetNow]
/-- The rows of family 0x9011 in order of subindex. -/
def family9011 : List Obj := [Reg.stateTicks, Reg.stateEntries, Reg.wakeMaxTicks]
/-- The rows of family 0x9020 in order of subindex. -/
def family9020 : List Obj := [Reg.burnishPeriodTicks, Reg.burnishSliceTicks, Reg.calibrationPeriodTicks, Reg.rotationPeriodTicks, Reg.telemetryPeriodTicks, Reg.telemetryWindow, Reg.telemetryRingLog2, Reg.telemetryReadIndex, Reg.traceWindow, Reg.traceRingLog2, Reg.traceReadIndex, Reg.traceUnitMask]
/-- The rows of family 0x9030 in order of subindex. -/
def family9030 : List Obj := [Reg.burnishPasses, Reg.burnishWords, Reg.calibrationRuns, Reg.calibrationRejects, Reg.stressRotations, Reg.telemetryRecords, Reg.telemetryOverwritten, Reg.traceRecords, Reg.traceOverwritten, Reg.traceShed, Reg.telemetryShed, Reg.alarmShed, Reg.alarmWaitCycles]
/-- The rows of family 0xA000 in order of subindex. -/
def familyA000 : List Obj := [Reg.subState, Reg.subOwner, Reg.subObject, Reg.subMode, Reg.subPeriodTicks, Reg.subLeaseEnd, Reg.subSent, Reg.subMissed]
/-- The rows of family 0xF000 in order of subindex. -/
def familyF000 : List Obj := [Reg.injectEnable, Reg.injectSource, Reg.injectWord, Reg.injectCheckMask, Reg.injectGo, Reg.injectState]

/-- Every family of the dictionary in order of index (R535). -/
def families : List (Nat × List Obj) :=
  [(0x0000, family0000),
   (0x0001, family0001),
   (0x0002, family0002),
   (0x0003, family0003),
   (0x0004, family0004),
   (0x0100, family0100),
   (0x0110, family0110),
   (0x0200, family0200),
   (0x0201, family0201),
   (0x0210, family0210),
   (0x0220, family0220),
   (0x0230, family0230),
   (0x1001, family1001),
   (0x1003, family1003),
   (0x1008, family1008),
   (0x1010, family1010),
   (0x1012, family1012),
   (0x1020, family1020),
   (0x2010, family2010),
   (0x2100, family2100),
   (0x2104, family2104),
   (0x2120, family2120),
   (0x3001, family3001),
   (0x3002, family3002),
   (0x3003, family3003),
   (0x3004, family3004),
   (0x3010, family3010),
   (0x3100, family3100),
   (0x3110, family3110),
   (0x3120, family3120),
   (0x3130, family3130),
   (0x3140, family3140),
   (0x4001, family4001),
   (0x4010, family4010),
   (0x4101, family4101),
   (0x4110, family4110),
   (0x5001, family5001),
   (0x5010, family5010),
   (0x5020, family5020),
   (0x5040, family5040),
   (0x5050, family5050),
   (0x6001, family6001),
   (0x6002, family6002),
   (0x6010, family6010),
   (0x6020, family6020),
   (0x6030, family6030),
   (0x6100, family6100),
   (0x6104, family6104),
   (0x6200, family6200),
   (0x6210, family6210),
   (0x7000, family7000),
   (0x7001, family7001),
   (0x7002, family7002),
   (0x7008, family7008),
   (0x7010, family7010),
   (0x7020, family7020),
   (0x7030, family7030),
   (0x7040, family7040),
   (0x7060, family7060),
   (0x7080, family7080),
   (0x8000, family8000),
   (0x8001, family8001),
   (0x8040, family8040),
   (0x8080, family8080),
   (0x9000, family9000),
   (0x9010, family9010),
   (0x9011, family9011),
   (0x9020, family9020),
   (0x9030, family9030),
   (0xA000, familyA000),
   (0xF000, familyF000)]

/-- The row of an index and subindex, if the dictionary defines it. -/
def findObj (ix sub : Nat) : Option Obj :=
  match families.find? (fun f => f.1 == ix) with
  | none => none
  | some f => f.2.find? (fun o => o.sub == sub)

/-- The highest subindex defined at an index: the value of subindex 0 (R508). -/
def highestSub (ix : Nat) : Option Nat :=
  match families.find? (fun f => f.1 == ix) with
  | none => none
  | some f => some (f.2.foldl (fun m o => max m o.sub) 0)

end Sys2Proof.Machine
end

