-- ==== Sys2Proof/Machine/Tab.lean ====
section
/-! DEFINITION. Sparse tables: sorted lists of (key, value) pairs in one canonical form, for memory, stores and files of records. -/

set_option Elab.async false

namespace Sys2Proof.Machine

/-- A sparse table: pairs of a key and its value, keys strictly rising. -/
abbrev Tab (α : Type) := List (Nat × α)

/-- The value at a key, or the default that an unlisted key reads as. -/
def Tab.get {α : Type} (d : α) : Tab α → Nat → α
  | [], _ => d
  | (k, v) :: t, a => if k = a then v else Tab.get d t a

/-- The record at a key, if the table lists one. -/
def Tab.find {α : Type} : Tab α → Nat → Option α
  | [], _ => none
  | (k, v) :: t, a => if k = a then some v else Tab.find t a

/-- The table with a value listed at a key. -/
def Tab.put {α : Type} : Tab α → Nat → α → Tab α
  | [], k, v => [(k, v)]
  | (k', v') :: t, k, v =>
    if k < k' then (k, v) :: (k', v') :: t
    else if k = k' then (k, v) :: t
    else (k', v') :: Tab.put t k v

/-- The table without a key. -/
def Tab.drop {α : Type} (t : Tab α) (k : Nat) : Tab α := t.filter (fun p => p.1 != k)

/-- The table with a value at a key, where a default value is not listed. -/
def Tab.set {α : Type} [DecidableEq α] (d : α) (t : Tab α) (k : Nat) (v : α) : Tab α :=
  if v = d then Tab.drop t k else Tab.put t k v

/-- The table with the record at a key changed, where one is listed. -/
def Tab.modify {α : Type} (t : Tab α) (k : Nat) (f : α → α) : Tab α :=
  t.map (fun p => if p.1 = k then (p.1, f p.2) else p)

/-- Every record changed by a function of its key. -/
def Tab.mapVals {α : Type} (t : Tab α) (f : Nat → α → α) : Tab α :=
  t.map (fun p => (p.1, f p.1 p.2))

/-- The table of the records that a test keeps. -/
def Tab.keep {α : Type} (t : Tab α) (p : Nat → α → Bool) : Tab α := t.filter (fun x => p x.1 x.2)

/-- Whether the keys rise strictly. -/
def Tab.sorted {α : Type} : Tab α → Bool
  | [] => true
  | [_] => true
  | (k, _) :: (k', v') :: t => decide (k < k') && Tab.sorted ((k', v') :: t)

/-- The canonical form: keys strictly rising, no listed value equal to the default. -/
def Tab.wf {α : Type} [DecidableEq α] (d : α) (t : Tab α) : Bool :=
  Tab.sorted t && t.all (fun p => decide (p.2 ≠ d))

/-- The least key from a number on that the table does not list. -/
def Tab.freeKey {α : Type} (t : Tab α) (n : Nat) : Nat → Nat
  | 0 => n
  | fuel + 1 => match Tab.find t n with
    | none => n
    | some _ => Tab.freeKey t (n + 1) fuel

/-- The bytes of a table of bytes from an address on. -/
def Tab.readBytes (d : Byte) (t : Tab Byte) (a n : Nat) : List Byte :=
  (List.range n).map fun i => Tab.get d t (a + i)

/-- A table of bytes with a run of bytes written from an address on. -/
def Tab.writeBytes (d : Byte) (t : Tab Byte) (a : Nat) : List Byte → Tab Byte
  | [] => t
  | b :: bs => Tab.writeBytes d (Tab.set d t a b) (a + 1) bs

/-- A table with a range of keys removed. -/
def Tab.clearRange {α : Type} (t : Tab α) (lo n : Nat) : Tab α :=
  t.filter (fun p => !(decide (lo ≤ p.1) && decide (p.1 < lo + n)))

end Sys2Proof.Machine
end

