-- ==== Sys2Proof/Machine/State.lean ====
section
/-! DEFINITION. The state of the engine as plain data: every register, store, queue, timer and pin the spec gives it, the queue of waiting commands, and the state after reset. -/

set_option Elab.async false

namespace Sys2Proof.Machine

/-- Why a step can stop with a fault. No row of the table does: the block has no exception entry, and every row has an effect. Nobody raises it; safe. -/
inductive Fault where
  /-- Raised by nobody; kept so that the type is inhabited. Safe. -/
  | none
deriving DecidableEq, Repr

/-- Why a step can be refused. -/
inductive Refusal where
  /-- Raised by an arm of `exec` for a row that has no meaning yet. Safe. -/
  | notModelled (mnemonic : String)
deriving DecidableEq, Repr

/-! ## Faults (R458 to R470) -/

/-- One fault record (15, Fault record). -/
structure FaultRec where
  source : Nat
  cls : Nat
  reaction : Nat
  promoted : Bool
  ctxValid : Bool
  host : Nat
  ctx : Nat
  heat : Nat
  tick : Nat
  status : Nat
  detailA : Nat
  detailB : Nat
deriving DecidableEq, Repr

/-- One Armed escalation slot of a unit (R467); a Free slot is no entry. -/
structure EscSlot where
  fault : FaultRec
  deadline : Nat
deriving DecidableEq, Repr

/-- What a unit keeps of its faults beside its objects: history, slots and first-error capture (R462 to R467). -/
structure UnitFaults where
  history : List FaultRec := []
  slots : Tab EscSlot := []
  first : Option FaultRec := none
deriving DecidableEq, Repr

/-- The open promotion window of a source (R461). -/
structure PromoWindow where
  start : Nat
  count : Nat
deriving DecidableEq, Repr

/-- The history budget of a source in one summary window (R465). -/
structure SummaryUse where
  window : Nat
  recorded : Nat
  summarised : Nat
deriving DecidableEq, Repr

/-- One armed injection (R479). -/
structure Injection where
  source : Nat
  word : Nat
  mask : Nat
deriving DecidableEq, Repr

/-! ## Command rings (R68 to R99) -/

/-- The indices and condition of one ring pair (R69 to R76). -/
structure Ring where
  submitTail : Nat := 0
  submitHead : Nat := 0
  complHead : Nat := 0
  complTail : Nat := 0
  /-- RingStatus.State: 0 disabled, 1 running, 2 overrun, 3 halted. -/
  state : Nat := 0
  lastRefusal : Nat := 0
  complWait : Bool := false
  fenceWait : Bool := false
  /-- RingEnable was written 0 and commands are still in flight (R70). -/
  closing : Bool := false
  /-- The reorder buffer: the commands in flight in fetch order (R91). -/
  rob : List Nat := []
deriving DecidableEq, Repr

/-- One command in flight: its header, its captured payload and what its completion will say (R80, R88). -/
structure Cmd where
  ring : Nat
  host : Nat
  ctx : Nat
  header : Word512
  payload : List Byte
  heat : Nat
  admitTick : Nat
  /-- Free-running index of the completion slot reserved for its record (R76). -/
  slot : Nat
  resultBytes : Nat
  started : Bool := false
  /-- It waits at admission check 8 for its layer's keys (R104). -/
  admitting : Bool := false
  /-- Admission refused it (R79). -/
  denied : Bool := false
  ready : Bool := false
  /-- The status a CANCEL (0x01) or a kill (0x17) gave it before it is ready; 0 none (R95, R473). -/
  marked : Nat := 0
  status : Nat := 0
  readyTick : Nat := 0
  modes : Nat := 0
  numExc : Nat := 0
  skims : Nat := 0
  skips : Nat := 0
  /-- The result bytes given so far, by offset: written at posting, and earlier too where R372 or R369 makes them visible earlier (R89). -/
  result : Tab Byte := []
  /-- END has issued for the command's pattern (R372). -/
  ended : Bool := false
  /-- COPY slots of the command whose effect is not yet visible (R372, R379). -/
  copies : Nat := 0
  /-- The tick at which SCORE issued (R454). -/
  scoreTick : Nat := 0
  /-- The fallback level fixed at SCORE issue (R454). -/
  level : Nat := 0
  /-- The command was aborted and replayed (R455). -/
  replayed : Bool := false
  /-- Frames, atomics or loads of the command still without their end (R222, R223, R227). -/
  left : Nat := 0
deriving DecidableEq, Repr

/-! ## Contexts (R359, R433) -/

/-- One tally condition of a resting pattern (R371). -/
structure RestWait where
  combine : Nat
  tallyA : Nat
  threshA : Nat
  tallyB : Nat
  threshB : Nat
deriving DecidableEq, Repr

/-- A context: the fields of its image, its place, and what PSQ keeps of the command attempt it runs. -/
structure Ctx where
  g : Tab Word64 := []
  /-- The entry copy of g4 to g15 (R359). -/
  entry : Tab Word64 := []
  pc : Nat := 0
  step : Nat := 0
  heat : Nat := 0
  pattern : Nat := 0
  effectCount : Nat := 0
  effectCrc : Nat := 0
  /-- p0 to p7, bit n is pn. -/
  preds : Nat := 0
  /-- The return stack, top first. -/
  stack : List Nat := []
  homeRing : Nat := 0
  host : Nat := 0
  /-- State code: 1 Idle, 2 Runnable, 3 Running, 4 Holding, 5 Blocked, 6 Stopped, 7 Killed; an undefined context has no entry. -/
  state : Nat := 1
  replayPending : Bool := false
  abortCount : Nat := 0
  affinity : Nat := 3
  cls : Nat := 0
  wakeTol : Nat := 0xFFFFFFFF
  /-- BlockTick or IdleTick. -/
  restTick : Nat := 0
  readyTick : Nat := 0
  estFull : Nat := 0
  estReduced : Nat := 0
  estSkip : Nat := 0
  waitTicks : Nat := 0
  runCycles : Nat := 0
  commandsDone : Nat := 0
  takes : Nat := 0
  aborts : Nat := 0
  swapIns : Nat := 0
  deadlineMisses : Nat := 0
  fallbacks : Nat := 0
  /-- Residency: 1 Resident, 2 Cached, 3 Stored (R433). -/
  residency : Nat := 2
  /-- While Resident the entry that holds it, 16 · sequencer + entry; while Cached its image's number in the context cache (R424, Ways). -/
  place : Nat := 0
  /-- The tick of its last swap-out (R436). -/
  outTick : Nat := 0
  /-- The command in execution: its DISPATCH or RUN (R78). -/
  cmd : Option Nat := none
  /-- The WAIT at which it rests, until released (R371). -/
  rest : Option RestWait := none
  /-- It rests or has ended and R113, R184 or R372 still holds it: 1 at a WAIT, 2 at END; 3 and 4 while the WAIT or END still waits for copies that use scratch (R380; state Holding). -/
  hold : Nat := 0
  /-- Effects of the first attempt still to be suppressed in a replay, and the CRC to meet (R383). -/
  suppress : Nat := 0
  suppressCrc : Nat := 0
  /-- The fresh CRC differed when the count was reached (R383). -/
  diverged : Bool := false
  /-- The tick at which the rest watchdog started (R381). -/
  runTick : Nat := 0
  /-- The rest watchdog runs (R381). -/
  watchOn : Bool := false
  /-- The rest watchdog fired: the next word raises RestWatchdog (R381). -/
  watchdog : Bool := false
  /-- A take request is pending on it (R444). -/
  take : Bool := false
  /-- The word in issue waits: an aborted or killed image was saved during a command (R382). -/
  savedInCmd : Bool := false
  /-- The scheduler next starts it at word 0: a new command or a replay (R382, R446). -/
  restart : Bool := false
  /-- Ended by ContextReset and not yet all ready (R548). -/
  resetting : Bool := false
  /-- The tick of the kill (R475). -/
  killTick : Nat := 0
  /-- The image in the image table or the cache is unreadable (R436). -/
  imageBad : Bool := false
  /-- The cached image is newer than the table's copy (R436, R477). -/
  dirty : Bool := true
  /-- Which wide slots have issued in this attempt: bit 0 STITCH OPEN, 1 SELECT, 2 POUR ARM, 3 SCORE (R373). -/
  wide : Nat := 0
  /-- StitchTally named by OPEN, PourTally and ScoreTally with enable, and the SELECT level (R375 to R377). -/
  stitchTally : Nat := 0
  pourTally : Option Nat := none
  scoreTally : Option Nat := none
  armLevel : Nat := 0
deriving DecidableEq, Repr

/-- The exception a sequencer has stopped at (R384, family 0x6020). -/
structure ExcRec where
  stopped : Bool := false
  /-- The tick of the stop; the watchdog is paused from it (R381). -/
  tick : Nat := 0
  ctx : Nat := 0
  code : Nat := 0
  pc : Nat := 0
  word : Nat := 0
deriving DecidableEq, Repr

/-- A pattern in the plan cache (R363, family 0x6104). -/
structure Pattern where
  host : Nat
  /-- 1 loading, 2 resident, 3 unloading. -/
  state : Nat
  kind : Nat
  runResultBytes : Nat
  crc : Nat
  stamp : Nat
  /-- Its place in the plan cache. -/
  base : Nat
  bytes : Nat
  words : List Word512
deriving DecidableEq, Repr

/-! ## Tallies (R320 to R332) -/

/-- Who waits on a tally (R326): a command, or a resting context with its condition A (0) or B (1). -/
inductive Waiter where
  | command (uid : Nat)
  | context (ctx part : Nat)
deriving DecidableEq, Repr

/-- One wait (R326); `hit` once an update has satisfied it (R327). -/
structure TWait where
  tally : Nat
  thresh : Nat
  who : Waiter
  hit : Bool := false
deriving DecidableEq, Repr

/-! ## The dictionary (R513 to R534) -/

/-- The replay state of one key slot (R520) and its cache of write-bearing requests (R521). -/
structure KeyReplay where
  high : Nat := 0
  seen : Nat := 0
  /-- Newest first: request number and each op's status and Aux. -/
  cache : List (Nat × List (Nat × Nat)) := []
deriving DecidableEq, Repr

/-- One subscription (R532, R533). -/
structure Sub where
  owner : Nat
  ix : Nat
  sub : Nat
  inst : Nat
  onChange : Bool
  period : Nat
  leaseEnd : Nat
  dest : AapDest
  keyId : Nat
  nextTick : Nat
  sent : Nat := 0
  missed : Nat := 0
  /-- Notifications built, and the last value sent. -/
  built : Nat := 0
  lastVal : List Byte := []
  /-- The Missed field of the next notification. -/
  gap : Nat := 0
deriving DecidableEq, Repr

/-! ## The boundary -/

/-- The four variants (00, Variants). -/
inductive Variant where
  | f48
  | f32
  | m24
  | t16
deriving DecidableEq, Repr

/-- What crosses the boundary outward (R1). -/
inductive Out where
  /-- A frame starts on a port: class, destination node or address, and its bytes after the MAC header. -/
  | frame (port cls dst : Nat) (bytes : List Byte)
  /-- The answer to a page read. -/
  | pageData (offset hostTag value : Nat)
  /-- A message of AAP or MCTP, with its destination. -/
  | message (dest : AapDest) (bytes : List Byte)
  /-- A pin driven to a value: 0 KRD_MAIN_REQ, 1 PRT_TXEN, 2 PRT_LANERST, with its index. -/
  | pin (which index value : Nat)
deriving DecidableEq, Repr

/-! ## Ladle, mould and check unit (R387 to R422) -/

/-- One pool of the ladle: its free list, head first, and whether it is Pressed (R387, R391). -/
structure Pool where
  free : List Nat := []
  pressed : Bool := true
  /-- Round-robin pointer over the requesters whose reads are held (R22). -/
  ptr : Nat := 0
deriving DecidableEq, Repr

/-- One pool buffer: generation, holder's requester id, withdrawal and its window of corrected events (R395, R396, R398). -/
structure Buf where
  gen : Nat := 1
  holder : Option Nat := none
  withdrawn : Bool := false
  corrStart : Nat := 0
  corr : Nat := 0
deriving DecidableEq, Repr

/-- A read of the landing port page or the ladle page that is held (R291, R393). -/
structure HeldRead where
  host : Nat
  /-- The class of an Alloc, or 8 for Pop. -/
  cls : Nat
  tick : Nat
deriving DecidableEq, Repr

/-- One mould descriptor (R401). -/
structure MDesc where
  src : Nat
  dst : Nat
  ext : List Nat
  srcStr : List Int
  dstStr : List Int
  padLo : List Nat
  padHi : List Nat
  padValue : Nat
  kind : Nat
  eltLog2 : Nat
  srcSw : Bool
  dstSw : Bool
  padCheck : Bool
  check : Nat
  rsvd : Nat
deriving DecidableEq, Repr

/-- Where a resolved address lies: on the on-chip network, or in the landing store (R397, R414). -/
inductive Loc where
  | noc (a : Nat)
  | landing (a : Nat)
deriving DecidableEq, Repr

/-- Where a side of a descriptor lies: behind a window, or, for a COPY slot, in an address space of R369: scratch, or a command's payload or result space. -/
inductive MLoc where
  | loc (l : Loc)
  | scratch (a : Nat)
  | payload (uid off : Nat)
  | result (uid off : Nat)
deriving DecidableEq, Repr

/-- A descriptor that passed its checks: the first and last-plus-one address of each span, where the first lies, and how it runs (R405 to R407). -/
structure MRun where
  desc : MDesc
  /-- 0 plain, 1 in place, 2 staged. -/
  how : Nat
  srcLo : Int
  srcHi : Int
  dstLo : Int
  dstHi : Int
  srcLoc : MLoc
  dstLoc : MLoc
  /-- The elements read into the mould buffer in phase 1, in loop order, each with its response status. -/
  staged : List (Nat × List Byte) := []
deriving DecidableEq, Repr

/-- One COPY in MLD, from a command or a COPY slot (R408, R409). -/
structure MCopy where
  uid : Nat
  /-- The COPY came from a slot of a pattern: its context. -/
  slotCtx : Option Nat
  host : Nat
  ring : Nat
  runs : List MRun
  /-- The phase in progress, 0 while an earlier COPY holds it. -/
  phase : Nat
  doneTally : Option Nat
  heat : Nat
  killed : Bool := false
deriving DecidableEq, Repr

/-- The register that a check channel's previous run left, if one ran (R420). -/
structure CheckChan where
  reg : Option Nat := none
deriving DecidableEq, Repr

/-! ## Pour plans (R163 to R173) -/

/-- One layer of a plan: its score, selection and pour descriptors (R100, R133, R167). -/
structure Layer where
  keySource : Nat
  scoreScale : Nat
  e : Nat
  g : Nat
  kg : Nat
  d : Nat
  keyFmt : Nat
  affinity : Nat
  twoStage : Bool
  earlyAllowed : Bool
  streamed : Bool
  slot : Nat
  slotOff : Nat
  skipThreshold : Nat
  routedScale : Nat
  borrowLimit : Nat
  gl : Nat
  kl : Nat
  limitScore : Bool
  groupLimited : Bool
  borrow : Bool
  skipEnable : Bool
  normalize : Bool
  sharedCount : Nat
  fallbackK : Nat
  topK : Nat
  dispatchPour : Nat
  returnPour : Nat
  expertBase : Nat
  hiddenDim : Nat
  hiddenFmt : Nat
  answerFmt : Nat
  /-- CopyStride in bytes. -/
  copyStride : Nat
  splitMin : Nat
  /-- All rsvd fields of the entry as one number: zero when the entry is well formed. -/
  rsvd : Nat
deriving DecidableEq, Repr

/-- One replica entry (R168). -/
structure Replica where
  node : Nat
  domain : Nat
  quota : Nat
  pool : Nat
  flask : Nat
  regionWord : Nat
  poolWord : Nat
deriving DecidableEq, Repr

/-- One destination entry (R169). -/
structure Dest where
  node : Nat
  window : Nat
  runners : Nat
  firstRunner : Nat
  rsvd : Nat
deriving DecidableEq, Repr

/-- One runner entry (R169). -/
structure Runner where
  port : Nat
  path : Nat
  bucket : Nat
deriving DecidableEq, Repr

/-- One hosted flask entry (R170). -/
structure Hosted where
  expert : Nat
  layer : Nat
  drag : Bool
  inHbm : Bool
  hbmWindow : Nat
  baseWord : Nat
  capacity : Nat
  pool : Nat
  /-- Slot stride in bytes. -/
  stride : Nat
  sourceList : Nat
  answerWindow : Nat
  answerWord : Nat
  /-- Answer stride in bytes. -/
  answerStride : Nat
  returnTally : Nat
  rsvd : Nat
deriving DecidableEq, Repr

/-- One source of a hosted flask's source list (09). -/
structure Source where
  node : Nat
  firstSlot : Nat
  slots : Nat
  rsvd : Nat
deriving DecidableEq, Repr

/-- A source list: its head and its entries (R274). -/
structure SourceList where
  tiled : Bool
  tagWord : Nat
  rsvd : Nat
  sources : List Source
deriving DecidableEq, Repr

/-- A plan in the plan cache, its image parsed (R165 to R170). -/
structure Plan where
  host : Nat
  /-- 1 loading, 2 resident, 3 unloading. -/
  state : Nat
  bytes : Nat
  base : Nat
  crc : Nat
  stamp : Nat
  window : Nat
  layers : List Layer
  /-- ReplicaCount and FirstReplica of every expert. -/
  experts : List (Nat × Nat)
  replicas : List Replica
  dests : List Dest
  runners : List Runner
  buckets : List Nat
  /-- DispatchBytes and ReturnBytes of every port. -/
  budgets : List (Nat × Nat)
  flasks : List Hosted
  /-- Source lists by the index of their head. -/
  sources : Tab SourceList
deriving DecidableEq, Repr

/-- What the engine keeps of one layer of a resident plan beside its descriptors. -/
structure LayerState where
  /-- Its keys are loaded and it is usable (R104). -/
  usable : Bool := false
  /-- CRC-32C of its key image (R105). -/
  keyCrc : Nat := 0
  /-- The layer's place in the gate store: first byte and bytes. -/
  regionBase : Nat := 0
  regionBytes : Nat := 0
  /-- Biases in force by expert, 16-bit patterns (R349), their epoch, and whether a DISPATCH has scored under the pending ones. -/
  bias : Tab Nat := []
  epoch : Nat := 0
  pendBias : Option (List Nat) := none
  pendStep : Nat := 0
  pendEpoch : Nat := 0
  pendUsed : Bool := false
  /-- INT32 load counts by expert (R160). -/
  load : Tab Nat := []
  snapshot : List Nat := []
deriving DecidableEq, Repr

/-- The load of a plan in progress (R163, R164): 1 reading the image, 2 loading keys from a layer on. -/
structure PlanLoad where
  planId : Nat
  stage : Nat
  nextLayer : Nat := 0
deriving DecidableEq, Repr

/-- The domain mask of a plan (R157). -/
structure MaskState where
  pending : Nat := 0
  applyStep : Nat := 0
  inForce : Nat := 0
  armed : Bool := false
  /-- Contexts that have issued a SCORE for the plan since it was loaded (R158). -/
  users : List Nat := []
deriving DecidableEq, Repr

/-! ## A DISPATCH at work (R114 to R192) -/

/-- One assignment of a row: rank, expert and what became of it (R147, R151). -/
structure Assign where
  rank : Nat
  expert : Nat
  /-- 0 uncharged, 1 assigned, 2 skimmed for quota, 3 skimmed for want of a replica, 4 deferred, 5 overflow slot granted. -/
  fate : Nat := 0
  entry : Nat := 0
  slot : Nat := 0
deriving DecidableEq, Repr

/-- What SEL holds of one row of a DISPATCH. -/
structure DRow where
  /-- It has settled (R116). -/
  settled : Bool := false
  chunk : Nat := 0
  skipped : Bool := false
  nonFinite : Bool := false
  assigns : List Assign := []
  /-- The row is reserved in its slot (R301). -/
  reserved : Bool := false
  /-- Its assignments have been delivered to SRT. -/
  delivered : Bool := false
  weighted : Bool := false
deriving DecidableEq, Repr

/-- One bin entry (R175). -/
structure BinEntry where
  expert : Nat
  row : Nat
  rank : Nat
  entry : Nat
  overflow : Bool
  slot : Nat
  dest : Nat
deriving DecidableEq, Repr

/-- One borrow request of a step (R151). -/
structure Borrow where
  half : Nat
  expert : Nat
  entry : Nat
  /-- Row and rank of the deferred assignments in serve order. -/
  items : List (Nat × Nat)
  /-- The old value replied, or none while in flight; a value at or above the pool refuses all. -/
  reply : Option Nat := none
deriving DecidableEq, Repr

/-- Copies of one half handed over to one flask of one node (R185). -/
structure SentCount where
  half : Nat
  dest : Nat
  flask : Nat
  copies : Nat
  borrowed : Nat
deriving DecidableEq, Repr

/-- The open pour and step record of a DISPATCH (R146, R447). -/
structure Disp where
  ctx : Nat
  host : Nat
  seq : Nat
  plan : Nat
  layer : Nat
  rows : Nat
  /-- 0 SCORE slot issued and waiting (R146, R299, R354), 1 scoring, 2 every row has its final scores. -/
  phase : Nat := 0
  /-- First row of the drag half, or the row count when not split. -/
  splitAt : Nat
  level : Nat := 0
  early : Bool := false
  step : Nat := 0
  /-- Biases, mask and nodes not live, as fixed at SCORE issue. -/
  bias : Tab Nat := []
  mask : Nat := 0
  notLive : List Nat := []
  rowState : Tab DRow := []
  /-- Used counters by (half · 2^16 + expert) · 8 + entry (R146). -/
  used : Tab Nat := []
  /-- Assignments delivered and not yet sorted, in delivery groups with their half (R174). -/
  groups : List (Nat × List BinEntry) := []
  /-- Bins by half · 2^13 + destination index. -/
  bins : Tab (List BinEntry) := []
  borrows : List Borrow := []
  deferred : Nat := 0
  sent : List SentCount := []
  /-- The closes of the cope half (bit 0) and the drag half (bit 1) are handed over. -/
  closed : Nat := 0
  /-- POUR ARM has issued. -/
  armed : Bool := false
  pourTally : Option Nat := none
  scoreTally : Option Nat := none
  /-- The tally increments of scoring's end and of the pour's close are made. -/
  scoreDone : Bool := false
  /-- Packets handed to RTT and not yet settled, acknowledged or abandoned (R186). -/
  unacked : Nat := 0
  /-- Copies handed over to RTT so far, replays included: (row, rank) (R219). -/
  handed : List (Nat × Nat) := []
  /-- Nodes declared Dead since it started: POR sends them nothing more (R186). -/
  gone : List Nat := []
  /-- The command has ended: POR hands over no further copy (R186). -/
  ended : Bool := false
  /-- The first DISPATCH held for a late bias: its start tick (R354). -/
  holdTick : Option Nat := none
  nonDet : Bool := false
  hbm : Bool := false
deriving DecidableEq, Repr

/-! ## Stitch (R298 to R316) -/

/-- One row slot of a stitch block (R301). -/
structure Slot where
  reserveTick : Nat := 0
  session : Nat := 0
  expected : Nat := 0
  received : Nat := 0
  lost : Nat := 0
  skimmed : Nat := 0
  chosen : Nat := 0
  sharedPresent : Nat := 0
  /-- 0 Unsettled, 1 Waiting, 2 Queued, 3 Combining, 4 Written. -/
  state : Nat := 0
  drag : Bool := false
  padding : Bool := false
  skipped : Bool := false
  passThrough : Bool := false
  weightsValid : Bool := false
  poisoned : Bool := false
  /-- Bit 64 · rank + segment, for each segment received; SegmentCounts counts them. -/
  segments : Nat := 0
  /-- Destination index of each rank's copy. -/
  rankDest : Tab Nat := []
  weights : List Nat := []
  /-- Bytes of the shared areas and rank areas: area number · 2^20 + byte. -/
  areas : Tab Byte := []
  result : List Byte := []
  /-- When it became Queued: a running number (R308). -/
  queuedAt : Nat := 0
  /-- The write of its result is visible and StitchTally is incremented (R312). -/
  visible : Bool := false
deriving DecidableEq, Repr

/-- One stitch block (R298 to R300). -/
structure Block where
  uid : Nat
  host : Nat
  heat : Nat
  rows : Nat
  hiddenDim : Nat
  resultFmt : Nat
  answerFmt : Nat
  topK : Nat
  sharedCount : Nat
  /-- 0 Open, 1 Cancelled, 2 Ended, 3 Replaying. -/
  state : Nat := 0
  split : Bool
  splitAt : Nat
  returnPour : Nat
  stitchTally : Nat
  /-- A and S of R298 in bytes. -/
  a : Nat
  s : Nat
  rowsWritten : Nat := 0
  /-- Its place in the stitch store, in bytes. -/
  base : Nat
  bytes : Nat
  slots : Tab Slot := []
deriving DecidableEq, Repr

/-- One shared post descriptor whose rows STC is reading (R302). -/
structure SharedPost where
  ctx : Nat
  uid : Nat
  addr : Nat
  stride : Nat
  firstRow : Nat
  rowCount : Nat
  ix : Nat
deriving DecidableEq, Repr

/-! ## Runner transport (R197 to R250) -/

/-- What a frame this engine sends is for: whose settlement it reports (R207, R216). -/
inductive Purpose where
  /-- Dispatch copies of a DISPATCH: (row, rank) of each copy. -/
  | copies (uid : Nat) (items : List (Nat × Nat)) (half : Nat)
  | close (uid : Nat)
  /-- Answers of a flask: flask key, first answer index and count. -/
  | answers (flask first count : Nat)
  | store (uid part : Nat)
  | rat (uid part : Nat)
  | probe (uid part : Nat)
  | load (uid part off : Nat)
  | borrow (uid ix : Nat)
  | coll (group : Nat)
  /-- ACK, REPLY, JOIN and the other frames that nothing waits for. -/
  | plain
deriving DecidableEq, Repr

/-- The way a frame takes: port, PathId, and the path bucket it draws on as plan and bucket (R188, R236). -/
structure Route where
  port : Nat
  path : Nat
  bucket : Option (Nat × Nat) := none
deriving DecidableEq, Repr

/-- A frame handed to RTT: outstanding in its flow, or waiting to go out (R206, R213). -/
structure SendRec where
  frame : RFrame
  why : Purpose
  /-- Pacing class: 0 dispatch, 1 return, 2 collective, 3 transfer, 4 management, 5 control. -/
  pace : Nat
  /-- The plan whose budget it draws on (R187), for pour frames. -/
  plan : Nat := 0
  route : Option Route := none
  firstTick : Nat := 0
  lastTick : Nat := 0
  sends : Nat := 0
  /-- It waits for PRT to start it; without a route it waits for one (R213, R214, R234). -/
  due : Bool := true
  /-- Reported settled while RefusedTotal does not agree (R554). -/
  unsure : Bool := false
  /-- A running number: the order in which frames became due. -/
  ord : Nat := 0
  /-- UDP source port and hop limit in place of the path entry's (survey, R263). -/
  udpSrc : Option (Nat × Nat) := none
deriving DecidableEq, Repr

/-- One outgoing flow (R205, R206, R216). -/
structure SendFlow where
  base : Nat := 0
  /-- Frames numbered since the base. -/
  next : Nat := 0
  /-- Frames of the flow reported received, as a count from the base. -/
  cumReceived : Nat := 0
  /-- Outstanding frames by number less base. -/
  sent : Tab SendRec := []
  /-- Distinct refused numbers learned since the join (R554). -/
  refused : List Nat := []
deriving DecidableEq, Repr

/-- One incoming flow (R208, R211, R554). A frame arrives whole in one event, so that no position stays PENDING. -/
structure RecvFlow where
  base : Nat := 0
  /-- RECEIVED numbers above the base. -/
  recv : List Nat := []
  /-- Received and unsettled frames: number, tick received, and whether AckHoldTicks has reported it (R212). -/
  held : List (Nat × Nat × Bool) := []
  /-- Settlements not yet acknowledged, and the refused numbers still to report. -/
  unacked : Nat := 0
  report : List (Nat × Nat) := []
  /-- The refusal log, newest first, and the count (R554). -/
  log : List (Nat × Nat) := []
  refusedTotal : Nat := 0
  /-- Numbers of frames with AckNow not yet settled. -/
  ackNow : List Nat := []
deriving DecidableEq, Repr

/-- One peer entry (R245, R249). -/
structure Peer where
  /-- 0 Unknown, 1 Joining, 2 Live, 3 Leaving, 4 Dead. -/
  state : Nat := 0
  inc : Nat := 0
  incKnown : Bool := false
  caps : Nat := 0
  wakeTol : Nat := 0
  /-- Credits the peer granted us, held by us now, and the ticks at which held ones free (R225). -/
  credits : Nat := 0
  creditEnds : List Nat := []
  creditsOut : Nat := 0
  /-- Credits we granted, and whether an entry is reserved (R224). -/
  granted : Nat := 0
  data : SendFlow := {}
  atomic : SendFlow := {}
  coll : SendFlow := {}
  rdata : RecvFlow := {}
  ratomic : RecvFlow := {}
  rcoll : RecvFlow := {}
  /-- Frames held in the unit that built them for a Joining, Asleep or waking peer, oldest first. -/
  waiting : List SendRec := []
  deadTick : Nat := 0
  asleep : Bool := false
  asleepTick : Nat := 0
  /-- This engine has sent it AWAKE and holds frames until AWAKE_ACK (R495). -/
  waking : Bool := false
  sleepSent : Bool := false
  sleepAcked : Bool := false
  /-- Sends of JOIN, LEAVE, SLEEP or AWAKE so far and the tick of the last. -/
  mgmtSends : Nat := 0
  mgmtTick : Nat := 0
  everJoined : Bool := false
  /-- Round-robin pointers of R188 and R236. -/
  runnerPtr : Nat := 0
  routePtr : Nat := 0
  /-- The entry is in the peer cache; otherwise in the directory (R249). -/
  cached : Bool := false
  fetching : Bool := false
  /-- A join waits for the entry's fetch, or for a Dead peer's time (R245, R247). -/
  wantJoin : Bool := false
  used : Nat := 0
deriving DecidableEq, Repr

/-- An atomic, load, probe or borrow request without its REPLY (R227). -/
structure AtomReq where
  dst : Nat
  seq : Nat
  why : Purpose
  tries : Nat
  tick : Nat
deriving DecidableEq, Repr

/-- One reply-cache entry (R224). -/
structure CacheEntry where
  src : Nat
  inc : Nat
  seq : Nat
  tick : Nat
  status : Nat
  old : Nat
deriving DecidableEq, Repr

/-- One part of an RLD, RST or RAT: where it goes and how far it is (R417, R418). -/
structure XferPart where
  node : Nat
  window : Nat
  offset : Nat
  /-- Byte offset in the command's payload or result, and bytes. -/
  at_ : Nat
  len : Nat
  probed : Bool := false
  left : Nat := 0
  status : Nat := 0
deriving DecidableEq, Repr

/-- One path entry, node route entry and forward entry (R232, R260). -/
structure PathEntry where
  kind : Nat
  waypoints : Nat
  a : Nat
  b : Nat
  c : Nat
  udpSource : Nat
  flowLabel : Nat
  dscp : Nat
  rsvd : Nat
deriving DecidableEq, Repr

structure NodeRoute where
  node : Nat
  portA : Nat
  pathA : Nat
  bValid : Bool
  portB : Nat
  pathB : Nat
deriving DecidableEq, Repr

structure Forward where
  node : Nat
  outPort : Nat
  dateline : Bool
deriving DecidableEq, Repr

/-- A routing-table version (R232, R233). -/
structure RouteTable where
  paths : List PathEntry := []
  routes : List NodeRoute := []
  forwards : List Forward := []
deriving DecidableEq, Repr

/-! ## Ports (R253 to R271) -/

/-- One port beside its objects: lock, up-down timers, buckets, epochs in flight, credits and pauses. -/
structure Port where
  up : Bool := false
  /-- PRT_RXLOCK of lanes 0 and 1 as a mask, PCS alignment lock and FEC lock; the tick since which every used lane holds all three, and the tick at which a loss began with its code (R268). -/
  laneLock : Nat := 0
  align : Bool := false
  fec : Bool := false
  lockTick : Nat := 0
  lossTick : Option Nat := none
  lossCode : Nat := 0
  /-- Uncorrectable codewords in the current window of 31,250 ticks, and its start. -/
  fecCount : Nat := 0
  fecStart : Nat := 0
  /-- Tick at which a port reset began; the lanes are held in reset until its end (R549). -/
  resetTick : Option Nat := none
  rstPin : Bool := false
  /-- Frames in flight: (epoch, tick started, peer, class, sequence) (R235). -/
  inFlight : List (Nat × Nat × Nat × Nat × Nat) := []
  /-- Bucket levels in 1/256 byte: share buckets 2 to 6 by class; an unlisted one is full. -/
  buckets : Tab Int := []
  /-- Priorities paused by the partner with their end ticks, and by this port. -/
  paused : Tab Nat := []
  xoff : Nat := 0
  /-- Hop credits: used per pair, freed count last seen, buffers held per pair, freed since link-up (R239). -/
  creditUsed : Tab Nat := []
  creditSeen : Tab Nat := []
  hopBufs : List Nat := []
  freed : Tab Nat := []
  creditDue : Bool := false
  /-- Transit frames waiting to go out: pair at this input and at the output, input port, running number. -/
  transit : List (Nat × Nat × Nat × Nat × RFrame) := []
  /-- Round-robin pointer over the classes of the transmit arbiter (R189). -/
  classPtr : Nat := 0
deriving DecidableEq, Repr

/-! ## Landing (R272 to R297) -/

/-- One source of a flask in its current use (R282 to R287, R555). -/
structure SourceUse where
  /-- Copies committed, pool copies included. -/
  committed : Nat := 0
  ctxHeat : Option (Nat × Nat) := none
  /-- Final close recorded; the copies its entries name for this flask, its TotalCopies, the sum over its entries, its sequence number. -/
  finalClose : Bool := false
  named : Nat := 0
  total : Nat := 0
  sumEntries : Nat := 0
  closeSeq : Nat := 0
  /-- A close of the use was refused by check 7 of R277: the source is missing at a forced close (R283). -/
  badClose : Bool := false
  /-- Declared Dead while the flask was Filling, or its Late state ended in the forced use: closed for the use. -/
  ended : Bool := false
  /-- Late: none, or waiting for its Final close (0), or for the flow base to pass a number (1 + number) (R286). -/
  late : Option Nat := none
  /-- It became Late in the current use. -/
  forced : Bool := false
deriving DecidableEq, Repr

/-- One flask's use (R282): key PlanId · 2^16 + flask. Pool slots follow the source slots in number. -/
structure Flask where
  /-- 0 Free, 1 Filling, 2 Closed. -/
  state : Nat := 0
  fillTick : Nat := 0
  /-- Tag of each committed slot, and segments held of each slot. -/
  tags : Tab Nat := []
  segs : Tab Nat := []
  srcs : Tab SourceUse := []
  /-- Slots in row order, once Closed. -/
  rows : List Nat := []
  /-- POR's return position, and return packets not yet settled (R193, R293). -/
  nextAnswer : Nat := 0
  answersLeft : Nat := 0
deriving DecidableEq, Repr

/-- The flasks of a pour closed and not yet in a group table, with the tick of the last close (R290): key PlanId · 2^16 + pour. -/
structure PourUse where
  closed : List Nat := []
  tick : Nat := 0
deriving DecidableEq, Repr

/-- A frame of a next use held for a flask; its hold buffer, on one entry of the frame (R284). -/
structure HeldFrame where
  flask : Nat
  frame : RFrame
  host : Nat
  buf : Option Nat
deriving DecidableEq, Repr

/-- One group table in a host's group ring (R290, R291). -/
structure GroupTab where
  addr : Nat
  start : Nat
  bytes : Nat
deriving DecidableEq, Repr

/-- The group queue of a host (R291). -/
structure GroupQueue where
  /-- Tables not yet released, oldest first, with the number of the first. -/
  tabs : List GroupTab := []
  firstNo : Nat := 0
  tail : Nat := 0
  cursor : Nat := 0
  mark : Nat := 0
  released : Nat := 0
  /-- A table whose writes have no response yet: its tally follows (R290). -/
  writing : List GroupTab := []
deriving DecidableEq, Repr

/-! ## Collectives and balance (R333 to R356) -/

/-- One collective, queued or running. -/
structure Coll where
  /-- The COLL command, or the balance group of a round. -/
  uid : Option Nat := none
  bal : Option Nat := none
  number : Nat := 0
  /-- CollOp: 0 ALLREDUCE, 1 REDUCE, 2 ALLGATHER, 3 BROADCAST. -/
  op : Nat
  reduce : Nat := 0
  root : Nat := 0
  fmt : Nat := 11
  resultFmt : Nat := 11
  operandAddr : Nat := 0
  operandBytes : Nat
  resultAddr : Nat := 0
  operand : List Byte := []
  /-- Ring algorithm, not tree (R340). -/
  ring : Bool := false
  /-- Working area: the 32-bit elements of a reduction, or the bytes of a gather or broadcast (R337). -/
  work : List Nat := []
  /-- Segments consumed: (receive, index); receives are 0 to 15 from the child at lowest bit j, 16 from the parent, 32 + s of ring step s. -/
  got : List (Nat × Nat) := []
  /-- Sends begun, numbered in the same way: 15 up, 16 down, 32 + s. -/
  sentTo : List Nat := []
  /-- The data phase of this member is over. -/
  dataDone : Bool := false
  /-- Children whose subtree has reported, and whether this member has. -/
  reports : List Nat := []
  reported : Bool := false
  stepTick : Nat := 0
  abortSent : Bool := false
  /-- The status with which a check at launch failed; 0 none. -/
  failed : Nat := 0
  numExc : Nat := 0
deriving DecidableEq, Repr

/-- A collective group (R333). -/
structure Group where
  members : List Nat := []
  bufs : List Nat := []
  /-- Collectives issued since enable (R334). -/
  issued : Nat := 0
  queue : List Coll := []
  running : Option Coll := none
  /-- Frames that wait for their collective or their turn, unconsumed, oldest first (R344). -/
  stash : List RFrame := []
  /-- Segments that wait for CollDepth, with their neighbour, oldest first (R344). -/
  outgoing : List (Nat × RFrame) := []
deriving DecidableEq, Repr

/-- A round of a balance group: step of its snapshot, the snapshot as operand, the mask at that step (R350, R351). -/
structure Round where
  step : Nat
  operand : List Byte
  mask : Nat
deriving DecidableEq, Repr

/-- A balance group beside its objects (R350 to R355). -/
structure Balance where
  /-- The round in progress, and those whose snapshot is taken and which wait for its end, oldest first. -/
  round : Option Round := none
  later : List Round := []
  /-- The expected apply step of the round, while it may still be armed (R354). -/
  expect : Option Nat := none
  /-- Since when a DISPATCH is held. -/
  holdTick : Option Nat := none
  /-- The ApplyStep that a Rejoining member has armed. -/
  rejoinStep : Option Nat := none
deriving DecidableEq, Repr


/-- The whole state of the block. Default values are the state after cold reset (R547). -/
structure State where
  -- identity and inputs (R2, R3, R537)
  variant : Variant := .f48
  /-- KRD_CHIP_ID, KRD_MCTP_PEN and KRD_PAGE_BASE as sampled at the release of cold reset (R537). -/
  chipId : Nat := 0
  mctpPen : Nat := 0
  pageBase : Nat := 0
  /-- KRD_MAIN_REQ driven, KRD_MAIN_GOOD as last seen, KRD_COLD_RST_N released (R539, R547). -/
  mainReq : Bool := false
  mainGood : Bool := false
  coldReleased : Bool := false
  /-- The tick at which the current start-up step began (R547). -/
  bootTick : Nat := 0
  /-- KRD_KRD core clock in MHz in force (R14, R505). -/
  clockMhz : Nat := 1300
  /-- KRD_INT, bit n for unit n (R19, R462). -/
  krdInt : Nat := 0
  -- time and the dictionary's register file (R481, R508)
  tick : Nat := 0
  objs : Tab Nat := []
  /-- The model's counter of free values drawn (no spec state). -/
  free : Nat := 0
  -- memory behind the on-chip network (R541, R543)
  mem : Tab Byte := []
  memStatus : Tab Nat := []
  /-- What has crossed the boundary outward, newest first. -/
  out : List Out := []
  -- stores (01, Stores)
  gate : Tab Byte := []
  landing : Tab Byte := []
  planCache : Tab Byte := []
  /-- Scratch bytes that are valid, by sequencer · 2^20 + offset (R380). -/
  scratch : Tab Byte := []
  /-- Inverted check symbols of a stored word, by folded address (R63, R65, R479). -/
  checks : Tab Nat := []
  -- faults (15)
  units : Tab UnitFaults := []
  promo : Tab PromoWindow := []
  summary : Tab SummaryUse := []
  inject : Option Injection := none
  stopDeadline : Option Nat := none
  -- rings and commands (03)
  rings : Tab Ring := []
  cmds : Tab Cmd := []
  nextUid : Nat := 0
  -- contexts and patterns (12, 14)
  ctxs : Tab Ctx := []
  excs : Tab ExcRec := []
  patterns : Tab Pattern := []
  /-- Pattern load in progress of each host: the PatternId (R363). -/
  patLoads : Tab Nat := []
  -- tallies (11)
  tallies : Tab Nat := []
  tallyBad : List Nat := []
  /-- Tallies whose stored parity is wrong and not yet found so (R330, R479). -/
  tallyFlip : List Nat := []
  watchTable : List TWait := []
  pollList : List TWait := []
  /-- The Watch register of each tally page, plus one; 0 before the first accepted write (R332). -/
  pageWatch : Tab Nat := []
  -- ladle, mould, check unit (13)
  pools : Tab Pool := []
  bufs : Tab Buf := []
  withdrawnList : List Nat := []
  freeStatus : Tab Nat := []
  heldReads : List HeldRead := []
  copies : Tab MCopy := []
  nextCopy : Nat := 0
  /-- The COPY that holds the mould buffer, and the handles of its buffers (R410). -/
  mouldUser : Option Nat := none
  mouldBufs : List Nat := []
  owners : Tab Nat := []
  checkChans : Tab CheckChan := []
  checkMismatch : Nat := 0
  -- dictionary (17)
  replays : Tab KeyReplay := []
  subs : Tab Sub := []
  /-- Per-principal copies of the query objects, by object key · 32 + principal (R513). -/
  queries : Tab Nat := []
  mctpEid : Nat := 0
  /-- MCTP messages held until a Dormant exit (R531). -/
  heldAap : List (AapDest × List Byte) := []
  -- keeper, power, background (16)
  stateSince : Nat := 0
  /-- The tick since which the next state's entry conditions have held (R489). -/
  quietSince : Nat := 0
  feedB : Bool := false
  feedTick : Nat := 0
  /-- Page accesses held until the engine can serve them (R492, R550). -/
  heldPages : List PageAccess := []
  /-- The doorbell latch: page offset and value (R492). -/
  doorLatch : Tab Nat := []
  /-- The ticks at which the periodic tasks last ran: 0 calibration, 1 rotation, 2 telemetry, 3 keeper burnish, 4 burnish slice, 5 burnish pass, 6 change scan (R501 to R505, R533). -/
  timers : Tab Nat := []
  /-- The counts that the last telemetry record reported up to (R505). -/
  teleBase : Tab Nat := []
  /-- The save image as Dormant entry wrote it, by on-chip address, and where it lies: base and bytes (R496). -/
  saved : Tab Byte := []
  savedAt : Option (Nat × Nat) := none
  -- plans, scoring, selection, pour, stitch (04 to 06, 10)
  plans : Tab Plan := []
  /-- By PlanId · 256 + layer. -/
  layerStates : Tab LayerState := []
  planLoads : Tab PlanLoad := []
  masks : Tab MaskState := []
  disps : Tab Disp := []
  /-- DISPATCHes whose SCORE waits for another's pour, in arrival order (R146). -/
  pourQueue : List Nat := []
  blocks : Tab Block := []
  sharedPosts : List SharedPost := []
  queueSeq : Nat := 0
  -- runner transport and ports (07, 08)
  peers : Tab Peer := []
  /-- Requests without REPLY by target node · 2^32 + number (R227). -/
  atomReqs : Tab AtomReq := []
  replyCache : List CacheEntry := []
  xfers : Tab (List XferPart) := []
  versions : Tab RouteTable := []
  /-- Unsequenced frames waiting for their port: ACK, REPLY, MGMT. -/
  control : List SendRec := []
  /-- Frames of an uncached peer held during a directory fetch (R249). -/
  fetchHeld : List (Nat × Rx × RFrame) := []
  ports : Tab Port := []
  /-- Plan buckets: PlanId · 2^8 + port, dispatch below 2^32 and return above; path buckets PlanId · 2^12 + bucket. -/
  planBuckets : Tab Int := []
  pathBuckets : Tab Int := []
  /-- The first port came up in this incarnation at this tick (R243). -/
  firstUp : Option Nat := none
  /-- The incarnation is new: it sends only JOIN (R243). -/
  quiet : Bool := true
  /-- The probes of the running survey, source port and hop limit, and the tick of the last sent (R263, R264). -/
  probesSent : List (Nat × Nat) := []
  surveyTick : Nat := 0
  -- landing (09)
  flasks : Tab Flask := []
  heldFrames : List HeldFrame := []
  pourUses : Tab PourUse := []
  groupQueues : Tab GroupQueue := []
  /-- Uses of each pour since plan load: PlanId · 2^16 + pour (R290). -/
  useNumbers : Tab Nat := []
  -- collectives and balance (11)
  groups : Tab Group := []
  balances : Tab Balance := []
  /-- DISPATCHes become ready whose step boundary is not yet told to BAL: context and step (R350). -/
  boundaries : List (Nat × Nat) := []
  /-- The commands and events that wait, first in, first out. -/
  pending : List Instr := []
deriving DecidableEq, Repr

/-- The machine right after a cold reset has been applied: every store, object and register at its reset value, nothing waiting (R547). -/
def State.reset : State := {}

end Sys2Proof.Machine
end

