-- ==== Sys2Proof/Machine/Ops.lean ====
section
/-! DEFINITION. The named operations over the register file, memory, stores and time that every family uses. -/

set_option Elab.async false

set_option linter.unusedVariables false

namespace Sys2Proof.Machine

/-- The outcome of every row: the next state. -/
abbrev Out1 := Host.Outcome State Fault Refusal

/-! ## The register file (R508, R511) -/

/-- The value an object instance holds. -/
def State.rd (s : State) (o : Obj) (i : Nat) : Nat := Tab.get o.reset s.objs (o.key i)

/-- Whether a BOOL object instance holds 1. -/
def State.rb (s : State) (o : Obj) (i : Nat) : Bool := s.rd o i != 0

/-- An object instance set to a value. -/
def State.wr (s : State) (o : Obj) (i v : Nat) : State :=
  { s with objs := Tab.set o.reset s.objs (o.key i) v }

/-- A counter increased, wrapping at its width. -/
def State.inc (s : State) (o : Obj) (i n : Nat) : State :=
  s.wr o i ((s.rd o i + n) % 2 ^ (8 * o.len))

/-- The value of an I16 object instance. -/
def State.rdInt (s : State) (o : Obj) (i : Nat) : Int := toSigned (8 * o.len) (s.rd o i)

/-! ## Variants (R2, R3) -/

def variantCode : Variant → Nat
  | .f48 => 0
  | .f32 => 1
  | .m24 => 2
  | .t16 => 3

/-- PortCount (R3). -/
def Variant.ports : Variant → Nat
  | .f48 => 48
  | .f32 => 32
  | .m24 => 24
  | .t16 => 16

/-- MouldGeneral (R3). -/
def Variant.mouldGeneral : Variant → Nat
  | .f48 => 12
  | .f32 => 12
  | .m24 => 4
  | .t16 => 0

def Variant.keepB : Variant → Bool
  | .f48 => true
  | .f32 => true
  | .m24 => false
  | .t16 => false

def Variant.col : Variant → Bool
  | .f48 => true
  | .f32 => true
  | .m24 => false
  | .t16 => false

def Variant.score46 : Variant → Bool
  | .f48 => true
  | .f32 => true
  | .m24 => false
  | .t16 => false

def Variant.scu : Variant → Bool
  | .f48 => true
  | .f32 => true
  | .m24 => true
  | .t16 => false

/-- UnitPresence by its fields (R3). -/
def Variant.presence (v : Variant) : Nat :=
  v.ports * 2 ^ 24 + v.mouldGeneral * 2 ^ 20 + 4 * 2 ^ 16 + b2n v.keepB * 2 ^ 9 + b2n v.col * 2 ^ 8 +
    b2n v.score46 * 2 ^ 7 + b2n v.scu * 2 ^ 6

/-- Whether unit n is fitted (R7, R19). -/
def State.fitted (s : State) (n : Nat) : Bool :=
  if n = 2 then s.variant.scu else if n = 11 then s.variant.col else decide (n < 20)

/-! ## Free values -/

/-- A free value drawn, and the state with the draw counted. -/
def State.draw (s : State) : Nat × State := (Config.freeValue s.free, { s with free := s.free + 1 })

/-- n undefined bytes drawn at once. -/
def State.drawBytes (s : State) (n : Nat) : List Byte × State :=
  ((List.range n).map fun i => BitVec.ofNat 8 (Config.freeValue (s.free + i)), { s with free := s.free + n })

/-! ## Memory behind the on-chip network (R541, R543) -/

/-- What an unlisted byte of memory reads as (log entry 4). -/
def memDefault : Byte := 0

/-- The canonical form of memory: addresses strictly rising, no listed byte equal to what an unlisted one reads as. -/
def Memory.wf (t : Tab Byte) : Bool := Tab.wf memDefault t

/-- The byte at an on-chip address. -/
def State.memByte (s : State) (a : Nat) : Byte := Tab.get memDefault s.mem a

/-- n bytes from an on-chip address. -/
def State.memRead (s : State) (a n : Nat) : List Byte := Tab.readBytes memDefault s.mem a n

/-- The worst response status over n bytes: 0 OK, 1 error, 2 poison or undefined (R541). -/
def State.memBad (s : State) (a n : Nat) : Nat :=
  if s.memStatus.isEmpty then 0
  else
    let st := (List.range n).map fun i => Tab.get 0 s.memStatus (a + i)
    if st.any (· == 1) then 1 else if st.any (· != 0) then 2 else 0

/-- Bytes written from an on-chip address. -/
def State.memWrite (s : State) (a : Nat) (l : List Byte) : State :=
  { s with mem := Tab.writeBytes memDefault s.mem a l }

/-! ## The boundary -/

/-- Something that crosses the boundary outward. -/
def State.emit (s : State) (o : Out) : State := { s with out := o :: s.out }

/-! ## Units, boot and time (R490, R544, R550) -/

/-- Whether unit n is running and the engine neither asleep in Dormant nor stopped (R544). -/
def State.unitRuns (s : State) (n : Nat) : Bool := !bit (s.rd Reg.unitHalted 0) n

/-- Whether the engine is in Fatal pending or stopped (R476, R477). -/
def State.fatal (s : State) : Bool := s.rd Reg.fatalState 0 != 0

/-- Whether the stores are initialised (R550). -/
def State.booted (s : State) : Bool := decide (2 ≤ s.rd Reg.bootState 0)

/-- The power state (R487). -/
def State.power (s : State) : Nat := s.rd Reg.powerState 0

/-- Whether unit n can do its work now: booted, not Dormant, not halted, no fatal fault pending. -/
def State.works (s : State) (n : Nat) : Bool :=
  s.booted && !s.fatal && s.power != 4 && s.unitRuns n

/-- The ticks since an earlier tick (R16). -/
def State.since (s : State) (t : Nat) : Nat := (s.tick + 2 ^ 48 - t % 2 ^ 48) % 2 ^ 48

/-- Whether an interval of n ticks begun at a tick is over: it is half-open (R15). -/
def State.elapsed (s : State) (t n : Nat) : Bool := decide (n ≤ s.since t)

/-- Activity noted at a tick: the conditions of the next sleep state hold from there at the earliest (R489). -/
def State.seen (s : State) (q : Nat) : State := { s with quietSince := q }

/-- The engine awake, from whatever shallow sleep it was in (R490): counters of the state left, and its time. -/
def State.wake (s : State) : State :=
  let p := s.power
  if p = 0 ∨ p = 4 then s.seen s.tick
  else
    let s := s.inc Reg.stateTicks p (s.since s.stateSince)
    let lat := if p = 1 then 1 else if p = 2 then 122 else 1825
    let s := s.wr Reg.wakeMaxTicks p (max (s.rd Reg.wakeMaxTicks p) lat)
    let s := (s.wr Reg.powerState 0 0).inc Reg.stateEntries 0 1
    { s with stateSince := s.tick, quietSince := s.tick }

/-- The subscriptions to an instance of some families end with the object they watch (R534). -/
def State.endSubs (s : State) (families : List Nat) (i : Nat) : State :=
  { s with subs := s.subs.filter fun x => !(families.contains x.2.ix && x.2.inst == i) }

/-- Families whose instances are a plan, a pattern and a context. -/
def planFamilies : List Nat := [0x1012, 0x2104]
def patternFamilies : List Nat := [0x6104]
def contextFamilies : List Nat := [0x6200, 0x6210]

/-! ## Steps and heats (R52, R362) -/

/-- Step x above step y (R362). -/
def stepAbove (x y : Nat) : Bool :=
  let d := (x + 2 ^ 32 - y % 2 ^ 32) % 2 ^ 32
  decide (1 ≤ d) && decide (d < 2 ^ 31)

/-- Step x equal to or above step y (R362). -/
def stepAtLeast (x y : Nat) : Bool := x % 2 ^ 32 == y % 2 ^ 32 || stepAbove x y

/-- Frame number x compared with y: their difference as a signed number (R205). -/
def seqDiff (x y : Nat) : Int := toSigned 32 ((x + 2 ^ 32 - y % 2 ^ 32) % 2 ^ 32)

/-! ## Hosts and their shares (R322, R424 to R427) -/

def State.hostEnabled (s : State) (h : Nat) : Bool := decide (h < 16) && s.rb Reg.hostEnable h

/-- The host that owns a channel, if any (R426). -/
def State.channelOwner (s : State) (c : Nat) : Option Nat :=
  let h := s.rd Reg.channelHost c
  if h < 16 then some h else none

/-- The host whose context range holds a context (R430). -/
def State.contextHost (s : State) (x : Nat) : Option Nat :=
  (List.range 16).find? fun h =>
    s.hostEnabled h && decide (s.rd Reg.contextBase h ≤ x) &&
      decide (x < s.rd Reg.contextBase h + s.rd Reg.contextCount h)

/-- Whether a tally lies in a host's range (R322). -/
def State.tallyOwned (s : State) (h t : Nat) : Bool :=
  decide (s.rd Reg.tallyBase h ≤ t) && decide (t < s.rd Reg.tallyBase h + s.rd Reg.tallyCount h)

/-- The bytes of a store's ways that a mask gives, as a list of way numbers (14, Ways). -/
def waysOf (mask n : Nat) : List Nat := bitList n mask

/-- Whether a byte range lies wholly in ways of a mask, the way size given. -/
def inWays (mask waySize lo len : Nat) : Bool :=
  len == 0 || (List.range ((lo + len - 1) / waySize - lo / waySize + 1)).all
    fun i => bit mask (lo / waySize + i)

/-- Whether two byte ranges meet. -/
def rangesMeet (a n b m : Nat) : Bool := decide (a < b + m) && decide (b < a + n)

/-- The lowest multiple of a unit in the ways of a mask at which a range of n bytes fits clear of the used ranges. -/
def firstFit (mask waySize ways unit n : Nat) (used : List (Nat × Nat)) : Option Nat :=
  let starts := (waysOf mask ways).flatMap fun w => (w * waySize) :: (used.filterMap fun u =>
      let e := roundUp (u.1 + u.2) unit
      if w * waySize ≤ e && e < (w + 1) * waySize then some e else none)
  bestBy (fun a b => decide (a < b)) (starts.filter fun a =>
    inWays mask waySize a n && used.all (fun u => !rangesMeet a n u.1 u.2))

end Sys2Proof.Machine
end

