-- ==== Sys2Proof/Machine/Xlt.lean ====
section
/-! DEFINITION. XLT: translation windows, the ladle window and remote windows (R387, R397, R413 to R415, R543). -/

set_option Elab.async false

set_option linter.unusedVariables false

namespace Sys2Proof.Machine

/-- The size of a buffer of a class (R387). -/
def bufSize (c : Nat) : Nat := 256 * 4 ^ c

/-- The slots of a host, and the engine slots (13, Translation windows). -/
def hostSlots (h : Nat) : List Nat := (List.range 240).map (· + 240 * h)
def engineSlots : List Nat := (List.range 256).map (· + 3840)

/-- The enabled engine window of a WinId: its slot. -/
def State.engineWindow (s : State) (id : Nat) : Option Nat :=
  if id = 0 then none
  else engineSlots.find? fun n => s.rb Reg.winEnable n && s.rd Reg.winId n == id

/-- The on-chip address of an offset of an engine window, when n bytes from it lie in the window. -/
def State.engineAddr (s : State) (id off n : Nat) : Option Nat :=
  match s.engineWindow id with
  | none => none
  | some w => if off + n ≤ s.rd Reg.winLength w then some (s.rd Reg.winTarget w + off) else none

/-- The enabled window of host h by WinId: its slot. -/
def State.hostWindow (s : State) (h id : Nat) : Option Nat :=
  (hostSlots h).find? fun n => s.rb Reg.winEnable n && s.rd Reg.winId n == id

/-- The segment of a class that holds a buffer index, as its instance and the index within it (R387). -/
def State.segmentOf (s : State) (c : Nat) : Nat → Nat → Nat → Option (Nat × Nat)
  | 0, _, _ => none
  | fuel + 1, k, i =>
    let n := if s.rd Reg.segKind (8 * c + k) = 0 then 0 else s.rd Reg.segBuffers (8 * c + k)
    if i < n then some (8 * c + k, i) else s.segmentOf c fuel (k + 1) (i - n)

/-- Where a pool buffer lies (R387, R388). -/
def State.bufLoc (s : State) (c i : Nat) : Option Loc :=
  match s.segmentOf c 8 0 i with
  | none => none
  | some (seg, j) =>
    if s.rd Reg.segKind seg = 1 then some (.landing (s.rd Reg.segBase seg + j * bufSize c))
    else (s.engineAddr (s.rd Reg.segWindow seg) (s.rd Reg.segBase seg + j * bufSize c) (bufSize c)).map .noc

/-- The key of a pool buffer. -/
def bufKey (c i : Nat) : Nat := c * 2 ^ 20 + i

/-- A pool buffer; an untouched one is at generation 1 and free (R395). -/
def State.buf (s : State) (c i : Nat) : Buf := Tab.get {} s.bufs (bufKey c i)

/-- Where n bytes at an offset of host h's ladle window lie (R397). -/
def State.ladleLoc (s : State) (h off n : Nat) : Option Loc :=
  let c := off / 2 ^ 38
  let r := off % 2 ^ 38
  let i := r / bufSize c
  if c < 6 ∧ i < 2 ^ 20 ∧ r % bufSize c + n ≤ bufSize c ∧ (s.buf c i).holder = some (0x20 + h) then
    match s.bufLoc c i with
    | some (.noc a) => some (.noc (a + r % bufSize c))
    | some (.landing a) => some (.landing (a + r % bufSize c))
    | none => none
  else none

/-- XLT's resolution of a local access of n bytes at host address a of host h (R414). -/
def State.xlt (s : State) (h a n : Nat) (write : Bool) : Option Loc :=
  match (hostSlots h).find? fun w => s.rb Reg.winEnable w && decide (s.rd Reg.winHostBase w ≤ a) &&
      decide (a < s.rd Reg.winHostBase w + s.rd Reg.winLength w) with
  | none => none
  | some w =>
    let off := a - s.rd Reg.winHostBase w
    if off + n ≤ s.rd Reg.winLength w ∧ bit (s.rd Reg.winPerm w) (if write then 1 else 0) then
      if s.rd Reg.winKind w = 1 then s.ladleLoc h off n
      else some (.noc (s.rd Reg.winTarget w + off))
    else none

/-- XLT's check of a frame: WindowId names an enabled memory window with the remote permissions and node range, and the range fits (R415). -/
def State.xltRemote (s : State) (id src perm off n : Nat) : Option (Nat × Nat) :=
  match (List.range 4096).find? fun w => s.rb Reg.winEnable w && s.rd Reg.winId w == id with
  | none => none
  | some w =>
    let lo := s.rd Reg.winNodeLo w
    let hi := s.rd Reg.winNodeHi w
    if s.rd Reg.winKind w ≠ 1 ∧ (s.rd Reg.winPerm w &&& perm) = perm ∧
        ((lo = 0 ∧ hi = 0) ∨ (lo ≤ src ∧ src ≤ hi)) ∧ off + n ≤ s.rd Reg.winLength w then
      some (w, s.rd Reg.winTarget w + off)
    else none

/-- The location n bytes further on. -/
def Loc.plus : Loc → Nat → Loc
  | .noc a, n => .noc (a + n)
  | .landing a, n => .landing (a + n)

/-- The landing-store bytes from a linear address (R59: the swizzle is one to one, so data are kept by linear address). -/
def State.landingRead (s : State) (a n : Nat) : List Byte := Tab.readBytes 0 s.landing a n

/-- The bank and row of a landing-store byte address (R59). -/
def landingBank (a : Nat) : Nat × Nat :=
  let l := bits a 25 6
  let w := bits l 19 12
  ((bits l 11 0) ^^^ ((w <<< 4) ^^^ w), w)

/-- The bytes at a location, without the stores' events. -/
def State.locRead (s : State) : Loc → Nat → List Byte
  | .noc a, n => s.memRead a n
  | .landing a, n => s.landingRead a n

/-- Whether two on-chip ranges touch an HBM channel outside a mask (R413, R543). -/
def hbmOutside (mask lo len : Nat) : Bool :=
  let hi := min (lo + len) 0xC000000000
  decide (lo < hi) && !(List.range ((hi - 1) / 2 ^ 34 - lo / 2 ^ 34 + 1)).all fun i => bit mask (lo / 2 ^ 34 + i)

end Sys2Proof.Machine
end

