-- ==== Sys2Proof/Machine/Trace.lean ====
section
/-! DEFINITION. BGD's records: alarm, telemetry and trace records in their rings (R505). -/

set_option Elab.async false

set_option linter.unusedVariables false

namespace Sys2Proof.Machine

/-- A fault record as a 256-bit number (15, Fault record). -/
def FaultRec.number (r : FaultRec) : Nat :=
  r.source * 2 ^ 240 + r.cls * 2 ^ 238 + r.reaction * 2 ^ 235 + b2n r.promoted * 2 ^ 234 + b2n r.ctxValid * 2 ^ 233 +
    r.host * 2 ^ 229 + r.ctx * 2 ^ 213 + r.heat * 2 ^ 197 + r.tick * 2 ^ 149 + r.status * 2 ^ 141 + r.detailB * 2 ^ 109 + r.detailA * 2 ^ 45

/-- Whether BGD can write records: it runs, and its unit and memory are powered. -/
def State.bgdOn (s : State) : Bool := s.booted && s.power != 4 && s.unitRuns 19

/-- Record n of a ring written at its slot; one that overwrites a record not yet read counts. -/
def State.ringRecord (s : State) (win log2 size n readIx : Nat) (lostObj : Obj) (l : List Byte) : State :=
  let count := 2 ^ log2 / size
  match s.engineAddr win (n % count * size) size with
  | none => s
  | some a =>
    let lost := decide (count ≤ n) && decide ((n - count + 2 ^ 32 - readIx % 2 ^ 32) % 2 ^ 32 < 2 ^ 31)
    (if s.memBad a size = 1 then s else s.memWrite a l).inc lostObj 0 (b2n lost)

/-- The head of a telemetry or alarm record: Tick, PowerState, FeedInUse, Kind. -/
def State.recordHead (s : State) (kind : Nat) : Nat := s.tick * 2 ^ 464 + s.power * 2 ^ 461 + b2n s.feedB * 2 ^ 460 + kind * 2 ^ 456

/-- A record put in the telemetry ring with its Sequence and CRC. -/
def State.telemetryPut (s : State) (body : Nat) : State :=
  let win := s.rd Reg.telemetryWindow 0
  if s.bgdOn && (s.engineWindow win).isSome then
    let n := s.rd Reg.telemetryRecords 0
    let x := body + n % 2 ^ 32 * 2 ^ 32
    let l := leBytes 4 (crc32c ((leBytes 64 x).drop 4)) ++ (leBytes 64 x).drop 4
    (s.ringRecord win (s.rd Reg.telemetryRingLog2 0) 64 n (s.rd Reg.telemetryReadIndex 0) Reg.telemetryOverwritten l).inc
      Reg.telemetryRecords 0 1
  else s

/-- A fault record that enters a history queue is copied as an alarm record. -/
def State.alarm (s : State) (r : FaultRec) : State := s.telemetryPut (s.recordHead 1 + r.number * 2 ^ 64)

/-- A trace record of a unit whose bit of TraceUnitMask is set. -/
def State.trace (s : State) (unit event ctx heat a b : Nat) : State :=
  let win := s.rd Reg.traceWindow 0
  if bit (s.rd Reg.traceUnitMask 0) unit && s.bgdOn && (s.engineWindow win).isSome then
    let n := s.rd Reg.traceRecords 0
    let x := s.tick * 2 ^ 208 + unit * 2 ^ 200 + event * 2 ^ 192 + ctx % 2 ^ 16 * 2 ^ 176 + heat % 2 ^ 16 * 2 ^ 160 + b % 2 ^ 32 * 2 ^ 128 +
      a % 2 ^ 64 * 2 ^ 64 + n % 2 ^ 32 * 2 ^ 32
    (s.ringRecord win (s.rd Reg.traceRingLog2 0) 32 n (s.rd Reg.traceReadIndex 0) Reg.traceOverwritten (leBytes 32 x)).inc
      Reg.traceRecords 0 1
  else s

end Sys2Proof.Machine
end

