-- ==== Sys2Proof/Machine/Image.lean ====
section
/-! DEFINITION. The 512-byte context image as the engine writes it to the image table (R433). -/

set_option Elab.async false

set_option linter.unusedVariables false

namespace Sys2Proof.Machine

/-- A general register of a context: g0 reads zero (R359). -/
def Ctx.greg (c : Ctx) (n : Nat) : Word64 := if n = 0 then 0 else Tab.get 0 c.g n

/-- A general register of the entry copy. -/
def Ctx.entryReg (c : Ctx) (n : Nat) : Word64 := Tab.get 0 c.entry n

/-- Bytes 0x000 to 0x1D7 of the image. -/
def imageHead (c : Ctx) : List Byte :=
  (List.range 31).flatMap (fun i => leBytes 8 (c.greg (i + 1)).toNat) ++
  (List.range 12).flatMap (fun i => leBytes 8 (c.entryReg (i + 4)).toNat) ++
  leBytes 2 c.pc ++ leBytes 4 c.step ++ leBytes 2 c.heat ++ leBytes 2 c.pattern ++ leBytes 2 c.effectCount ++
  leBytes 4 c.effectCrc ++ leBytes 1 c.preds ++ leBytes 1 c.stack.length ++
  (List.range 16).flatMap (fun i => leBytes 2 ((c.stack.reverse[i]?).getD 0)) ++
  leBytes 2 c.homeRing ++ leBytes 1 c.host ++
  leBytes 1 (c.state + 8 * b2n c.replayPending + 16 * c.abortCount + 64 * c.affinity) ++
  leBytes 1 c.cls ++ leBytes 1 0 ++ leBytes 4 c.wakeTol ++ leBytes 6 c.restTick ++ leBytes 6 c.readyTick ++
  leBytes 4 c.estFull ++ leBytes 4 c.estReduced ++ leBytes 4 c.estSkip ++
  leBytes 8 c.waitTicks ++ leBytes 8 c.runCycles ++ leBytes 8 c.commandsDone ++
  leBytes 4 c.takes ++ leBytes 4 c.aborts ++ leBytes 4 c.swapIns ++ leBytes 4 c.deadlineMisses ++ leBytes 4 c.fallbacks

/-- The image with ImageCrc, computed over the 512 bytes with the field zero. -/
def imageBytes (c : Ctx) : List Byte :=
  imageHead c ++ leBytes 4 (crc32c (imageHead c ++ List.replicate 40 0)) ++ List.replicate 36 0

/-- Whether 512 bytes read from the image table carry the CRC they should. -/
def imageGood (l : List Byte) : Bool :=
  leAt l 0x1D8 4 == crc32c (l.take 0x1D8 ++ List.replicate 4 0 ++ l.drop 0x1DC)

end Sys2Proof.Machine
end

