-- ==== Sys2Proof/Machine/Cmds.lean ====
section
/-! DEFINITION. Commands in flight: header fields, becoming ready, ending early, and the context states that follow (R78, R80, R88, R93, R95, R361, R433). -/

set_option Elab.async false

set_option linter.unusedVariables false

namespace Sys2Proof.Machine

/-! ## Header fields (R80, R83 and the argument tables of 03) -/

/-- A field of a 512-bit header or word. -/
def fld (h : Word512) (hi lo : Nat) : Nat := bits h.toNat hi lo

/-- A one-bit field of a header or word. -/
def fbit (h : Word512) (n : Nat) : Bool := bit h.toNat n

def hOp (h : Word512) : Nat := fld h 7 0
def hClass (h : Word512) : Nat := fld h 9 8
def hNotify (h : Word512) : Bool := fbit h 13
def hMaxFallback (h : Word512) : Nat := fld h 15 14
def hContext (h : Word512) : Nat := fld h 31 16
def hCommandId (h : Word512) : Nat := fld h 63 32
def hPayloadBytes (h : Word512) : Nat := fld h 95 64
def hDeadline (h : Word512) : Nat := fld h 175 128
def hDeadlineEnable (h : Word512) : Bool := fbit h 176
def hDoneTally (h : Word512) : Nat := fld h 208 192
def hDoneTallyEnable (h : Word512) : Bool := fbit h 209

def hRows (h : Word512) : Nat := fld h 271 256
def hLayer (h : Word512) : Nat := fld h 279 272
def hInputFmt (h : Word512) : Nat := fld h 283 280
def hHiddenFmt (h : Word512) : Nat := fld h 287 284
def hResultFmt (h : Word512) : Nat := fld h 291 288
def hLogits (h : Word512) : Bool := fbit h 292
def hEarlyPour (h : Word512) : Bool := fbit h 293
def hLayerSkip (h : Word512) : Bool := fbit h 294
def hRouterDim (h : Word512) : Nat := fld h 311 296
def hHiddenDim (h : Word512) : Nat := fld h 327 312
def hPlan (h : Word512) : Nat := fld h 343 328

def hNode (h : Word512) : Nat := fld h 275 256
def hWindow (h : Word512) : Nat := fld h 291 276
def hOffset (h : Word512) : Nat := fld h 339 292
def hAtomicOp (h : Word512) : Nat := fld h 343 340
def hLength (h : Word512) : Nat := fld h 364 344

/-! ## Tables of records -/

def State.cmd (s : State) (uid : Nat) : Option Cmd := Tab.find s.cmds uid
def State.modCmd (s : State) (uid : Nat) (f : Cmd → Cmd) : State := { s with cmds := Tab.modify s.cmds uid f }
def State.ctx (s : State) (x : Nat) : Option Ctx := Tab.find s.ctxs x
def State.modCtx (s : State) (x : Nat) (f : Ctx → Ctx) : State := { s with ctxs := Tab.modify s.ctxs x f }
def State.disp (s : State) (uid : Nat) : Option Disp := Tab.find s.disps uid
def State.modDisp (s : State) (uid : Nat) (f : Disp → Disp) : State := { s with disps := Tab.modify s.disps uid f }
def State.block (s : State) (x : Nat) : Option Block := Tab.find s.blocks x
def State.modBlock (s : State) (x : Nat) (f : Block → Block) : State := { s with blocks := Tab.modify s.blocks x f }
def State.plan (s : State) (p : Nat) : Option Plan := Tab.find s.plans p
def State.ring (s : State) (i : Nat) : Ring := Tab.get {} s.rings i
def State.modRing (s : State) (i : Nat) (f : Ring → Ring) : State :=
  { s with rings := Tab.set {} s.rings i (f (s.ring i)) }

/-- A count that saturates at the top of its width (R457). -/
def satAdd (w x n : Nat) : Nat := min (x + n) (2 ^ w - 1)

/-! ## Context states and places (R433, R434, R438) -/

/-- The sequencer of a Resident context. -/
def Ctx.seq (c : Ctx) : Nat := c.place / 16

/-- Whether a context is Running, Holding or Stopped. -/
def Ctx.busy (c : Ctx) : Bool := c.state == 3 || c.state == 4 || c.state == 6

/-- The context Running, Holding or Stopped on sequencer n. -/
def State.running (s : State) (n : Nat) : Option (Nat × Ctx) :=
  s.ctxs.find? fun p => p.2.busy && p.2.residency == 1 && p.2.seq == n

/-- The images of host h that the context cache holds (R436). -/
def State.cachedOf (s : State) (h : Nat) : List (Nat × Ctx) :=
  s.ctxs.filter fun p => p.2.host == h && p.2.residency == 2

/-- The lowest free image place in the context-cache ways of host h: way n holds images 128n to 128n + 127 (14, Ways). -/
def State.cacheSlot (s : State) (h : Nat) : Option Nat :=
  ((waysOf (s.rd Reg.ctxCacheWays h) 32).flatMap fun w => (List.range 128).map (· + 128 * w)).find? fun n =>
    s.ctxs.all fun p => !(p.2.residency == 2 && p.2.place == n)

/-- Host h's cached context that was swapped out longest ago (R436). -/
def State.oldestCached (s : State) (h : Nat) : Option (Nat × Ctx) :=
  bestBy (fun a b => decide (tickDiff a.2.outTick b.2.outTick < 0)) (s.cachedOf h)

/-- The on-chip address of a context's image in the image table (R432). -/
def State.imageAddr (s : State) (x : Nat) : Option Nat :=
  s.engineAddr (s.rd Reg.contextImageWindow 0) (512 * x) 512

/-- The image of a context written to the image table (R433, R436). -/
def State.writeImage (s : State) (x : Nat) : State :=
  match s.ctx x, s.imageAddr x with
  | some c, some a => (s.memWrite a (imageBytes c)).modCtx x fun c => { c with dirty := false }
  | _, _ => s

/-- The image leaves its entry for a free place of the context cache, for the place of the host's oldest cached image, which is written back first, or for the image table when the host has no ways (R435, R436). -/
def State.leaveEntry (s : State) (x : Nat) : State :=
  match s.ctx x with
  | none => s
  | some c =>
    let put := fun (r n : Nat) (s : State) => s.modCtx x fun c =>
      { c with residency := r, place := n, outTick := s.tick, savedInCmd := c.cmd.isSome, dirty := true }
    match s.cacheSlot c.host with
    | some n => put 2 n s
    | none =>
      match s.oldestCached c.host with
      | none => (put 3 0 s).writeImage x
      | some (y, d) => put 2 d.place ((s.modCtx y fun d => { d with residency := 3, place := 0 }).writeImage y)

/-- The first queued DISPATCH or RUN of a context that has not started; none while it still waits at its admission checks (R78, R104). -/
def State.nextCmd (s : State) (x : Nat) : Option (Nat × Cmd) :=
  match s.cmds.find? fun p => p.2.ctx == x && !p.2.started && !p.2.ready && p.2.marked == 0 &&
    (hOp p.2.header == 1 || hOp p.2.header == 2) with
  | some p => if p.2.admitting then none else some p
  | none => none

/-- The DISPATCH or RUN of a context that is in execution, or its next one (R438). -/
def State.workOf (s : State) (x : Nat) (c : Ctx) : Option (Nat × Cmd) :=
  match c.cmd with
  | some u => (s.cmd u).map fun k => (u, k)
  | none => s.nextCmd x

/-- The class of a context: 0 urgent to 3 background; 4 for an Idle one (R438). -/
def State.classOf (s : State) (x : Nat) (c : Ctx) : Nat :=
  match s.workOf x c with
  | none => 4
  | some (_, k) => hClass k.header

/-- The class with aging (R440). -/
def State.agedClass (s : State) (x : Nat) (c : Ctx) : Nat :=
  let k := s.classOf x c
  if c.state = 2 ∧ (k = 2 ∨ k = 3) ∧ s.elapsed c.readyTick (s.rd Reg.starveTicks 0) then 1 else k

/-- A context becomes Runnable now (R439). -/
def Ctx.runnable (c : Ctx) (now : Nat) : Ctx := { c with state := 2, readyTick := now }

/-- The scratch of a sequencer marked invalid (R380). -/
def State.clearScratch (s : State) (n : Nat) : State :=
  { s with scratch := Tab.clearRange s.scratch (n * 2 ^ 20) (2 ^ 20) }

/-- The waits of a context dropped. -/
def State.dropWaits (s : State) (x : Nat) : State :=
  let keep := fun (w : TWait) => match w.who with
    | .context y _ => y != x
    | .command _ => true
  { s with watchTable := s.watchTable.filter keep, pollList := s.pollList.filter keep }

/-- The waits of a command dropped. -/
def State.dropCmdWaits (s : State) (uid : Nat) : State :=
  let keep := fun (w : TWait) => match w.who with
    | .context _ _ => true
    | .command u => u != uid
  { s with watchTable := s.watchTable.filter keep, pollList := s.pollList.filter keep }

/-- A context's pattern stops: it leaves its sequencer, its scratch is discarded, a stop at an exception ends (R95, R385, R472). -/
def State.stopPattern (s : State) (x : Nat) : State :=
  match s.ctx x with
  | none => s
  | some c =>
    let s := s.dropWaits x
    let s := if c.busy && c.residency == 1 then
        (s.clearScratch c.seq).modCtx x fun c => { c with take := false }
      else s
    let s := if c.state = 6 ∧ c.residency = 1 then { s with excs := Tab.drop s.excs c.seq } else s
    s.modCtx x fun c => if c.state = 7 then c else
      { c with state := 5, rest := none, hold := 0, restTick := s.tick, watchdog := false, replayPending := false }

/-- A context whose command has become ready: Runnable when another waits, otherwise Idle (R361, R439). -/
def State.afterReady (s : State) (x : Nat) : State :=
  match s.nextCmd x with
  | some _ => s.modCtx x fun c => if c.state = 7 then c else { (c.runnable s.tick) with rest := none, hold := 0, take := false }
  | none => s.modCtx x fun c => if c.state = 7 then c else
      { c with state := 1, restTick := s.tick, rest := none, hold := 0, take := false }

/-! ## Readiness -/

/-- A completion tick at or past the deadline is late (R81). -/
def Cmd.late (k : Cmd) (now : Nat) : Bool := hDeadlineEnable k.header && tickReached now (hDeadline k.header)

/-- A command marked ready with its status: the record's tick and Late bit (R81, R88, R91). -/
def Cmd.finish (k : Cmd) (now status : Nat) : Cmd :=
  { k with ready := true, status := status, readyTick := now,
           modes := if k.late now then setBit k.modes 9 else k.modes }

/-- Whether a FENCE or CANCEL, the commands before it in its ring given, may become ready (R93, R95). -/
def fenceFree (k : Cmd) (before : List Cmd) : Bool :=
  if hOp k.header = 4 then before.all (·.ready)
  else if hOp k.header = 5 then before.all fun b => b.ready || !(b.marked == 1 && b.ctx == k.ctx)
  else false

/-- The FENCEs and CANCELs of a ring that what is ready now lets become ready, in fetch order (R93, R95). -/
def State.releaseFences (s : State) (i : Nat) : State :=
  let go := fun (acc : State × List Cmd) (uid : Nat) =>
    match acc.1.cmd uid with
    | none => acc
    | some k =>
      if !k.ready && k.status == 0 && fenceFree k acc.2 then
        let k' := k.finish acc.1.tick 0
        ({ acc.1 with cmds := Tab.put acc.1.cmds uid k' }, acc.2 ++ [k'])
      else (acc.1, acc.2 ++ [k])
  let s := ((s.ring i).rob.foldl go (s, [])).1
  s.modRing i fun r => { r with fenceWait := r.rob.any fun u => match s.cmd u with
    | some k => hOp k.header == 4 && !k.ready
    | none => false }

/-- What a refusal's status leaves uncounted (R90, R456). -/
def isRefusal (status : Nat) : Bool := (2 ≤ status && status ≤ 15) || status == 19

/-- A command becomes ready with a status (R91): its record's fields, its ring's fences, its context's counters, step and next state. -/
def State.makeReady (s : State) (uid status : Nat) : State :=
  match s.cmd uid with
  | none => s
  | some k =>
    if k.ready then s
    else
      let k' := k.finish s.tick status
      let s := { s with cmds := Tab.put s.cmds uid k' }
      let refused := isRefusal status || k.denied
      let s := if refused then s.modRing k.ring fun r => { r with lastRefusal := status } else s
      let s := if k'.late s.tick && !refused then
          (s.modCtx k.ctx fun c => { c with deadlineMisses := satAdd 32 c.deadlineMisses 1 }).inc Reg.hostDeadlineMisses k.host 1
        else s
      let s := s.dropCmdWaits uid
      let op := hOp k.header
      let s := if (op = 1 ∨ op = 2) ∧ !refused then
          let s := match s.ctx k.ctx with
            | some c => if op = 2 then { s with boundaries := s.boundaries ++ [(k.ctx, c.step)] } else s
            | none => s
          let s := s.modCtx k.ctx fun c => { c with
            commandsDone := (c.commandsDone + 1) % 2 ^ 64
            step := if op = 2 then (c.step + 1) % 2 ^ 32 else c.step
            abortCount := if c.cmd = some uid then 0 else c.abortCount
            replayPending := if c.cmd = some uid then false else c.replayPending }
          match s.ctx k.ctx with
          | none => s
          | some c =>
            if c.cmd = some uid then
              ((if c.busy then s.stopPattern k.ctx else s).modCtx k.ctx fun c => { c with cmd := none, wide := 0 }).afterReady k.ctx
            else if c.cmd = none then (if c.state = 2 then s.afterReady k.ctx else s) else s
        else s
      let s := s.modCtx k.ctx fun c => { c with
        resetting := c.resetting && s.cmds.any fun p => p.2.ctx == k.ctx && p.2.marked != 0 && !p.2.ready }
      s.releaseFences k.ring

/-- The result payload a command carries to its posting. -/
def State.setResult (s : State) (uid : Nat) (l : List Byte) : State :=
  s.modCmd uid fun k => { k with result := l.zipIdx.map fun p => (p.2, p.1) }

/-- A command whose end is decided becomes ready once no copy of its pattern and no open pour or block holds it (R186, R372, R379, R473). -/
def State.tryEnd (s : State) (uid : Nat) : State :=
  match s.cmd uid with
  | none => s
  | some k =>
    if k.ready || k.copies != 0 then s
    else if hOp k.header = 1 ∧ (k.ended ∨ k.marked ≠ 0) then s.makeReady uid k.marked
    else if hOp k.header = 2 ∧ k.marked ≠ 0 ∧ s.disp uid = none then s.makeReady uid k.marked
    else s

/-- A DISPATCH or RUN ends early with a status: the pattern stops, POR hands over no further copy, its block is left in the state given, and it becomes ready under R186 or R473. -/
def State.endCommand (s : State) (uid status block : Nat) : State :=
  match s.cmd uid with
  | none => s
  | some k =>
    if k.ready ∨ k.marked ≠ 0 then s
    else
      let s := s.modCmd uid fun k => { k with marked := status, resultBytes := 0 }
      let s := match s.ctx k.ctx with
        | some c => if c.cmd = some uid then s.stopPattern k.ctx else s
        | none => s
      let s := s.modDisp uid fun d => { d with ended := true }
      let s := { s with pourQueue := s.pourQueue.filter (· != uid) }
      let s := s.modBlock k.ctx fun b => if b.uid = uid then { b with state := block } else b
      s.tryEnd uid

end Sys2Proof.Machine
end

