-- ==== Sys2Proof/Machine/Fault.lean ====
section
/-! DEFINITION. Faults: sources and reactions, counting and promotion, capture, history, escalation slots, context kill and Fatal pending (R458 to R476). -/

set_option Elab.async false

set_option linter.unusedVariables false

namespace Sys2Proof.Machine

/-! ## Sources (R458, R459) -/

/-- A row of the table of fault sources. -/
structure SourceRow where
  cls : Nat
  reaction : Nat
  promoted : Nat
  count : Nat
  window : Nat
deriving DecidableEq, Repr

/-- A corrected source with its promoted reaction and PromoteCount. -/
def corrected (promoted count : Nat) : SourceRow := ⟨0, 0, promoted, count, 31250000⟩
def contained (reaction : Nat) : SourceRow := ⟨1, reaction, 0, 0, 0⟩
def fatalRow : SourceRow := ⟨2, 5, 0, 0, 0⟩

/-- The table of fault sources; QueueParity's reaction depends on the event (R459). -/
def sourceTable : List (Nat × SourceRow) :=
  [(0x0001, contained 1), (0x0101, corrected 1 256), (0x0102, fatalRow), (0x0103, corrected 1 256),
   (0x0104, fatalRow), (0x0105, corrected 1 256), (0x0106, contained 3), (0x0107, contained 2),
   (0x0108, fatalRow), (0x0201, corrected 1 256), (0x0202, contained 1), (0x0203, contained 2)] ++
  [(0x0801, corrected 1 256), (0x0802, contained 1), (0x0803, contained 1), (0x0804, contained 1),
   (0x0901, corrected 1 256), (0x0902, contained 1), (0x0903, corrected 4 4), (0x0904, contained 4),
   (0x0905, contained 2), (0x0A01, contained 1), (0x0B01, corrected 4 4), (0x0B02, contained 4)] ++
  [(0x0C01, contained 1), (0x0D01, contained 1), (0x0D02, contained 1), (0x0D03, contained 1),
   (0x1101, corrected 1 256), (0x1102, fatalRow), (0x1103, corrected 1 8)]

/-- The row of a source; index 0 of every unit is QueueParity (R458). -/
def sourceRow (src : Nat) : Option SourceRow :=
  if src % 256 = 0 ∧ src / 256 < 20 then some (contained 4)
  else (sourceTable.find? fun p => p.1 == src).map (·.2)

/-- Whether a source exists on this variant: its unit is fitted (R7, R458). -/
def State.sourceExists (s : State) (src : Nat) : Bool := (sourceRow src).isSome && s.fitted (src / 256)

/-- PromoteCount and PromoteWindowTicks of a source, with the reset values of the table of fault sources. -/
def promoteCountOf (src : Nat) : Obj :=
  { Reg.promoteCount with reset := match sourceRow src with | some r => r.count | none => 0 }
def promoteWindowOf (src : Nat) : Obj :=
  { Reg.promoteWindowTicks with reset := match sourceRow src with | some r => r.window | none => 0 }

/-- An event of a source: the context it names with its heat, the host, the affected command's status and the capture detail. -/
structure Ev where
  src : Nat
  ctx : Option (Nat × Nat) := none
  host : Nat := 0
  status : Nat := 0
  a : Nat := 0
  b : Nat := 0
  /-- A buffer was freed by a unit, not a host (0x0D01 to 0x0D03). -/
  byUnit : Bool := false

/-- The reaction of an event that is not promoted (R459). -/
def Ev.reaction (e : Ev) (row : SourceRow) : Nat :=
  if e.src % 256 = 0 then (if e.ctx.isSome then 2 else 4)
  else if e.src / 256 = 0x0D ∧ e.byUnit then 4
  else row.reaction

/-! ## History and capture (R463 to R465) -/

def State.unitFaults (s : State) (u : Nat) : UnitFaults := Tab.get {} s.units u
def State.modUnit (s : State) (u : Nat) (f : UnitFaults → UnitFaults) : State :=
  { s with units := Tab.set {} s.units u (f (s.unitFaults u)) }

/-- A record appended to a unit's history queue of 16 (R464). -/
def State.appendHistory (s : State) (u : Nat) (r : FaultRec) : State :=
  let h := (s.unitFaults u).history
  let s := s.alarm r
  if h.length < 16 then s.modUnit u fun f => { f with history := h ++ [r] }
  else (s.modUnit u fun f => { f with history := h.drop 1 ++ [r] }).inc Reg.historyLost u 1

/-- The summary window of a tick (R465). -/
def State.summaryWindow (s : State) : Nat := s.tick / max 1 (s.rd Reg.summaryWindowTicks 0)

/-- The summary record of a source whose window is over, and its budget begun anew (R465). -/
def State.closeSummary (s : State) (src : Nat) : State :=
  match Tab.find s.summary src with
  | none => s
  | some m =>
    if m.window = s.summaryWindow then s
    else
      let s' := { s with summary := Tab.drop s.summary src }
      if m.summarised = 0 then s'
      else s'.appendHistory (src / 256)
        { source := src, cls := match sourceRow src with | some r => r.cls | none => 0
          reaction := 7, promoted := false, ctxValid := false, host := 0, ctx := 0, heat := 0
          tick := s.tick, status := 0, detailA := m.summarised, detailB := 0 }

/-- An event's record enters its unit's history, within the source's budget of the window (R464, R465). -/
def State.recordEvent (s : State) (r : FaultRec) : State :=
  let s := s.closeSummary r.source
  let m := match Tab.find s.summary r.source with
    | some m => m
    | none => { window := s.summaryWindow, recorded := 0, summarised := 0 }
  if m.recorded < s.rd Reg.historyPerSource 0 then
    { s with summary := Tab.put s.summary r.source { m with recorded := m.recorded + 1 } }.appendHistory (r.source / 256) r
  else
    { s with summary := Tab.put s.summary r.source { m with summarised := m.summarised + 1 } }.inc
      Reg.summarisedCount r.source 1

/-- The first-error capture takes the first class K or F record (R463). -/
def State.captureFirst (s : State) (r : FaultRec) : State :=
  let u := r.source / 256
  if r.cls = 0 ∨ (s.unitFaults u).first.isSome then s else s.modUnit u fun f => { f with first := some r }

/-! ## Promotion (R461) -/

/-- A class C event counted in its source's window: whether it is promoted, and the state after. -/
def State.countWindow (s : State) (src : Nat) : Bool × State :=
  let n := s.rd (promoteCountOf src) src
  let w := s.rd (promoteWindowOf src) src
  if n = 0 then (false, s)
  else
    let win : PromoWindow := match Tab.find s.promo src with
      | none => { start := s.tick, count := 1 }
      | some p => if s.elapsed p.start w then { start := s.tick, count := 1 } else { p with count := p.count + 1 }
    if n ≤ win.count then
      (true, { s with promo := Tab.drop s.promo src }.inc Reg.promotedCount src 1)
    else (false, { s with promo := Tab.put s.promo src win })

/-! ## Fatal pending (R470, R476) -/

/-- The engine enters Fatal pending: FatalSource and the Stop deadline; a later class F event changes neither (R470). -/
def State.enterFatal (s : State) (src : Nat) : State :=
  if s.rd Reg.fatalState 0 ≠ 0 then s
  else { (s.wr Reg.fatalState 0 1).wr Reg.fatalSource 0 src with
         stopDeadline := some (tickAdd s.tick (s.rd Reg.escalationTicks 0)) }

/-- A class F event of a source: counted, recorded, captured, and Fatal pending (R470). -/
def State.raiseFatal (s : State) (r : FaultRec) : State :=
  let r := { r with cls := 2, reaction := 5, promoted := false, tick := s.tick }
  let s := s.inc Reg.eventCount r.source 1
  let s := s.wr Reg.faultStatus (r.source / 256) (setBit (s.rd Reg.faultStatus (r.source / 256)) (r.source % 256))
  ((s.recordEvent r).captureFirst r).enterFatal r.source

/-! ## Context kill (R472 to R475) -/

/-- What a kill or a context reset does to one command of its context: it ends with a status, in its unit's order (R473, R548). -/
def State.stopCmd (s : State) (st uid : Nat) : State :=
  match s.cmd uid with
  | none => s
  | some k =>
    if k.ready then s
    else
      let op := hOp k.header
      let stopCopies := fun (s : State) =>
        { s with copies := Tab.mapVals s.copies fun _ c => if c.uid = uid then { c with killed := true } else c }
      let mark := fun (s : State) => s.modCmd uid fun k => if k.marked = 0 then { k with marked := st } else k
      if op = 1 ∨ op = 2 then stopCopies (s.endCommand uid st (if st = 1 then 1 else 2))
      else if op = 3 then stopCopies (mark s)
      else if op = 6 ∧ fld k.header 258 256 = 3 then s.makeReady uid st
      else if op = 7 then mark s
      else s

/-- What a kill does to one command of its context (R473). -/
def State.killCmd (s : State) (uid : Nat) : State := s.stopCmd 0x17 uid

/-- A context is killed (R472, R473). -/
def State.killContext (s : State) (x : Nat) : State :=
  match s.ctx x with
  | none => s
  | some c =>
    if c.state = 7 then s
    else
      let s := ((s.stopPattern x).leaveEntry x).modCtx x fun c =>
        { c with state := 7, replayPending := false, killTick := s.tick }
      let s := s.inc Reg.hostKills c.host 1
      ((s.cmds.filter fun p => p.2.ctx == x && !p.2.ready).map (·.1)).foldl State.killCmd s

/-! ## Raising (R467, R468) -/

/-- The reaction at expiry of a slot's fault (15, Reactions). -/
def State.expireFault (s : State) (r : FaultRec) : State :=
  if s.fatal then s
  else if r.reaction = 2 then (if r.ctxValid then s.killContext r.ctx else s)
  else if r.reaction = 4 then s.raiseFatal r
  else s

/-- A class K fault arms the lowest free slot, or is expired at once when all 8 are Armed (R467, R468). -/
def State.armSlot (s : State) (r : FaultRec) : State :=
  let u := r.source / 256
  let f := s.unitFaults u
  match (List.range 8).find? fun n => (Tab.find f.slots n).isNone with
  | none => s.expireFault r
  | some n =>
    let slot : EscSlot := { fault := r, deadline := tickAdd r.tick (s.rd Reg.escalationTicks 0) }
    s.modUnit u fun f => { f with slots := Tab.put f.slots n slot }

/-- An event is raised in its unit: counted, recorded, captured, and its reaction begun (R460 to R470). -/
def State.raise (s : State) (e : Ev) : State :=
  match sourceRow e.src with
  | none => s
  | some row =>
    let u := e.src / 256
    let s := s.inc Reg.eventCount e.src 1
    let s := s.wr Reg.faultStatus u (setBit (s.rd Reg.faultStatus u) (e.src % 256))
    let pr := if row.cls = 0 then s.countWindow e.src else (false, s)
    let s := pr.2
    let cls := if pr.1 then 1 else row.cls
    let react := if pr.1 then row.promoted else if row.cls = 0 then 0 else e.reaction row
    let r : FaultRec :=
      { source := e.src, cls := cls, reaction := react, promoted := pr.1, ctxValid := e.ctx.isSome
        host := e.host, ctx := (e.ctx.getD (0, 0)).1, heat := (e.ctx.getD (0, 0)).2, tick := s.tick
        status := e.status, detailA := e.a % 2 ^ 64, detailB := e.b % 2 ^ 32 }
    let s := (s.recordEvent r).captureFirst r
    if cls = 0 then s
    else if react = 5 then s.enterFatal e.src
    else if s.fatal then s
    else if react = 3 then (if r.ctxValid then s.killContext r.ctx else s)
    else s.armSlot r

/-- An event that an armed injection causes also counts in InjectedEvents, and the injection is done (R479). -/
def State.injected (s : State) (src : Nat) : State :=
  { s.inc Reg.injectedEvents src 1 with inject := none }.wr Reg.injectState 0 2

/-- The host that a context belongs to, and its heat, for a fault record. -/
def State.ctxOf (s : State) (x : Nat) : Option (Nat × Nat) × Nat :=
  match s.ctx x with
  | none => (none, 0)
  | some c => (some (x, c.heat), c.host)

/-- Whether a context's commands at a heat may still increment tallies: the heat is current and the context not killed (R331, R474). -/
def State.credits (s : State) (x heat : Nat) : Bool :=
  match s.ctx x with
  | none => false
  | some c => c.heat == heat && c.state != 7

end Sys2Proof.Machine
end

