-- ==== Sys2Proof/Machine/Ladle.lean ====
section
/-! DEFINITION. LDL: pools, requests, handles, frees and withdrawal (R387 to R400). -/

set_option Elab.async false

set_option linter.unusedVariables false

namespace Sys2Proof.Machine

/-! ## Pools (R387 to R391) -/

def State.pool (s : State) (c : Nat) : Pool := Tab.get {} s.pools c
def State.modPool (s : State) (c : Nat) (f : Pool → Pool) : State :=
  { s with pools := Tab.set {} s.pools c (f (s.pool c)) }
def State.modBuf (s : State) (c i : Nat) (f : Buf → Buf) : State :=
  { s with bufs := Tab.set {} s.bufs (bufKey c i) (f (s.buf c i)) }

/-- The buffers of one segment (R388). -/
def State.segCount (s : State) (seg : Nat) : Nat :=
  if s.rd Reg.segKind seg = 0 then 0 else s.rd Reg.segBuffers seg

/-- The pool's total of segment buffers (R396). -/
def State.poolTotal (s : State) (c : Nat) : Nat :=
  ((List.range 8).map fun k => s.segCount (8 * c + k)).foldl (· + ·) 0

/-- The buffers of class c that meet a test, among those ever touched. -/
def State.bufsWith (s : State) (c : Nat) (p : Buf → Bool) : Nat :=
  (s.bufs.filter fun b => b.1 / 2 ^ 20 == c && p b.2).length

/-- PoolBuffers: segment buffers minus withdrawn (R398). -/
def State.poolBuffers (s : State) (c : Nat) : Nat := s.poolTotal c - s.bufsWith c (·.withdrawn)

/-- Held_r (R389). -/
def State.heldBy (s : State) (r c : Nat) : Nat := s.bufsWith c fun b => b.holder == some r

/-- The requester ids: units 0 to 19 and hosts (R389). -/
def requesters : List Nat := List.range 20 ++ (List.range 16).map (· + 0x20)

/-- Quota with its reset values: no limit for units, 0 for hosts. -/
def quotaOf (r : Nat) : Obj := { Reg.quota with reset := if r < 0x20 then 0xFFFFFFFF else 0 }

/-- Owed (R389). -/
def State.owed (s : State) (c : Nat) : Nat :=
  (requesters.map fun r => s.rd Reg.reserve (8 * r + c) - s.heldBy r c).foldl (· + ·) 0

/-- Shareable (R389). -/
def State.shareable (s : State) (c : Nat) : Nat := (s.pool c).free.length - s.owed c

/-- A record of an event that is not a fault, whose layout the spec does not give: its fields are free values. -/
def State.openRecord (s : State) (u : Nat) : State :=
  let f := Config.freeValue
  let n := s.free
  { s with free := n + 4 }.appendHistory u
    { source := u * 256 + f n % 256, cls := f (n + 1) % 4, reaction := f (n + 2) % 8, promoted := false, ctxValid := false
      host := 0, ctx := 0, heat := 0, tick := s.tick, status := 0, detailA := f (n + 3) % 2 ^ 64, detailB := 0 }

/-- A pool enters or leaves Pressed as Shareable stands (R391). -/
def State.pressure (s : State) (c : Nat) : State :=
  let sh := s.shareable c
  let p := (s.pool c).pressed
  if p ∧ s.rd Reg.highWater c ≤ sh then (s.modPool c fun q => { q with pressed := false }).openRecord 13
  else if ¬ p ∧ sh ≤ s.rd Reg.lowWater c then (s.modPool c fun q => { q with pressed := true }).openRecord 13
  else s

/-- PoolState (13, Ladle objects). -/
def State.poolState (s : State) (c : Nat) : Nat :=
  if s.poolBuffers c < s.owed c then 2 else if (s.pool c).pressed then 1 else 0

/-- The free list of a class built anew from its segments, in index order (log entry 12). -/
def State.buildPool (s : State) (c : Nat) : State :=
  let free := (List.range (s.poolTotal c)).filter fun i => !(s.buf c i).withdrawn && (s.buf c i).holder.isNone
  (s.modPool c fun p => { p with free := free }).pressure c

/-! ## Handles and grants (R390, R394, R395) -/

/-- The handle of a buffer at its generation (R395). -/
def handleOf (gen c i : Nat) : Nat := gen * 2 ^ 48 + c * 2 ^ 45 + i

/-- Whether class c can serve a request of r (R390). -/
def State.canServe (s : State) (r c : Nat) : Bool :=
  let p := s.pool c
  if s.heldBy r c < s.rd Reg.reserve (8 * r + c) then !p.free.isEmpty
  else decide (s.heldBy r c < s.rd (quotaOf r) (8 * r + c)) && decide (0 < s.shareable c) && !p.pressed

/-- The head of the free list granted to r (R392). -/
def State.grant (s : State) (r c : Nat) : Option Nat × State :=
  match (s.pool c).free with
  | [] => (none, s)
  | i :: rest =>
    let s := s.modBuf c i fun b => { b with holder := some r }
    let s := (s.modPool c fun p => { p with free := rest }).inc Reg.grants 0 1
    (some (handleOf (s.buf c i).gen c i), s.pressure c)

/-- A request tested, cascading by one class where R394 lets it. -/
def State.request (s : State) (r c : Nat) : Option Nat × State :=
  if s.canServe r c then s.grant r c
  else
    let own := !decide (s.heldBy r c < s.rd (quotaOf r) (8 * r + c)) && !decide (s.heldBy r c < s.rd Reg.reserve (8 * r + c))
    if c < 5 ∧ s.rb Reg.cascade (8 * r + c) ∧ ¬ own ∧ s.canServe r (c + 1) then
      let g := s.grant r (c + 1)
      (g.1, g.2.inc Reg.cascadeGrants 0 1)
    else (none, s)

/-! ## Held requests of hosts (R393) -/

/-- The page offset of Alloc[c] of host h. -/
def allocOffset (h c : Nat) : Nat := 0x120000 + h * 0x1000 + 8 * c

/-- The held read of Alloc that round robin serves next among those of class c that can be served. -/
def State.nextHeld (s : State) (c : Nat) : Option HeldRead :=
  let ok := fun h => s.heldReads.any (fun r => r.cls == c && r.host == h) && (s.request (0x20 + h) c).1.isSome
  match roundRobin 16 (s.pool c).ptr ok with
  | none => none
  | some h => s.heldReads.find? fun r => r.cls == c && r.host == h

/-- One held read of class c served. -/
def State.serveHeldOnce (s : State) (c : Nat) : State :=
  match s.nextHeld c with
  | none => s
  | some r =>
    let g := s.request (0x20 + r.host) c
    let s := g.2.modPool c fun p => { p with ptr := (r.host + 1) % 16 }
    { s with heldReads := s.heldReads.erase r }.emit (.pageData (allocOffset r.host c) (16 + r.host) (g.1.getD 0))

/-- Held reads served in every class while any can be. -/
def State.serveHeld (s : State) : State :=
  if s.heldReads.isEmpty then s
  else (List.replicate s.heldReads.length ()).foldl
    (fun s _ => (List.range 6).foldl State.serveHeldOnce s) s

/-! ## Frees (R395, R396) -/

def handleGen (h : Nat) : Nat := bits h 63 48
def handleClass (h : Nat) : Nat := bits h 47 45
def handleIndex (h : Nat) : Nat := bits h 19 0

/-- The outcome of the checks of a free: 0 freed, 1 BadHandle, 2 DoubleFree, 3 ForeignFree (R396). -/
def State.freeOutcome (s : State) (h freer : Nat) : Nat :=
  let c := handleClass h
  let i := handleIndex h
  let b := s.buf c i
  if 5 < c ∨ bits h 44 20 ≠ 0 ∨ s.poolTotal c ≤ i ∨ (b.withdrawn ∧ b.holder.isNone) then 1
  else if handleGen h ≠ b.gen ∨ b.holder.isNone then 2
  else if b.holder ≠ some freer then 3
  else 0

/-- A free: a refused one raises the fault of its name; an accepted one advances the generation, and the buffer joins the tail unless withdrawn (R396, R398). -/
def State.freeBuffer (s : State) (h freer : Nat) : State :=
  let c := handleClass h
  let i := handleIndex h
  let out := s.freeOutcome h freer
  let holder := (s.buf c i).holder.getD 0
  if out ≠ 0 then
    (s.inc Reg.refusedFrees 0 1).raise
      { src := 0x0D00 + out, host := if 0x20 ≤ freer then freer - 0x20 else 0, a := h
        b := if out = 3 then freer + 256 * holder else freer, byUnit := decide (freer < 0x20) }
  else
    let gone := (s.buf c i).withdrawn
    let s := s.modBuf c i fun b => { b with gen := if b.gen = 0xFFFF then 1 else b.gen + 1, holder := none }
    let s := if gone then s else s.modPool c fun p => { p with free := p.free ++ [i] }
    (s.pressure c).serveHeld

/-! ## Withdrawal (R398) -/

/-- A buffer withdrawn: off the free list when free, in WithdrawnList unless that is full, and recorded (R483). -/
def State.withdraw (s : State) (c i : Nat) : State :=
  let b := s.buf c i
  if b.withdrawn then s
  else
    let s := s.modBuf c i fun b => { b with withdrawn := true }
    let s := s.modPool c fun p => { p with free := p.free.filter (· != i) }
    let s := if s.withdrawnList.length < 4096 then { s with withdrawnList := s.withdrawnList ++ [handleOf b.gen c i] }
      else s.inc Reg.keeperOverflow 0 1
    ((s.inc Reg.withdrawals 0 1).openRecord 13).pressure c

/-- The pool buffer that a landing-store byte lies in. -/
def State.bufferAt (s : State) (a : Nat) : Option (Nat × Nat) :=
  let hit := fun (seg : Nat) =>
    let c := seg / 8
    let lo := s.rd Reg.segBase seg
    if s.rd Reg.segKind seg = 1 ∧ lo ≤ a ∧ a < lo + s.segCount seg * bufSize c then
      some (c, ((List.range (seg % 8)).map fun k => s.segCount (8 * c + k)).foldl (· + ·) 0 + (a - lo) / bufSize c)
    else none
  (List.range 48).findSome? hit

/-- A corrected or uncorrectable event of a landing-store word that a pool buffer holds (R398). -/
def State.bufferEvent (s : State) (a : Nat) (uncorrectable : Bool) : State :=
  match s.bufferAt a with
  | none => s
  | some (c, i) =>
    if uncorrectable then s.withdraw c i
    else
      let b := s.buf c i
      let fresh := b.corr = 0 ∨ s.elapsed b.corrStart (s.rd Reg.withdrawWindowTicks 0)
      let n := if fresh then 1 else b.corr + 1
      let s := s.modBuf c i fun b => { b with corr := n, corrStart := if fresh then s.tick else b.corrStart }
      if s.rd Reg.withdrawCorrections 0 ≤ n then (s.modBuf c i fun b => { b with corr := 0 }).withdraw c i else s

end Sys2Proof.Machine
end

