-- ==== Sys2Proof/Machine/Stores.lean ====
section
/-! DEFINITION. The RS72 stores as their readers and writers meet them: check symbols, correction, poison, and injection (R63 to R65, R479, R553). -/

set_option Elab.async false

set_option linter.unusedVariables false

namespace Sys2Proof.Machine

/-- Store numbers of the folded address (R63). -/
def gateNo : Nat := 1
def landingNo : Nat := 2
def stitchNo : Nat := 3
def scratchNo (n : Nat) : Nat := 4 + n
def planCacheNo : Nat := 8
def ctxCacheNo : Nat := 9
def keeperNo : Nat := 0xA

/-- The words of each store (R63). -/
def storeWords (st : Nat) : Nat :=
  if st = 1 then 786432 else if st = 2 then 1048576 else if st = 3 then 524288
  else if 4 ≤ st ∧ st ≤ 7 then 16384 else if st = 8 then 131072 else if st = 9 then 32768
  else if st = 10 then 20480 else 0

/-- The corrected and uncorrectable sources of a store (15, Fault sources); an uncorrectable context-cache word is ContextImageBad (R436). -/
def storeSources (st : Nat) : Nat × Nat :=
  if st = 1 then (0x0201, 0x0202) else if st = 2 then (0x0801, 0x0802) else if st = 3 then (0x0901, 0x0902)
  else if 4 ≤ st ∧ st ≤ 7 then (0x0101, 0x0102) else if st = 8 then (0x0103, 0x0104)
  else if st = 9 then (0x0105, 0x0106) else (0x1101, 0x1102)

/-- The folded address of a byte of a store (R63). -/
def foldedAddr (st off : Nat) : Nat := st * 2 ^ 28 + off / 64

/-- The check marks of a word: the inverted symbols as a mask of 8 bits, bit 8 when an injection inverted them; 0xFF is the poison of R65. -/
def badMask (m : Nat) : Bool := decide (4 < popCount 8 m)

/-- The marked words of a store in a byte range, as word numbers with their marks. -/
def State.marked (s : State) (st off len : Nat) : List (Nat × Nat) :=
  if len = 0 then []
  else (s.checks.filter fun p => foldedAddr st off ≤ p.1 && p.1 ≤ foldedAddr st (off + len - 1)).map
    fun p => (p.1 % 2 ^ 28, p.2)

/-- A word of a store with its check marks set. -/
def State.setMark (s : State) (st word m : Nat) : State :=
  { s with checks := Tab.set 0 s.checks (st * 2 ^ 28 + word) m }

/-- The report of one marked word read: a corrected one is rewritten, an uncorrectable one stays (R64). -/
def State.readMarked (s : State) (st : Nat) (e : Ev) (w : Nat × Nat) : State :=
  let src := storeSources st
  let addr := st * 2 ^ 28 + w.1
  let bad := badMask w.2
  let s := if bad then s else s.setMark st w.1 0
  let s := if st = 2 then s.bufferEvent (w.1 * 64) bad else s
  let s := if bit w.2 8 then s.inc Reg.injectedEvents (if bad then src.2 else src.1) 1 else s
  if bad then s.raise { e with src := src.2, a := addr }
  else s.raise { src := src.1, a := addr, b := popCount 8 w.2 }

/-- The words of a byte range of a store read: whether one was uncorrectable, and the state after the reports (R64). -/
def State.storeRead (s : State) (st off len : Nat) (e : Ev) : Bool × State :=
  let ws := s.marked st off len
  if ws.isEmpty then (false, s) else (ws.any fun w => badMask w.2, ws.foldl (fun s w => s.readMarked st e w) s)

/-- An armed injection into a word of a byte range takes hold at the write of that word (R479). -/
def State.injectWrite (s : State) (st off len : Nat) : State :=
  match s.inject with
  | none => s
  | some j =>
    if len ≠ 0 ∧ foldedAddr st off ≤ j.word ∧ j.word ≤ foldedAddr st (off + len - 1) ∧ (storeSources st).1 / 256 = j.source / 256 ∧
        (j.source % 256 ≠ 0) then
      { s with inject := none, checks := Tab.set 0 s.checks j.word (2 ^ 8 + j.mask % 2 ^ 8) }.wr Reg.injectState 0 2
    else s

/-- The check symbols of a byte range written: a full word is made whole; the read of a partial one is an ordinary read, and its poison stays (R65, R553). -/
def State.storeWrite (s : State) (st off len : Nat) : State :=
  let step := fun (s : State) (w : Nat × Nat) =>
    if off ≤ w.1 * 64 ∧ w.1 * 64 + 64 ≤ off + len then s.setMark st w.1 0
    else s.readMarked st { src := 0 } w
  ((s.marked st off len).foldl step s).injectWrite st off len

/-- The words of a byte range written poisoned (R65). -/
def State.storePoison (s : State) (st off len : Nat) : State :=
  if len = 0 then s
  else (List.range ((off + len - 1) / 64 - off / 64 + 1)).foldl (fun s i => s.setMark st (off / 64 + i) 0xFF) s

/-! ## The landing store as bytes (R59) -/

/-- Bytes written to the landing store. -/
def State.landingWrite (s : State) (a : Nat) (l : List Byte) : State :=
  { s with landing := Tab.writeBytes 0 s.landing a l }.storeWrite landingNo a l.length

/-! ## Resolved locations (R414, R541) -/

/-- Bytes read at a location: the response status (0 OK, 1 access, 2 poison), the bytes, and the state after a store's reports. -/
def State.readLoc (s : State) (l : Loc) (n : Nat) : Nat × List Byte × State :=
  match l with
  | .noc a => (s.memBad a n, s.memRead a n, s)
  | .landing a =>
    let r := s.storeRead landingNo a n { src := 0, b := 0xFFFF }
    (if r.1 then 2 else 0, s.landingRead a n, r.2)

/-- Bytes written at a location: the response status and the state after. A refused write changes nothing. -/
def State.writeLoc (s : State) (l : Loc) (bytes : List Byte) : Nat × State :=
  match l with
  | .noc a =>
    let b := s.memBad a bytes.length
    if b = 1 then (1, s) else (b, s.memWrite a bytes)
  | .landing a => (0, s.landingWrite a bytes)

/-- The worse of two statuses: a refused access before poison (R541). -/
def worse (a b : Nat) : Nat := if a = 1 ∨ b = 1 then 1 else max a b

/-- n bytes at host address a of host h, read through its windows; an XLT refusal counts and answers status 1 (R414, R541). -/
def State.hostRead (s : State) (h a n : Nat) : Nat × List Byte × State :=
  match s.xlt h a n false with
  | none => (1, [], s.inc Reg.localRefusals 0 1)
  | some l => s.readLoc l n

/-- Bytes written at host address a of host h through its windows, answered in the same way (R414, R541). -/
def State.hostWrite (s : State) (h a : Nat) (bytes : List Byte) : Nat × State :=
  match s.xlt h a bytes.length true with
  | none => (1, s.inc Reg.localRefusals 0 1)
  | some l => s.writeLoc l bytes

end Sys2Proof.Machine
end

