-- ==== Sys2Proof/Machine/Tally.lean ====
section
/-! DEFINITION. TLY: tally values, updates, parity and waits (R320 to R332). -/

set_option Elab.async false

set_option linter.unusedVariables false

namespace Sys2Proof.Machine

/-- The value of a tally (R320). -/
def State.tally (s : State) (t : Nat) : Nat := Tab.get 0 s.tallies t

/-- Whether a value satisfies a threshold (R321). -/
def tallySat (v thr : Nat) : Bool := decide ((v + 2 ^ 48 - thr % 2 ^ 48) % 2 ^ 48 < 2 ^ 47)

/-- Whether a tally satisfies a threshold now; a poisoned one satisfies none (R321, R330). -/
def State.tallyMeets (s : State) (t thr : Nat) : Bool := !s.tallyBad.contains t && tallySat (s.tally t) thr

/-- The end of one waiter of a poisoned tally: its command ends with POISON (R67, R330). -/
def State.poisonWaiter (s : State) (w : TWait) : State :=
  match w.who with
  | .command u => s.makeReady u 0x18
  | .context x _ => match s.ctx x with
    | some c => match c.cmd with
      | some u => s.endCommand u 0x18 2
      | none => s
    | none => s

/-- TLY's parity check of a tally it touches: a bad one is reported, poisoned, and ends its waits (R330). -/
def State.tallyCheck (s : State) (t : Nat) : State :=
  if s.tallyFlip.contains t then
    let s := { s with tallyFlip := s.tallyFlip.filter (· != t), tallyBad := t :: s.tallyBad }
    let s := (s.inc Reg.tallyParityErrors 0 1).raise { src := 0x0A01, a := t }
    let ws := (s.watchTable ++ s.pollList).filter (·.tally == t)
    let s := { s with watchTable := s.watchTable.filter (·.tally != t), pollList := s.pollList.filter (·.tally != t) }
    ws.foldl State.poisonWaiter s
  else s

/-- The waits of the watch table that a tally's new value satisfies are hit (R327). -/
def State.hitWaits (s : State) (t : Nat) : State :=
  let v := s.tally t
  { s with watchTable := s.watchTable.map fun w =>
      if w.tally = t ∧ tallySat v w.thresh then { w with hit := true } else w }

/-- An armed tally injection takes hold at the next update of its tally (R479). -/
def State.tallyInject (s : State) (t : Nat) : State :=
  match s.inject with
  | none => s
  | some j =>
    if j.source = 0x0A01 ∧ j.word = t then
      { (s.injected 0x0A01) with tallyFlip := t :: s.tallyFlip }
    else s

/-- A tally's new value stored, and its waits tested (R325, R327). -/
def State.tallyStore (s : State) (t v : Nat) : State :=
  (({ s with tallies := Tab.set 0 s.tallies t (v % 2 ^ 48) }.inc Reg.tallyUpdates 0 1).tallyInject t).hitWaits t

/-- An add; a poisoned tally drops it, and TLY applies none in Fatal pending (R320, R330, R476). -/
def State.tallyAdd (s : State) (t n : Nat) : State :=
  if s.fatal then s
  else
    let s := s.tallyCheck t
    if s.tallyBad.contains t then s else s.tallyStore t (s.tally t + n)

/-- A set; it clears a poison (R320, R330). -/
def State.tallySet (s : State) (t v : Nat) : State :=
  if s.fatal then s
  else
    { s with tallyBad := s.tallyBad.filter (· != t), tallyFlip := s.tallyFlip.filter (· != t) }.tallyStore t v

/-- An increment made for a command of a context at a heat, issued only while that heat is current and the context not killed (R331, R474). -/
def State.tallyCredit (s : State) (x heat t n : Nat) : State :=
  if s.credits x heat then s.tallyAdd t n else s

/-- A wait made: it takes a watch table entry, or goes on the poll list when the table of 4,096 is full (R326, R327). -/
def State.makeWait (s : State) (w : TWait) : State :=
  if s.watchTable.length < 4096 then { s with watchTable := s.watchTable ++ [w] }
  else { s with pollList := s.pollList ++ [w] }.inc Reg.polledWaits 0 1

/-- Waits of the poll list move into the table while entries are free (R327). -/
def State.fillTable (s : State) : State :=
  let room := 4096 - s.watchTable.length
  { s with
    watchTable := s.watchTable ++ (s.pollList.take room).map fun w => { w with hit := s.tallyMeets w.tally w.thresh }
    pollList := s.pollList.drop room }

end Sys2Proof.Machine
end

