-- ==== Sys2Proof/Machine/Sched.lean ====
section
/-! DEFINITION. The context scheduler: residency, run order, take and abort, holds at a rest point (R113, R184, R382, R434 to R446). -/

set_option Elab.async false

set_option linter.unusedVariables false

namespace Sys2Proof.Machine

/-! ## Run order (R439) -/

/-- Whether a deadline of one command comes before another's: one with DeadlineEnable first, then the earlier tick. -/
def deadlineBefore (a b : Option Word512) : Option Bool :=
  match a, b with
  | some x, some y =>
    if hDeadlineEnable x && hDeadlineEnable y then
      (if hDeadline x = hDeadline y then none else some (decide (tickDiff (hDeadline x) (hDeadline y) < 0)))
    else if hDeadlineEnable x then some true
    else if hDeadlineEnable y then some false
    else none
  | some _, none => some true
  | none, some _ => some false
  | none, none => none

/-- Whether context a runs before context b (R439). -/
def State.runsBefore (s : State) (a b : Nat × Ctx) : Bool :=
  let ka := s.agedClass a.1 a.2
  let kb := s.agedClass b.1 b.2
  if ka ≠ kb then decide (ka < kb)
  else
    match deadlineBefore ((s.workOf a.1 a.2).map (·.2.header)) ((s.workOf b.1 b.2).map (·.2.header)) with
    | some r => r
    | none =>
      if a.2.readyTick ≠ b.2.readyTick then decide (tickDiff a.2.readyTick b.2.readyTick < 0)
      else decide (a.1 < b.1)

/-! ## Take and abort (R444 to R446) -/

/-- An aborted command's DISPATCH: what SCU, SEL and SRT held of it is discarded, and its step record stays (R446, R447). -/
def Disp.abort (d : Disp) : Disp :=
  { d with phase := 3, rowState := [], used := [], groups := [], bins := [], deferred := 0, armed := false, scoreDone := false }

/-- The Running or Holding context v stopped for replay, context x the winner (R446). -/
def State.abortForReplay (s : State) (v x : Nat) : State :=
  match s.ctx v with
  | none => s
  | some c =>
    match c.cmd with
    | none => s
    | some u =>
      let s := s.dropWaits v
      let s := s.clearScratch c.seq
      let s := s.modDisp u Disp.abort
      let s := { s with pourQueue := s.pourQueue.filter (· != u) }
      let s := s.modBlock v fun b => if b.uid = u ∧ b.state = 0 then { b with state := 3 } else b
      let s := s.modCtx v fun c => { (c.runnable s.tick) with
        rest := none, hold := 0, take := false, watchdog := false, replayPending := true, restart := true
        abortCount := c.abortCount + 1, aborts := satAdd 32 c.aborts 1 }
      (s.trace 1 0x51 v c.heat v x).inc Reg.hostAbortsSuffered c.host 1

/-- Whether x, newly Runnable and resident, aborts v (R445). -/
def State.abortTest (s : State) (x : Nat) (cx : Ctx) (v : Nat) (cv : Ctx) : Bool :=
  match s.workOf x cx, s.workOf v cv with
  | some (_, kx), some (_, kv) =>
    (cv.state == 3 || cv.state == 4) && hClass kx.header == 0 && hDeadlineEnable kx.header &&
      decide (tickDiff (hDeadline kx.header) s.tick < ((s.rd Reg.restWatchdogTicks 0 + cx.estFull : Nat) : Int)) &&
      hClass kv.header != 0 && decide (cv.abortCount < s.rd Reg.abortLimit 0)
  | _, _ => false

/-- What the scheduler does when context x has become Runnable while resident, or its swap-in has ended (R444, R445). -/
def State.contend (s : State) (x : Nat) : State :=
  match s.ctx x with
  | none => s
  | some cx =>
    if cx.residency ≠ 1 ∨ cx.state ≠ 2 then s
    else
      match s.running cx.seq with
      | none => s
      | some (v, cv) =>
        if cv.state = 6 ∨ s.classOf v cv ≤ s.classOf x cx then s
        else if s.abortTest x cx v cv then s.abortForReplay v x
        else if cv.take then s
        else (s.modCtx v fun c => { c with take := true, takes := satAdd 32 c.takes 1 }).inc Reg.hostTakesSuffered cv.host 1

/-- A context made Runnable now, and the scheduler's answer. -/
def State.wakeContext (s : State) (x : Nat) : State := (s.modCtx x fun c => c.runnable s.tick).contend x

/-- A context whose DISPATCH or RUN has been admitted: an Idle one becomes Runnable (R439). -/
def State.offerWork (s : State) (x : Nat) : State :=
  match s.ctx x with
  | none => s
  | some c => if c.state = 1 ∧ c.cmd.isNone then s.wakeContext x else s

/-! ## Holds (R113, R184, R372) -/

/-- Whether a DISPATCH has its dispatch pour closed: the closes of every half are handed over (R185). -/
def Disp.pourClosed (d : Disp) : Bool := bit d.closed 0 && (d.splitAt == d.rows || bit d.closed 1)

/-- Whether a DISPATCH's SCORE or its pour still holds its context on the sequencer (R113, R184). -/
def Disp.holds (d : Disp) : Bool := !(d.phase == 2) || (d.armed && !d.pourClosed)

/-- Whether the command of a context still holds it on its sequencer. -/
def State.held (s : State) (c : Ctx) : Bool :=
  match c.cmd with
  | none => false
  | some u => match s.disp u with
    | none => false
    | some d => d.holds

/-- A context at its rest point or end leaves its sequencer once nothing holds it: Runnable when its wait is over, otherwise Blocked. -/
def State.leaveIfFree (s : State) (x : Nat) : State :=
  match s.ctx x with
  | none => s
  | some c =>
    if c.state ≠ 4 ∨ s.held c then s
    else if c.hold = 1 ∧ c.rest.isNone then
      (s.modCtx x fun c => { (c.runnable s.tick) with hold := 0, take := false })
    else
      let s := if c.hold = 1 then s.inc Reg.restsBlocked c.seq 1 else s
      s.modCtx x fun c => { c with state := 5, restTick := s.tick, hold := 0, take := false }

/-- What ends of SCORE or pour hand-over mean for the command's context. -/
def State.endHold (s : State) (uid : Nat) : State :=
  match s.cmd uid with
  | none => s
  | some k => match s.ctx k.ctx with
    | none => s
    | some c => if c.cmd = some uid then s.leaveIfFree k.ctx else s

/-! ## Entries (R441 to R443) -/

/-- The 64 entries in order. -/
def entries : List Nat := List.range 64

/-- The context resident at an entry. -/
def State.atEntry (s : State) (e : Nat) : Option (Nat × Ctx) :=
  s.ctxs.find? fun p => p.2.residency == 1 && p.2.place == e

/-- Resident contexts of a host (0x0230.07). -/
def State.residentOf (s : State) (h : Nat) : Nat :=
  (s.ctxs.filter fun p => p.2.residency == 1 && p.2.host == h).length

/-- Resident contexts of a sequencer that meet a test. -/
def State.residentOn (s : State) (n : Nat) (p : Ctx → Bool) : Nat :=
  (s.ctxs.filter fun q => q.2.residency == 1 && q.2.seq == n && p q.2).length

/-- The group of R441 that an entry falls in for a context of class k: 0 free, 1 Idle, 2 Blocked, 3 Runnable and worse. -/
def State.entryGroup (s : State) (k e : Nat) : Option Nat :=
  match s.atEntry e with
  | none => some 0
  | some (y, c) =>
    if c.state = 1 then some 1
    else if c.state = 5 then some 2
    else if c.state = 2 ∧ k < s.agedClass y c then some 3
    else none

/-- The group's own order on two entries; none on a tie (R441). -/
def State.entryBefore (s : State) (g e f : Nat) : Option Bool :=
  match s.atEntry e, s.atEntry f with
  | some (y, c), some (z, d) =>
    let ky := s.agedClass y c
    let kz := s.agedClass z d
    if g = 1 then (if c.restTick = d.restTick then none else some (decide (tickDiff c.restTick d.restTick < 0)))
    else if ky ≠ kz then some (decide (kz < ky))
    else if g = 2 then (if c.restTick = d.restTick then none else some (decide (tickDiff c.restTick d.restTick < 0)))
    else (if c.readyTick = d.readyTick then none else some (decide (tickDiff d.readyTick c.readyTick < 0)))
  | _, _ => none

/-- The entry for context x (R441). -/
def State.chooseEntry (s : State) (x : Nat) (c : Ctx) : Option Nat :=
  let full := decide (s.rd Reg.residentQuota c.host ≤ s.residentOf c.host)
  let pool := if full then entries.filter fun e => match s.atEntry e with
      | some (_, d) => d.host == c.host
      | none => false
    else entries
  let k := s.agedClass x c
  let spread := fun e => s.residentOn (e / 16) fun d => d.affinity == c.affinity
  let before := fun (g e f : Nat) =>
    match s.entryBefore g e f with
    | some r => r
    | none =>
      if spread e ≠ spread f then decide (spread e < spread f)
      else
        let ne := s.residentOn (e / 16) fun _ => true
        let nf := s.residentOn (f / 16) fun _ => true
        if ne ≠ nf then decide (ne < nf) else decide (e < f)
  (List.range 4).findSome? fun g => bestBy (before g) (pool.filter fun e => s.entryGroup k e == some g)

/-- A swap-out by the scheduler: the image is written to the context cache's words (R435). -/
def State.swapOut (s : State) (x : Nat) : State :=
  let s := s.leaveEntry x
  match s.ctx x with
  | none => s
  | some c => if c.residency = 2 then s.storeWrite ctxCacheNo (512 * c.place) 512 else s

/-- The image of a context read for a swap-in: whether it is good, and the state after the store's reports (R436). -/
def State.readImage (s : State) (x : Nat) (c : Ctx) : Bool × State :=
  let who := s.ctxOf x
  if c.residency = 2 then
    let bad := (s.marked ctxCacheNo (512 * c.place) 512).any fun w => badMask w.2
    let r := s.storeRead ctxCacheNo (512 * c.place) 512 { src := 0, ctx := who.1, host := who.2, status := 0x17 }
    (!bad, r.2)
  else
    match s.imageAddr x with
    | none => (false, s)
    | some a => (s.memBad a 512 == 0 && imageGood (s.memRead a 512), s)

/-- Context x swapped into an entry, its victim swapped out first; a bad image kills it (R436, R441). -/
def State.swapIn (s : State) (x e : Nat) : State :=
  let s := match s.atEntry e with
    | some (y, _) => s.swapOut y
    | none => s
  match s.ctx x with
  | none => s
  | some c =>
    let r := s.readImage x c
    if r.1 then
      let s := r.2.modCtx x fun c => { c with residency := 1, place := e, swapIns := satAdd 32 c.swapIns 1 }
      ((s.trace 1 0x50 x c.heat x e).inc Reg.hostSwapIns c.host 1).contend x
    else if c.residency = 2 then r.2
    else
      let crc := match s.imageAddr x with
        | some a => leAt (s.memRead a 512) 0x1D8 4
        | none => 0
      let who := s.ctxOf x
      r.2.raise { src := 0x0106, ctx := who.1, host := who.2, status := 0x17, a := 512 * x, b := crc }

/-- The Runnable contexts that are not resident, in the order the scheduler serves them (R443). -/
def State.waiting (s : State) : List (Nat × Ctx) :=
  sortBy s.runsBefore (s.ctxs.filter fun p => p.2.state == 2 && p.2.residency != 1)

end Sys2Proof.Machine
end

