-- ==== Sys2Proof/Machine/Operands.lean ====
section
/-! DEFINITION. The instruction word and its slots as fields, both ways, and the address spaces of pattern operands (R366, R369). -/

set_option Elab.async false

set_option linter.unusedVariables false

namespace Sys2Proof.Machine

/-- A scalar slot (12, Scalar slot). -/
structure ScalarSlot where
  guard : Nat
  op : Nat
  rd : Nat
  ra : Nat
  rb : Nat
  pd : Nat
  rsvd : Nat
  imm : Nat
deriving DecidableEq, Repr

/-- The control slot. -/
structure ControlSlot where
  guard : Nat
  cop : Nat
  target : Nat
  tallyA : Nat
  threshA : Nat
  tallyB : Nat
  threshB : Nat
  combine : Nat
  rsvd : Nat
deriving DecidableEq, Repr

/-- The TALLY slot. -/
structure TallySlot where
  guard : Nat
  op : Nat
  tallyReg : Nat
  valueReg : Nat
  rsvd : Nat
  imm : Nat
deriving DecidableEq, Repr

/-- The STITCH slot. -/
structure StitchSlot where
  guard : Nat
  op : Nat
  reg : Nat
  rsvd : Nat
deriving DecidableEq, Repr

/-- The COPY slot. -/
structure CopySlot where
  guard : Nat
  op : Nat
  descReg : Nat
  countM1 : Nat
  doneEnable : Nat
  doneReg : Nat
  rsvd : Nat
deriving DecidableEq, Repr

/-- The POUR slot and the SCORE slot, of one layout: guard, op, tally enable and register. -/
structure ArmSlot where
  guard : Nat
  op : Nat
  tallyEnable : Nat
  tallyReg : Nat
  rsvd : Nat
deriving DecidableEq, Repr

/-- The SELECT slot. -/
structure SelectSlot where
  guard : Nat
  op : Nat
  level : Nat
  rsvd : Nat
deriving DecidableEq, Repr

/-- An instruction word by its slots (R366). -/
structure PWord where
  control : ControlSlot
  a : ScalarSlot
  b : ScalarSlot
  tally : TallySlot
  stitch : StitchSlot
  copy : CopySlot
  pour : ArmSlot
  score : ArmSlot
  select : SelectSlot
deriving DecidableEq, Repr

def decodeScalar (x : Nat) : ScalarSlot :=
  { guard := bits x 63 59, op := bits x 58 52, rd := bits x 51 47, ra := bits x 46 42, rb := bits x 41 37
    pd := bits x 36 34, rsvd := bits x 33 32, imm := bits x 31 0 }

def encodeScalar (s : ScalarSlot) : Nat :=
  s.guard * 2 ^ 59 + s.op * 2 ^ 52 + s.rd * 2 ^ 47 + s.ra * 2 ^ 42 + s.rb * 2 ^ 37 + s.pd * 2 ^ 34 + s.rsvd * 2 ^ 32 + s.imm

def decodeControl (x : Nat) : ControlSlot :=
  { guard := bits x 63 59, cop := bits x 58 55, target := bits x 54 41, tallyA := bits x 40 36, threshA := bits x 35 31
    tallyB := bits x 30 26, threshB := bits x 25 21, combine := bits x 20 19, rsvd := bits x 18 0 }

def encodeControl (s : ControlSlot) : Nat :=
  s.guard * 2 ^ 59 + s.cop * 2 ^ 55 + s.target * 2 ^ 41 + s.tallyA * 2 ^ 36 + s.threshA * 2 ^ 31 + s.tallyB * 2 ^ 26 +
    s.threshB * 2 ^ 21 + s.combine * 2 ^ 19 + s.rsvd

def decodeTallySlot (x : Nat) : TallySlot :=
  { guard := bits x 63 59, op := bits x 58 56, tallyReg := bits x 55 51, valueReg := bits x 50 46, rsvd := bits x 45 32
    imm := bits x 31 0 }

def encodeTallySlot (s : TallySlot) : Nat :=
  s.guard * 2 ^ 59 + s.op * 2 ^ 56 + s.tallyReg * 2 ^ 51 + s.valueReg * 2 ^ 46 + s.rsvd * 2 ^ 32 + s.imm

def decodeStitchSlot (x : Nat) : StitchSlot :=
  { guard := bits x 63 59, op := bits x 58 56, reg := bits x 55 51, rsvd := bits x 50 0 }

def encodeStitchSlot (s : StitchSlot) : Nat := s.guard * 2 ^ 59 + s.op * 2 ^ 56 + s.reg * 2 ^ 51 + s.rsvd

def decodeCopySlot (x : Nat) : CopySlot :=
  { guard := bits x 63 59, op := bits x 58 56, descReg := bits x 55 51, countM1 := bits x 50 43
    doneEnable := bits x 42 42, doneReg := bits x 41 37, rsvd := bits x 36 0 }

def encodeCopySlot (s : CopySlot) : Nat :=
  s.guard * 2 ^ 59 + s.op * 2 ^ 56 + s.descReg * 2 ^ 51 + s.countM1 * 2 ^ 43 + s.doneEnable * 2 ^ 42 + s.doneReg * 2 ^ 37 + s.rsvd

def decodeArm (x : Nat) : ArmSlot :=
  { guard := bits x 47 43, op := bits x 42 40, tallyEnable := bits x 39 39, tallyReg := bits x 38 34, rsvd := bits x 33 0 }

def encodeArm (s : ArmSlot) : Nat :=
  s.guard * 2 ^ 43 + s.op * 2 ^ 40 + s.tallyEnable * 2 ^ 39 + s.tallyReg * 2 ^ 34 + s.rsvd

def decodeSelect (x : Nat) : SelectSlot :=
  { guard := bits x 31 27, op := bits x 26 24, level := bits x 23 22, rsvd := bits x 21 0 }

def encodeSelect (s : SelectSlot) : Nat := s.guard * 2 ^ 27 + s.op * 2 ^ 24 + s.level * 2 ^ 22 + s.rsvd

/-- The slots of a 512-bit word (R366). -/
def decodeWord (w : Word512) : PWord :=
  { control := decodeControl (fld w 511 448), a := decodeScalar (fld w 447 384), b := decodeScalar (fld w 383 320)
    tally := decodeTallySlot (fld w 319 256), stitch := decodeStitchSlot (fld w 255 192), copy := decodeCopySlot (fld w 191 128)
    pour := decodeArm (fld w 127 80), score := decodeArm (fld w 79 32), select := decodeSelect (fld w 31 0) }

/-- The 512-bit word of the slots. -/
def encodeWord (p : PWord) : Word512 :=
  BitVec.ofNat 512 (encodeControl p.control * 2 ^ 448 + encodeScalar p.a * 2 ^ 384 + encodeScalar p.b * 2 ^ 320 +
    encodeTallySlot p.tally * 2 ^ 256 + encodeStitchSlot p.stitch * 2 ^ 192 + encodeCopySlot p.copy * 2 ^ 128 +
    encodeArm p.pour * 2 ^ 80 + encodeArm p.score * 2 ^ 32 + encodeSelect p.select)

/-! ## Guards (R366) -/

/-- Whether a guard is defined. -/
def guardDefined (g : Nat) : Bool := g == 0 || g == 1 || decide (0x10 ≤ g)

/-- Whether a slot with this guard executes under predicates p0 to p7. -/
def guardTrue (g preds : Nat) : Bool :=
  if g = 1 then true
  else if 0x18 ≤ g then !bit preds (g - 0x18)
  else if 0x10 ≤ g then bit preds (g - 0x10)
  else false

/-! ## Immediates -/

def sextImm (imm : Nat) : Word64 := BitVec.ofInt 64 (toSigned 32 imm)
def zextImm (imm : Nat) : Word64 := BitVec.ofNat 64 imm

/-! ## Address spaces (R369) -/

/-- Where a pattern address points. -/
inductive Place where
  | mem (a : Nat)
  | scratch (off : Nat)
  | payload (off : Nat)
  | result (off : Nat)
deriving DecidableEq, Repr

/-- The place of an n-byte access at a 64-bit pattern address, or none where it breaks its space's rule. -/
def placeOf (run : Bool) (payloadBytes resultBytes : Nat) (write : Bool) (a n : Nat) : Option Place :=
  let r := bits a 61 0
  match bits a 63 62 with
  | 0 => some (.mem r)
  | 1 => if run && r < 2 ^ 20 && r + n ≤ 2 ^ 20 then some (.scratch r) else none
  | 2 => if !write && r < 2 ^ 22 && r < payloadBytes && (n ≤ 8 || r + n ≤ payloadBytes) then some (.payload r) else none
  | _ => if run && r < 2 ^ 22 && r + n ≤ resultBytes then some (.result r) else none

end Sys2Proof.Machine
end

