-- ==== Sys2Proof/Machine/Flags.lean ====
section
/-! DEFINITION. The scalar and predicate operations of the pattern instruction set (R367). -/

set_option Elab.async false

set_option linter.unusedVariables false

namespace Sys2Proof.Machine

/-- The value a register-writing scalar operation gives; none for the other operations. RDS, LDT and LDM take theirs from `special`. -/
def scalarValue (op : Nat) (ga gb : Word64) (imm : Nat) (special : Word64) : Option Word64 :=
  match op with
  | 0x01 => some (ga + gb)
  | 0x02 => some (ga - gb)
  | 0x03 => some (ga &&& gb)
  | 0x04 => some (ga ||| gb)
  | 0x05 => some (ga ^^^ gb)
  | 0x06 => some (ga <<< (gb.toNat % 64))
  | 0x07 => some (ga >>> (gb.toNat % 64))
  | 0x08 => some (ga.sshiftRight (gb.toNat % 64))
  | 0x09 => some (ga * gb)
  | 0x0A => some (if ga.toNat ≤ gb.toNat then ga else gb)
  | 0x0B => some (if ga.toNat ≤ gb.toNat then gb else ga)
  | 0x10 => some (ga + sextImm imm)
  | 0x11 => some (ga &&& sextImm imm)
  | 0x12 => some (ga ||| zextImm imm)
  | 0x13 => some (ga <<< (imm % 64))
  | 0x14 => some (ga >>> (imm % 64))
  | 0x15 => some (sextImm imm)
  | 0x16 => some ((zextImm imm <<< 32) ||| (ga &&& 0xFFFFFFFF))
  | 0x17 => some (BitVec.ofNat 64 ((ga.toNat >>> (imm % 64)) % 2 ^ bits imm 14 8))
  | 0x30 => some special
  | 0x31 => some special
  | 0x38 => some special
  | _ => none

/-- The value a predicate operation gives; none for the other operations. Ra and Rb name predicates for PAND, POR and PNOT. -/
def predValue (op : Nat) (ga gb : Word64) (imm : Nat) (preds ra rb : Nat) : Option Bool :=
  match op with
  | 0x20 => some (ga == gb)
  | 0x21 => some (ga != gb)
  | 0x22 => some (decide (ga.toNat < gb.toNat))
  | 0x23 => some (decide (ga.toInt < gb.toInt))
  | 0x24 => some (ga == sextImm imm)
  | 0x25 => some (decide (ga.toNat < (sextImm imm).toNat))
  | 0x28 => some (bit preds (ra % 8) && bit preds (rb % 8))
  | 0x29 => some (bit preds (ra % 8) || bit preds (rb % 8))
  | 0x2A => some (!bit preds (ra % 8))
  | _ => none

/-- Whether an operation code is defined (12, Scalar operations). -/
def scalarOpDefined (op : Nat) : Bool :=
  (1 ≤ op && op ≤ 0x0B) || (0x10 ≤ op && op ≤ 0x17) || (0x20 ≤ op && op ≤ 0x25) || (0x28 ≤ op && op ≤ 0x2A) ||
    op == 0x30 || op == 0x31 || op == 0x38 || op == 0x39

/-- A register written: g0 discards (R359). -/
def Ctx.setReg (c : Ctx) (n : Nat) (v : Word64) : Ctx :=
  if n = 0 then c else { c with g := Tab.set 0 c.g n v }

/-- A predicate written. -/
def Ctx.setPred (c : Ctx) (n : Nat) (v : Bool) : Ctx :=
  { c with preds := if v then setBit c.preds n else clearBit c.preds n }

end Sys2Proof.Machine
end

