-- ==== Sys2Proof/Machine/Numeric.lean ====
section
/-! DEFINITION. The sixteen number formats, their exact values, rounding to nearest even, MX blocks, and correctly rounded functions (R39 to R48). -/

set_option Elab.async false

namespace Sys2Proof.Machine

/-- The exact value that an encoding stands for: ± m · 2^e, an infinity or a NaN. -/
inductive Val where
  | nan
  | inf (neg : Bool)
  | fin (neg : Bool) (m : Nat) (e : Int)
deriving DecidableEq, Repr

/-- A float format: mantissa bits, least normal exponent, largest finite code, infinity, canonical NaN, sign place (R39, R46). -/
structure FloatFmt where
  mbits : Nat
  emin : Int
  maxCode : Nat
  hasInf : Bool
  nan : Option Nat
  width : Nat
deriving DecidableEq, Repr

def fmtF32 : FloatFmt := ⟨23, -126, 0x7F7FFFFF, true, some 0x7FC00000, 32⟩
def fmtBF16 : FloatFmt := ⟨7, -126, 0x7F7F, true, some 0x7FC0, 16⟩
def fmtF16 : FloatFmt := ⟨10, -14, 0x7BFF, true, some 0x7E00, 16⟩
def fmtE5M2 : FloatFmt := ⟨2, -14, 0x7B, true, some 0x7E, 8⟩
def fmtE4M3 : FloatFmt := ⟨3, -6, 0x7E, false, some 0x7F, 8⟩
def fmtE3M2 : FloatFmt := ⟨2, -2, 0x1F, false, none, 6⟩
def fmtE2M3 : FloatFmt := ⟨3, 0, 0x1F, false, none, 6⟩
def fmtE2M1 : FloatFmt := ⟨1, 0, 0x7, false, none, 4⟩

/-- The float format of a code 0 to 7, or of the elements of an MX code (R39). -/
def floatFmt : Nat → Option FloatFmt
  | 0 => some fmtF32
  | 1 => some fmtBF16
  | 2 => some fmtF16
  | 3 => some fmtE5M2
  | 4 => some fmtE4M3
  | 5 => some fmtE3M2
  | 6 => some fmtE2M3
  | 7 => some fmtE2M1
  | 8 => some fmtE4M3
  | 9 => some fmtE2M3
  | 10 => some fmtE2M1
  | _ => none

/-- Bits per element of a format code (R39). -/
def elemBits : Nat → Nat
  | 0 => 32
  | 1 => 16
  | 2 => 16
  | 3 => 8
  | 4 => 8
  | 5 => 6
  | 6 => 6
  | 7 => 4
  | 8 => 8
  | 9 => 6
  | 10 => 4
  | 11 => 32
  | 12 => 16
  | 13 => 8
  | 14 => 4
  | _ => 8

/-- Whether a format code is an MX format (R41). -/
def isMx (f : Nat) : Bool := f == 8 || f == 9 || f == 10

/-- The largest exponent of the elements of an MX format (R48). -/
def mxEmax (f : Nat) : Int := if f = 8 then 8 else 2

/-! ## Decoding -/

/-- The value of a code in a float format (R39). -/
def decodeFloat (f : FloatFmt) (code : Nat) : Val :=
  let neg := bit code (f.width - 1)
  let mag := code % 2 ^ (f.width - 1)
  if mag ≤ f.maxCode then
    let ex := mag / 2 ^ f.mbits
    let mant := mag % 2 ^ f.mbits
    if ex = 0 then .fin neg mant (f.emin - f.mbits)
    else .fin neg (2 ^ f.mbits + mant) (f.emin - f.mbits + (ex - 1 : Nat))
  else if f.hasInf && mag == f.maxCode + 1 then .inf neg
  else .nan

/-- The value of an integer. -/
def Val.ofInt (x : Int) : Val := .fin (decide (x < 0)) x.natAbs 0

/-- The value of a UE8M0 code (R39). -/
def decodeScale (code : Nat) : Val :=
  if code = 0xFF then .nan else .fin false 1 ((code : Int) - 127)

/-- The value of an element code of a scalar format (codes 0 to 7 and 11 to 15). -/
def decodeElem (f code : Nat) : Val :=
  match floatFmt f with
  | some ff => decodeFloat ff code
  | none => if f = 15 then decodeScale code else Val.ofInt (toSigned (elemBits f) code)

/-- The exact product of two values (IEEE 754 rules for zero, infinity and NaN). -/
def Val.mul : Val → Val → Val
  | .nan, _ => .nan
  | _, .nan => .nan
  | .inf a, .inf b => .inf (a != b)
  | .inf a, .fin b m _ => if m = 0 then .nan else .inf (a != b)
  | .fin a m _, .inf b => if m = 0 then .nan else .inf (a != b)
  | .fin a m e, .fin b n g => .fin (a != b) (m * n) (e + g)

/-- The signed mantissa of a finite value at an exponent not above its own. -/
def alignTo (neg : Bool) (m : Nat) (e target : Int) : Int :=
  let v : Int := ((m * 2 ^ (e - target).toNat : Nat) : Int)
  if neg then -v else v

/-- The exact sum of two values; an exact zero of unlike signs is +0 (R45). -/
def Val.add : Val → Val → Val
  | .nan, _ => .nan
  | _, .nan => .nan
  | .inf a, .inf b => if a = b then .inf a else .nan
  | .inf a, .fin _ _ _ => .inf a
  | .fin _ _ _, .inf b => .inf b
  | .fin a m e, .fin b n g =>
    let t := min e g
    let v := alignTo a m e t + alignTo b n g t
    if v = 0 then .fin (a && b) 0 t else .fin (decide (v < 0)) v.natAbs t

/-- The value with the other sign. -/
def Val.neg : Val → Val
  | .nan => .nan
  | .inf a => .inf (!a)
  | .fin a m e => .fin (!a) m e

/-- The value times a power of two. -/
def Val.scale : Val → Int → Val
  | .nan, _ => .nan
  | .inf a, _ => .inf a
  | .fin a m e, k => .fin a m (e + k)

def Val.isNan : Val → Bool
  | .nan => true
  | _ => false

/-- Not a NaN and not an infinity. -/
def Val.isFinite : Val → Bool
  | .fin _ _ _ => true
  | _ => false

/-- Compare two finite values or infinities: whether the first is below the second. -/
def Val.lt : Val → Val → Bool
  | .nan, _ => false
  | _, .nan => false
  | .inf a, .inf b => a && !b
  | .inf a, .fin _ _ _ => a
  | .fin _ _ _, .inf b => !b
  | .fin a m e, .fin b n g =>
    let t := min e g
    decide (alignTo a m e t < alignTo b n g t)

/-- Equal as numbers. -/
def Val.numEq : Val → Val → Bool
  | .nan, _ => false
  | _, .nan => false
  | .inf a, .inf b => a == b
  | .inf _, .fin _ _ _ => false
  | .fin _ _ _, .inf _ => false
  | .fin a m e, .fin b n g =>
    let t := min e g
    decide (alignTo a m e t = alignTo b n g t)

def Val.abs : Val → Val
  | .nan => .nan
  | .inf _ => .inf false
  | .fin _ m e => .fin false m e

def Val.zero : Val := .fin false 0 0

/-! ## Rounding -/

/-- num / den rounded to the nearest integer, ties to even (R43). -/
def divRne (num den : Nat) : Nat :=
  let q := num / den
  let r := num % den
  if 2 * r > den then q + 1
  else if 2 * r = den then (if q % 2 = 1 then q + 1 else q)
  else q

/-- The code of the magnitude (num / den) · 2^e in a float format, rounded, saturated or infinite (R43, R44). -/
def encodeMag (f : FloatFmt) (num den : Nat) (e : Int) : Nat :=
  if num = 0 then 0
  else
    let k0 : Int := (Nat.log2 num : Int) - (Nat.log2 den : Int)
    -- num/den lies in [2^(k0-1), 2^(k0+1))
    let below : Bool :=
      if 0 ≤ k0 then decide (num < den * 2 ^ k0.toNat)
      else decide (num * 2 ^ (-k0).toNat < den)
    let k : Int := (if below then k0 - 1 else k0) + e
    let kk := max k f.emin
    let q := kk - f.mbits
    let sh := e - q
    let mant := if 0 ≤ sh then divRne (num * 2 ^ sh.toNat) den else divRne num (den * 2 ^ (-sh).toNat)
    let code := (kk - f.emin).toNat * 2 ^ f.mbits + mant
    if code ≤ f.maxCode then code
    else if f.hasInf then f.maxCode + 1 else f.maxCode

/-- The code of a value in a float format (R43 to R46). -/
def encodeFloat (f : FloatFmt) : Val → Nat
  | .nan => f.nan.getD 0
  | .inf a => b2n a * 2 ^ (f.width - 1) + (if f.hasInf then f.maxCode + 1 else f.maxCode)
  | .fin a m e => b2n a * 2 ^ (f.width - 1) + encodeMag f m 1 e

/-- A finite value rounded to an integer, ties to even (R47). -/
def roundInt (neg : Bool) (m : Nat) (e : Int) : Int :=
  let v := if 0 ≤ e then m * 2 ^ e.toNat else divRne m (2 ^ (-e).toNat)
  if neg then -(v : Int) else (v : Int)

/-- The code of a value in an integer format of w bits, rounded and saturated; a NaN gives 0 (R46, R47). -/
def encodeInt (w : Nat) : Val → Nat
  | .nan => 0
  | .inf a => if a then 2 ^ (w - 1) else 2 ^ (w - 1) - 1
  | .fin a m e =>
    ofSigned w (clampInt (-((2 ^ (w - 1) : Nat) : Int)) (((2 ^ (w - 1) - 1 : Nat)) : Int) (roundInt a m e))

/-- The code of a value in a scalar format (R43 to R47). -/
def encodeElem (f : Nat) (v : Val) : Nat :=
  match floatFmt f with
  | some ff => encodeFloat ff v
  | none => encodeInt (elemBits f) v

/-- A value rounded to FP32, as a code. -/
def roundF32 (v : Val) : Nat := encodeFloat fmtF32 v

/-- The value of an FP32 code. -/
def valF32 (c : Nat) : Val := decodeFloat fmtF32 c

/-- FP32 fused multiply-add, rounded once. -/
def fmaF32 (a b c : Nat) : Nat := roundF32 ((valF32 a).mul (valF32 b) |>.add (valF32 c))

/-- FP32 addition, rounded once. -/
def addF32 (a b : Nat) : Nat := roundF32 ((valF32 a).add (valF32 b))

/-- FP32 multiplication, rounded once. -/
def mulF32 (a b : Nat) : Nat := roundF32 ((valF32 a).mul (valF32 b))

/-- FP32 quotient of two finite values, the divisor not zero, rounded once; 0 / 0 is NaN and x / 0 infinite. -/
def divF32 (a b : Nat) : Nat :=
  match valF32 a, valF32 b with
  | .fin s m e, .fin t n g =>
    if n = 0 then (if m = 0 then 0x7FC00000 else b2n (s != t) * 2 ^ 31 + 0x7F800000)
    else b2n (s != t) * 2 ^ 31 + encodeMag fmtF32 m n (e - g)
  | .inf s, .fin t _ _ => b2n (s != t) * 2 ^ 31 + 0x7F800000
  | .fin s _ _, .inf t => b2n (s != t) * 2 ^ 31
  | _, _ => 0x7FC00000

/-- A key by which FP32 codes that are no NaN sort as their values do, −0 and +0 alike. -/
def f32Key (c : Nat) : Int :=
  if bit c 31 then -((c % 2 ^ 31 : Nat) : Int) else ((c : Nat) : Int)

/-! ## Bit streams and vectors (R40, R41) -/

/-- The element codes of a packed stream (R40). -/
def unpackElems (w n : Nat) (l : List Byte) : List Nat :=
  let x := leNat (l.take (ceilDiv (n * w) 8))
  (List.range n).map fun i => bits x (w * i + w - 1) (w * i)

/-- The number of packed element codes, the first lowest. -/
def packNat (w : Nat) : List Nat → Nat
  | [] => 0
  | c :: cs => c % 2 ^ w + 2 ^ w * packNat w cs

/-- The packed stream of element codes (R40). -/
def packElems (w : Nat) (l : List Nat) : List Byte :=
  leBytes (ceilDiv (l.length * w) 8) (packNat w l)

/-- Bytes of one vector of d elements before padding: element plane, and scale plane for MX (R41). -/
def vecBytes (f d : Nat) : Nat := ceilDiv (d * elemBits f) 8 + (if isMx f then d / 32 else 0)

/-- Bytes of one vector of d elements: an MX vector is padded to a multiple of 64 bytes (R41). -/
def vecPadded (f d : Nat) : Nat := if isMx f then roundUp (vecBytes f d) 64 else vecBytes f d

/-- The values of a vector of d elements (R40, R41, R48). -/
def decodeVec (f d : Nat) (l : List Byte) : List Val :=
  let codes := unpackElems (elemBits f) d l
  if isMx f then
    let plane := ceilDiv (d * elemBits f) 8
    codes.zipIdx.map fun (c, i) =>
      let sc := (l.getD (plane + i / 32) 0).toNat
      if sc = 0xFF then .nan else (decodeElem f c).scale ((sc : Int) - 127)
  else codes.map (decodeElem f)

/-- ⌊log2⌋ of a finite magnitude above zero. -/
def Val.log2 : Val → Int
  | .fin _ m e => (Nat.log2 m : Int) + e
  | _ => 0

/-- The greatest magnitude of finite values. -/
def maxMag : List Val → Val
  | [] => Val.zero
  | v :: vs => let m := maxMag vs; if m.lt v.abs then v.abs else m

/-- One MX block of 32 values: its scale code and element codes (R48). -/
def encodeMxBlock (f : Nat) (vs : List Val) : Nat × List Nat :=
  if vs.any (fun v => !v.isFinite) then (0xFF, vs.map fun _ => 0)
  else
    let m := maxMag vs
    if m.numEq Val.zero then (0x7F, vs.map (encodeElem f))
    else
      let x := clampInt (-127) 127 (m.log2 - mxEmax f)
      ((x + 127).toNat, vs.map fun v => encodeElem f (v.scale (-x)))

/-- A list cut into runs of n elements, at most fuel of them. -/
def chunks {α : Type} (n : Nat) : Nat → List α → List (List α)
  | 0, _ => []
  | fuel + 1, l => if l.isEmpty then [] else l.take n :: chunks n fuel (l.drop n)

/-- The bytes of a vector of values in a format, an MX vector padded to 64 bytes (R41, R43 to R48). -/
def encodeVec (f : Nat) (vs : List Val) : List Byte :=
  if isMx f then
    let blocks := (chunks 32 vs.length vs).map (encodeMxBlock f)
    let body := packElems (elemBits f) (blocks.flatMap (·.2)) ++ blocks.map (fun b => BitVec.ofNat 8 b.1)
    slice body 0 (vecPadded f vs.length)
  else packElems (elemBits f) (vs.map (encodeElem f))

/-- The number of NaN values converted (R46). -/
def countNan (vs : List Val) : Nat := (vs.filter Val.isNan).length

/-! ## Correctly rounded exponential and sigmoid -/

/-- Partial sums of e^y from below: y < 1 in units of 2^-p, rounding down. -/
def expSeriesLo (p y : Nat) : Nat → Nat → Nat → Nat → Nat
  | 0, _, _, acc => acc
  | fuel + 1, n, term, acc =>
    let t := term * y / (2 ^ p * n)
    expSeriesLo p y fuel (n + 1) t (acc + t)

/-- Partial sums of e^y from above: y < 1 in units of 2^-p, rounding up. -/
def expSeriesHi (p y : Nat) : Nat → Nat → Nat → Nat → Nat
  | 0, _, _, acc => acc + 1
  | fuel + 1, n, term, acc =>
    let t := term * y / (2 ^ p * n) + 1
    expSeriesHi p y fuel (n + 1) t (acc + t)

/-- Squares of a number in units of 2^-p, rounding down. -/
def sqLo (p : Nat) : Nat → Nat → Nat
  | 0, x => x
  | n + 1, x => sqLo p n (x * x / 2 ^ p)

/-- Squares of a number in units of 2^-p, rounding up. -/
def sqHi (p : Nat) : Nat → Nat → Nat
  | 0, x => x
  | n + 1, x => sqHi p n (x * x / 2 ^ p + 1)

/-- Bounds of e^(m · 2^e), for an argument below 128, in units of 2^-p. -/
def expBounds (p m : Nat) (e : Int) : Nat × Nat :=
  let sh : Int := e + p - 7
  let ylo := if 0 ≤ sh then m * 2 ^ sh.toNat else m / 2 ^ (-sh).toNat
  let yhi := if 0 ≤ sh then ylo else ylo + 1
  (sqLo p 7 (expSeriesLo p ylo 80 1 (2 ^ p) (2 ^ p)),
   sqHi p 7 (expSeriesHi p yhi 80 1 (2 ^ p) (2 ^ p)))

/-- FP32 code of e^−x for a magnitude x = m · 2^e, correctly rounded: precision is raised until both bounds round alike. -/
def expNegCode (m : Nat) (e : Int) : List Nat → Nat
  | [] => 0
  | p :: ps =>
    let b := expBounds p m e
    let hi := encodeMag fmtF32 (2 ^ p) b.1 0
    let lo := encodeMag fmtF32 (2 ^ p) b.2 0
    if lo = hi then lo else expNegCode m e ps

/-- FP32 code of e^x for x ≤ 0, correctly rounded (R144). A NaN gives the canonical NaN. -/
def expF32 (c : Nat) : Nat :=
  match valF32 c with
  | .nan => 0x7FC00000
  | .inf a => if a then 0 else 0x7F800000
  | .fin a m e =>
    if m = 0 then 0x3F800000
    else if (Val.fin false 104 0).lt (.fin false m e) then (if a then 0 else 0x7F800000)
    else if a then expNegCode m e [100, 200, 400, 800]
    else 0x7F800000

/-- FP32 code of 1 / (1 + e^±x), correctly rounded: precision is raised until both bounds round alike. -/
def sigmoidCode (neg : Bool) (m : Nat) (e : Int) : List Nat → Nat
  | [] => 0
  | p :: ps =>
    let b := expBounds p m e
    -- E = e^x in [b.1, b.2] / 2^p; for a negative argument 1/(1+E), else E/(1+E)
    let one := 2 ^ p
    let lo := if neg then encodeMag fmtF32 one (one + b.2) 0 else encodeMag fmtF32 b.1 (one + b.1) 0
    let hi := if neg then encodeMag fmtF32 one (one + b.1) 0 else encodeMag fmtF32 b.2 (one + b.2) 0
    if lo = hi then lo else sigmoidCode neg m e ps

/-- FP32 code of the sigmoid of an FP32 value, correctly rounded (R111). -/
def sigmoidF32 (c : Nat) : Nat :=
  match valF32 c with
  | .nan => 0x7FC00000
  | .inf a => if a then 0 else 0x3F800000
  | .fin a m e =>
    if (Val.fin false 104 0).lt (.fin false m e) then (if a then 0 else 0x3F800000)
    else sigmoidCode a m e [100, 200, 400, 800]

/-! ## Square root -/

/-- Newton's iteration for the integer square root, from above. -/
def isqrtIter (n : Nat) : Nat → Nat → Nat
  | 0, x => x
  | fuel + 1, x =>
    let y := (x + n / x) / 2
    if y < x then isqrtIter n fuel y else x

/-- ⌊√n⌋. -/
def isqrt (n : Nat) : Nat := if n = 0 then 0 else isqrtIter n 400 (2 ^ (Nat.log2 n / 2 + 1))

end Sys2Proof.Machine
end

