-- ==== Sys2Proof/Machine/ScoreMath.lean ====
section
/-! DEFINITION. Scores, settlement bounds, the tie rule and gate weights as functions of a row's values (R103 to R121, R135, R141, R143). -/

set_option Elab.async false

set_option linter.unusedVariables false

namespace Sys2Proof.Machine

/-- The array depth d of a key format (04, Array depth). -/
def arrayDepth (f : Nat) : Nat := if f = 1 then 64 else if f = 3 ∨ f = 4 ∨ f = 8 then 128 else 256

/-- The padded key vector size V (R100). -/
def keyVecBytes (f d : Nat) : Nat := roundUp (vecBytes f d) 64

/-- The token values of an input row for a key format (R106). -/
def tokenValues (keyFmt : Nat) (vs : List Val) : List Val :=
  if keyFmt = 1 then vs.map fun v => decodeElem 1 (encodeElem 1 v)
  else (chunks 32 vs.length vs).flatMap fun b =>
    let e := encodeMxBlock 8 b
    e.2.map fun c => if e.1 = 0xFF then .nan else (decodeElem 4 c).scale ((e.1 : Int) - 127)

/-- The sum of products over one chunk, exact (R107). -/
def dotExact : List Val → List Val → Val
  | q :: qs, k :: ks => (q.mul k).add (dotExact qs ks)
  | _, _ => Val.zero

/-- The partials after each chunk, as F32 codes: one rounding per chunk (R107). -/
def partials (d : Nat) (q k : List Val) : Nat → Nat → List Nat
  | 0, _ => []
  | fuel + 1, p =>
    if q.isEmpty then []
    else
      let p' := roundF32 ((valF32 p).add (dotExact (q.take d) (k.take d)))
      p' :: partials d (q.drop d) (k.drop d) fuel p'

/-- The raw score s of a row against a key (R107). -/
def rawScore (d : Nat) (q k : List Val) : Nat := (partials d q k q.length 0).getLastD 0

/-- The square root of an F32 value not below zero, rounded once. -/
def sqrtF32 (c : Nat) : Nat :=
  match valF32 c with
  | .fin _ m e =>
    if m = 0 then c
    else
      let m' := if e % 2 = 0 then m else 2 * m
      let e' := if e % 2 = 0 then e else e - 1
      let x := m' * 2 ^ 60
      let r := isqrt x
      roundF32 (.fin false (2 * r + b2n (decide (r * r ≠ x))) (e' / 2 - 31))
  | _ => c

/-- The remainder norm of the values from an index on (R103, R115). -/
def remainderNorm (vs : List Val) (from_ : Nat) : Nat :=
  sqrtF32 (roundF32 ((vs.drop from_).foldr (fun v acc => (v.mul v).add acc) Val.zero))

/-- The affinity of a scaled score (R108): 0 softmax, 1 sigmoid, 2 identity. -/
def affinityOf (aff z : Nat) : Nat := if aff = 1 then sigmoidF32 z else z

/-- The bias β of an INT16 pattern (R109). -/
def biasVal (p : Nat) : Val := (Val.ofInt (toSigned 16 p)).scale (-10)

/-- The biased score b (R109). -/
def biased (a bias : Nat) : Nat := roundF32 ((valF32 a).add (biasVal bias))

/-- The scores of one candidate: scaled, unbiased and biased. -/
structure Scores where
  expert : Nat
  z : Nat
  a : Nat
  b : Nat
deriving DecidableEq, Repr

/-- The bounds that the remaining chunks leave on one candidate (R115). -/
structure Bounds where
  expert : Nat
  aLo : Nat
  aHi : Nat
  bLo : Nat
  bHi : Nat
  finite : Bool
deriving DecidableEq, Repr

def f32Finite (c : Nat) : Bool := (valF32 c).isFinite
def f32Lt (x y : Nat) : Bool := (valF32 x).lt (valF32 y)
def f32Neg (c : Nat) : Nat := if bit c 31 then c - 2 ^ 31 else c + 2 ^ 31
def f32Abs (c : Nat) : Nat := c % 2 ^ 31
def oneAnd16 : Nat := roundF32 (.fin false (2 ^ 16 + 1) (-16))

/-- The bounds of a candidate after a chunk: r chunks remain, p is the partial, nq and nk the remainder norms (R115). -/
def boundsOf (aff scale r p nq nk bias expert : Nat) : Bounds :=
  let bnd := mulF32 (mulF32 nq nk) oneAnd16
  let marg := mulF32 (addF32 (f32Abs p) bnd) (roundF32 (.fin false (r + 2) (-23)))
  let w := addF32 bnd marg
  let sLo := addF32 p (f32Neg w)
  let sHi := addF32 p w
  let aLo := affinityOf aff (mulF32 sLo scale)
  let aHi := affinityOf aff (mulF32 sHi scale)
  let bLo := biased aLo bias
  let bHi := biased aHi bias
  { expert := expert, aLo := aLo, aHi := aHi, bLo := bLo, bHi := bHi
    finite := [bnd, marg, w, sLo, sHi, aLo, aHi, bLo, bHi].all f32Finite &&
      ((valF32 (f32Abs p)).add (valF32 w)).lt (valF32 0x7F7FFFFF) }

/-- Whether candidate x ranks before candidate y: the tie rule (R135). -/
def ranksBefore (h : Nat) (x y : Scores) : Bool :=
  if !(valF32 x.b).numEq (valF32 y.b) then f32Lt y.b x.b
  else if !(valF32 x.a).numEq (valF32 y.a) then f32Lt y.a x.a
  else decide ((x.expert ^^^ (h % 2 ^ 16)) < (y.expert ^^^ (h % 2 ^ 16)))

/-- The greatest of a list of F32 codes that are no NaN. -/
def f32Max : List Nat → Option Nat
  | [] => none
  | c :: cs => match f32Max cs with
    | none => some c
    | some m => some (if f32Lt m c then c else m)

/-- Whether neighbours of a list are strictly separated: each b_lo above the next b_hi (R116). -/
def separated : List Bounds → Bool
  | x :: y :: t => f32Lt y.bHi x.bLo && separated (y :: t)
  | _ => true

/-- The settlement test of a row after a chunk (R116). -/
def settlesNow (k : Nat) (skip : Bool) (threshold : Nat) (cands : List Bounds) : Bool :=
  let sorted := sortBy (fun x y => f32Lt y.bLo x.bLo) cands
  let n := min k cands.length
  let s := sorted.take n
  let rest := sorted.drop n
  cands.all (·.finite) && separated s &&
    (match s.getLast?, f32Max (rest.map (·.bHi)) with
      | some l, some m => f32Lt m l.bLo
      | none, some _ => false
      | _, none => true) &&
    (!skip || (match f32Max (cands.map (·.aLo)), f32Max (cands.map (·.aHi)) with
      | some lo, some hi => f32Lt lo threshold == f32Lt hi threshold
      | _, _ => true))

/-- Groups ordered by score, the tie broken by group number xor h[7:0]; the first n of them (R120, R141). -/
def bestGroups (h n : Nat) (gs : List (Nat × Nat)) : List Nat :=
  ((sortBy (fun (x y : Nat × Nat) =>
      if !(valF32 x.2).numEq (valF32 y.2) then f32Lt y.2 x.2
      else decide ((x.1 ^^^ (h % 256)) < (y.1 ^^^ (h % 256)))) gs).take n).map (·.1)

/-- The score of one limit group from its candidates in order of b (R141). -/
def groupScore (limitScore : Bool) (bs : List Nat) : Nat :=
  match bs with
  | [] => 0
  | [b] => b
  | b1 :: b2 :: _ => if limitScore then addF32 b1 b2 else b1

/-- The routed weights of the chosen ranks (R143): the z-set in ascending expert id, the chosen in rank order. -/
def gateWeights (aff : Nat) (normalize : Bool) (scale : Nat) (zset chosen : List Scores) : List Nat :=
  let m := (f32Max (zset.map (·.z))).getD 0
  let u := fun (x : Scores) => expF32 (addF32 x.z (f32Neg m))
  let sum := fun (l : List Nat) => l.foldl addF32 0
  let norm := fun (l : List Nat) (t : Nat) => l.map fun x => if (valF32 t).numEq Val.zero then 0 else divF32 x t
  let ws :=
    if aff = 0 then
      (if normalize then norm (chosen.map u) (sum (chosen.map u)) else norm (chosen.map u) (sum (zset.map u)))
    else if aff = 1 ∧ normalize then norm (chosen.map (·.a)) (sum (chosen.map (·.a)))
    else chosen.map (·.a)
  ws.map fun w => mulF32 w scale

end Sys2Proof.Machine
end

