-- ==== Sys2Proof/Machine/Stitch.lean ====
section
/-! DEFINITION. STC: stitch blocks, slots, shared posts, answers, lost ranks and the combine (R298 to R319). -/

set_option Elab.async false

set_option linter.unusedVariables false

namespace Sys2Proof.Machine

/-! ## Sizes and places (R298, R299) -/

/-- A of R298 and S of R86: a packed row rounded up to 64. -/
def rowBytes64 (f h : Nat) : Nat := roundUp (vecBytes f h) 64

/-- Z of R298. -/
def slotBytes (shared k a s : Nat) : Nat := 128 + (shared + k) * a + s

/-- The block size of R298. -/
def blockBytes (t shared k a s : Nat) : Nat := 64 + t * slotBytes shared k a s

def Block.z (b : Block) : Nat := slotBytes b.sharedCount b.topK b.a b.s

/-- The stitch-store byte at which slot t begins. -/
def Block.slotBase (b : Block) (t : Nat) : Nat := b.base + 64 + t * b.z

def Block.slot (b : Block) (t : Nat) : Slot := Tab.get {} b.slots t
def Block.modSlot (b : Block) (t : Nat) (f : Slot → Slot) : Block := { b with slots := Tab.put b.slots t (f (b.slot t)) }

def State.modSlot (s : State) (x t : Nat) (f : Slot → Slot) : State := s.modBlock x fun b => b.modSlot t f

/-- The ranges of the stitch store that blocks hold. -/
def State.stitchUsed (s : State) : List (Nat × Nat) := s.blocks.map fun p => (p.2.base, p.2.bytes)

/-- The lowest free run of the host's stitch ways that holds n bytes, while a directory entry is free (R299). -/
def State.stitchPlace (s : State) (h n : Nat) : Option Nat :=
  if 256 ≤ s.blocks.length then none
  else firstFit (s.rd Reg.stitchWays h) (2 ^ 20) 32 64 n s.stitchUsed

/-- A result row of zeros in a format: an MX vector of zeros carries scale codes 0x7F (R48, R57). -/
def zeroRow (f h s : Nat) : List Byte := slice (encodeVec f (List.replicate h Val.zero)) 0 s

/-- The block opened: padding rows are Written with zeros, every other slot Unsettled (R301). -/
def State.openBlock (s : State) (x : Nat) (b : Block) (sessions : List Nat) : State :=
  let pads := sessions.zipIdx.filterMap fun p => if p.1 = 0xFFFFFFFF then some p.2 else none
  let zero := zeroRow b.resultFmt b.hiddenDim b.s
  let b := { b with
    slots := pads.map fun t => (t, { session := 0xFFFFFFFF, padding := true, state := 4, result := zero })
    rowsWritten := pads.length }
  let s := { s with blocks := Tab.put s.blocks x b }.trace 9 0x40 x b.heat b.base b.rows
  let s := s.storeWrite stitchNo b.base 64
  (s.inc Reg.blocksOpened b.host 1).inc Reg.rowsWritten b.host pads.length

/-! ## Rows becoming Queued (R308) -/

/-- Whether a slot meets every condition to be Queued. -/
def Block.ready (b : Block) (t : Nat) : Bool :=
  let sl := b.slot t
  sl.state == 1 && !sl.padding && (sl.weightsValid || sl.skipped || sl.chosen == 0) &&
    sl.sharedPresent % 2 ^ b.sharedCount == 2 ^ b.sharedCount - 1 && sl.expected == sl.received

/-- A slot that is ready becomes Queued, in running order. -/
def State.tryQueue (s : State) (x t : Nat) : State :=
  match s.block x with
  | none => s
  | some b =>
    if (b.state = 0 ∨ b.state = 3) ∧ b.ready t then
      { (s.modSlot x t fun sl => { sl with state := 2, queuedAt := s.queueSeq }) with queueSeq := s.queueSeq + 1 }
    else s

/-! ## Reservation and weights (R24, R145, R301, R316) -/

/-- What SEL records of a row in its slot. -/
structure Reserve where
  session : Nat
  chosen : Nat
  expected : Nat
  skimmed : Nat
  skipped : Bool
  drag : Bool
  rankDest : Tab Nat

/-- SEL reserves a row's slot; in a replay what it derives is compared with what the slot holds, and a difference ends the DISPATCH (R301, R316). -/
def State.reserveSlot (s : State) (x t : Nat) (r : Reserve) : State :=
  match s.block x with
  | none => s
  | some b =>
    let sl := b.slot t
    if sl.state = 0 then
      let s := s.modSlot x t fun sl => { sl with
        reserveTick := s.tick, session := r.session, expected := r.expected, chosen := r.chosen, skimmed := r.skimmed
        skipped := r.skipped, drag := r.drag, rankDest := r.rankDest, state := 1 }
      let s := if b.state = 3 then s.modBlock x fun b => { b with state := 0 } else s
      (s.storeWrite stitchNo (b.slotBase t) 64).tryQueue x t
    else
      let same := sl.session == r.session && sl.chosen == r.chosen && sl.skimmed == r.skimmed && sl.skipped == r.skipped &&
        (sl.expected ||| sl.lost) == r.expected && sl.rankDest == r.rankDest && sl.drag == r.drag
      if same then (if b.state = 3 then s.modBlock x fun b => { b with state := 0 } else s)
      else
        let who := s.ctxOf x
        (s.raise { src := 0x0905, ctx := who.1, host := who.2, status := 0x18, a := t
                   b := if sl.session ≠ r.session then 0 else if sl.rankDest ≠ r.rankDest then 2 else 1 }).endCommand b.uid 0x18 2

/-- SEL writes a row's routed weights; a replay's weights are compared (R145, R316). -/
def State.writeWeights (s : State) (x t : Nat) (ws : List Nat) : State :=
  match s.block x with
  | none => s
  | some b =>
    let sl := b.slot t
    if sl.weightsValid then
      if sl.weights = ws then s
      else
        let who := s.ctxOf x
        (s.raise { src := 0x0905, ctx := who.1, host := who.2, status := 0x18, a := t, b := 3 }).endCommand b.uid 0x18 2
    else
      let s := s.modSlot x t fun sl => { sl with weights := ws, weightsValid := true }
      (s.storeWrite stitchNo (b.slotBase t + 64) 64).tryQueue x t

/-! ## Areas -/

/-- The area number of shared area i and of rank area r, and its first byte in the slot. -/
def Block.areaOf (b : Block) (shared : Bool) (i : Nat) : Nat := if shared then i else b.sharedCount + i
def Block.areaByte (b : Block) (t area : Nat) : Nat := b.slotBase t + 128 + area * b.a

/-- Bytes written into an area of a slot, poisoned when their source was. -/
def State.writeArea (s : State) (x t area off : Nat) (l : List Byte) (poison : Bool) : State :=
  match s.block x with
  | none => s
  | some b =>
    let s := s.modSlot x t fun sl => { sl with areas := l.zipIdx.foldl (fun t p => Tab.put t (area * 2 ^ 20 + off + p.2) p.1) sl.areas }
    if poison then s.storePoison stitchNo (b.areaByte t area + off) l.length
    else s.storeWrite stitchNo (b.areaByte t area + off) l.length

def Slot.area (sl : Slot) (area n : Nat) : List Byte := Tab.readBytes 0 sl.areas (area * 2 ^ 20) n

/-! ## Shared posts (R302) -/

def sharedAddr (d : Nat) : Nat := bits d 255 192
def sharedStride (d : Nat) : Nat := bits d 191 168
def sharedFirst (d : Nat) : Nat := bits d 167 156
def sharedRows (d : Nat) : Nat := bits d 155 143
def sharedIx (d : Nat) : Nat := bits d 142 141

/-- Whether STC refuses a shared post descriptor (R302). -/
def State.sharedRefused (s : State) (x uid : Nat) (desc : List Byte) : Bool :=
  let d := leNat desc
  match s.block x with
  | none => true
  | some b =>
    b.uid != uid || bits d 140 0 != 0 || decide (b.sharedCount ≤ sharedIx d) || sharedRows d == 0 ||
      decide (b.rows < sharedFirst d + sharedRows d) ||
      sharedAddr d % 64 != 0 || sharedStride d % 64 != 0 || decide (sharedStride d < b.a)

/-- A shared post whose descriptor passed: its read begins (R302). -/
def State.startShared (s : State) (x uid : Nat) (desc : List Byte) : State :=
  let d := leNat desc
  let p : SharedPost := { ctx := x, uid := uid, addr := sharedAddr d, stride := sharedStride d, firstRow := sharedFirst d
                          rowCount := sharedRows d, ix := sharedIx d }
  { s with sharedPosts := s.sharedPosts ++ [p] }

/-- One row of a shared post read into its area (R302). -/
def State.readSharedRow (s : State) (p : SharedPost) (i : Nat) : State :=
  let t := p.firstRow + i
  match s.block p.ctx with
  | none => s
  | some b =>
    if b.uid ≠ p.uid ∨ (b.state ≠ 0 ∧ b.state ≠ 3) ∨ (b.slot t).padding then s
    else if bit (b.slot t).sharedPresent p.ix then s.inc Reg.sharedRepeats b.host 1
    else
      let r := s.hostRead b.host (p.addr + i * p.stride) b.a
      if r.1 = 1 then r.2.2.endCommand p.uid 0x10 2
      else
        let s := r.2.2.writeArea p.ctx t (b.areaOf true p.ix) 0 r.2.1 (r.1 != 0)
        let s := s.modSlot p.ctx t fun sl => { sl with sharedPresent := setBit sl.sharedPresent p.ix }
        (s.inc Reg.sharedRowsRead b.host 1).tryQueue p.ctx t

/-- A shared post's read completes, for every row it covers (R302). -/
def State.sharedDone (s : State) (p : SharedPost) : State :=
  (List.range p.rowCount).foldl (fun s i => s.readSharedRow p i) { s with sharedPosts := s.sharedPosts.erase p }

/-! ## Lost ranks (R306) -/

/-- A rank lost: no longer expected, and the row may be Queued. -/
def State.loseRank (s : State) (x t r : Nat) (timeout : Bool) : State :=
  match s.block x with
  | none => s
  | some b =>
    let sl := b.slot t
    if bit sl.expected r ∧ !bit sl.received r then
      let s := s.modSlot x t fun sl => { sl with expected := clearBit sl.expected r, lost := setBit sl.lost r }
      let s := (s.inc Reg.ranksLost b.host 1).inc Reg.ranksLostTimeout b.host (b2n timeout)
      s.tryQueue x t
    else s

/-- Every rank a Waiting row still expects is lost (R306). -/
def State.loseExpected (s : State) (x t : Nat) : State :=
  match s.block x with
  | none => s
  | some b => (bitList 16 ((b.slot t).expected)).foldl (fun s r => s.loseRank x t r true) s

/-! ## Answers (R303 to R305) -/

/-- The segments of an answer of A bytes. -/
def segmentsOf (a : Nat) : Nat := ceilDiv a 8192

/-- The received segments of a rank, as counted. -/
def Slot.segCount (sl : Slot) (r n : Nat) : Nat := ((List.range n).filter fun g => bit sl.segments (64 * r + g)).length

/-- An answer, or one segment of it, written after the checks of R304: its data, and the rank received when all segments are in (R305). -/
def State.writeAnswer (s : State) (x t r seg : Nat) (l : List Byte) : State :=
  match s.block x with
  | none => s
  | some b =>
    let s := s.writeArea x t (b.areaOf false r) (seg * 8192) l false
    let s := s.modSlot x t fun sl =>
      let segs := setBit sl.segments (64 * r + seg)
      { sl with segments := segs
                received := if segmentsOf b.a ≤ ({ sl with segments := segs }).segCount r (segmentsOf b.a) then setBit sl.received r
                  else sl.received }
    s.tryQueue x t

/-! ## Combine (R309 to R314) -/

/-- One element of a row summed in fixed order: shared terms, then received ranks with their weights (R309). -/
def combineElem (shared : List Val) (routed : List (Nat × Val)) : Nat :=
  routed.foldl (fun acc p => roundF32 (((valF32 p.1).mul p.2).add (valF32 acc)))
    (shared.foldl (fun acc v => roundF32 ((valF32 acc).add v)) 0)

/-- The values of a row's result before its one rounding (R309). -/
def Block.combineVals (b : Block) (t : Nat) : List Val :=
  let sl := b.slot t
  let h := b.hiddenDim
  let area := fun n => (decodeVec b.answerFmt h (sl.area n b.a)).toArray
  let sh := (List.range b.sharedCount).map fun i => area (b.areaOf true i)
  let rt := ((List.range sl.chosen).filter (bit sl.received)).map fun r => (sl.weights.getD r 0, area (b.areaOf false r))
  (List.range h).map fun j => valF32 (combineElem (sh.map fun a => a.getD j Val.zero) (rt.map fun p => (p.1, p.2.getD j Val.zero)))

/-- The ways a combine meets its residue checks: 0 clean, 1 one retry, 2 failure (R314, R479). -/
def State.residueOutcome (s : State) (src : Nat) : Nat :=
  match s.inject with
  | none => 0
  | some j => if j.source / 256 = src / 256 ∧ (j.source % 256 = src % 256 ∨ j.source % 256 = src % 256 + 1)
      then (if bit j.mask 1 then 2 else 1) else 0

/-- The row that the combine pipe takes next: the one Queued first (R308). -/
def State.firstQueued (s : State) : Option (Nat × Nat) :=
  let rows := s.blocks.flatMap fun p => (p.2.slots.filter fun q => q.2.state == 2).map fun q => (p.1, q.1, q.2.queuedAt)
  (bestBy (fun (a b : Nat × Nat × Nat) => decide (a.2.2 < b.2.2)) rows).map fun r => (r.1, r.2.1)

/-- The read of every word a combine uses: weights, shared areas and received rank areas (R314). -/
def State.combineRead (s : State) (x : Nat) (b : Block) (t : Nat) : Bool × State :=
  let sl := b.slot t
  let who := s.ctxOf x
  let e : Ev := { src := 0, ctx := who.1, host := who.2, status := 0x18, b := t }
  let areas := (List.range b.sharedCount).map (b.areaOf true) ++ ((List.range sl.chosen).filter (bit sl.received)).map (b.areaOf false)
  areas.foldl (fun acc n =>
    let r := acc.2.storeRead stitchNo (b.areaByte t n) b.a e
    (acc.1 || r.1, r.2)) (s.storeRead stitchNo (b.slotBase t + 64) 64 e)

/-- The result of a row written in its area and the slot Written (R312). -/
def State.writeRow (s : State) (x t : Nat) (b : Block) (vals : List Val) (passThrough : Bool) : State :=
  let sl := b.slot t
  let bytes := slice (encodeVec b.resultFmt vals) 0 b.s
  let s := s.modSlot x t fun sl => { sl with state := 4, result := bytes, passThrough := passThrough }
  let s := s.modBlock x fun b => { b with rowsWritten := b.rowsWritten + 1 }
  let s := s.storeWrite stitchNo (b.slotBase t + 128 + (b.sharedCount + b.topK) * b.a) b.s
  let s := s.modCmd b.uid fun k => { k with numExc := min 0xFFFF (k.numExc + countNan vals) }
  let s := (s.inc Reg.rowsWritten b.host 1).inc Reg.rowsPassThrough b.host (b2n passThrough)
  s.inc Reg.answersStitched b.host (popCount 16 sl.received)

/-- A row that cannot be combined is Poisoned, and its DISPATCH ends with POISON (R314). -/
def State.poisonRow (s : State) (x t uid : Nat) : State :=
  (s.modSlot x t fun sl => { sl with poisoned := true }).endCommand uid 0x18 2

/-- The combine of the Queued row of a block: pass-through, or the sum with its residue checks (R309, R310, R314). -/
def State.combineRow (s : State) (x t : Nat) : State :=
  match s.block x with
  | none => s
  | some b =>
    let sl := b.slot t
    let routed := (List.range sl.chosen).any (bit sl.received)
    if sl.skipped ∧ b.sharedCount = 0 then
      match s.cmd b.uid with
      | none => s
      | some k =>
        let off := fld (BitVec.ofNat 512 (leAt k.payload 0 64)) 159 128
        let stride := fld (BitVec.ofNat 512 (leAt k.payload 0 64)) 183 160
        let f := hHiddenFmt k.header
        s.writeRow x t b (decodeVec f b.hiddenDim (slice k.payload (off + t * stride) (vecBytes f b.hiddenDim))) true
    else
      let r := s.combineRead x b t
      if r.1 then r.2.poisonRow x t b.uid
      else
        let s := r.2
        let m := if routed || 0 < b.sharedCount then s.residueOutcome 0x0903 else 0
        let who := s.ctxOf x
        let ev := fun src st => ({ src := src, ctx := who.1, host := who.2, status := st, a := t * 2 ^ 32, b := b.base } : Ev)
        if m = 2 then
          ((((s.injected 0x0904).inc Reg.residueFailures b.host 1).raise (ev 0x0904 0x18))).poisonRow x t b.uid
        else
          let s := if m = 1 then ((s.injected 0x0903).inc Reg.residueRetries b.host 1).raise (ev 0x0903 0) else s
          s.writeRow x t b (b.combineVals t) false

/-! ## The row info array (R86) -/

/-- A row's info entry. -/
def Slot.info (sl : Slot) : Nat :=
  sl.session + popCount 16 sl.received * 2 ^ 32 + popCount 16 sl.skimmed * 2 ^ 37 + b2n sl.skipped * 2 ^ 42 +
    b2n sl.padding * 2 ^ 43 + b2n (sl.lost != 0) * 2 ^ 44

/-- The result payload of a DISPATCH: the info array padded to 64 bytes, then the rows at stride S (R86). -/
def Block.payload (b : Block) : List Byte :=
  let info := (List.range b.rows).flatMap fun t => leBytes 8 (b.slot t).info
  slice info 0 (roundUp (8 * b.rows) 64) ++ (List.range b.rows).flatMap fun t => slice (b.slot t).result 0 b.s

end Sys2Proof.Machine
end

