-- ==== Sys2Proof/Machine/Score.lean ====
section
/-! DEFINITION. SCU and SEL: the start of a SCORE, settlement, selection, charging and weights (R106 to R162, R374, R454). -/

set_option Elab.async false

set_option linter.unusedVariables false

namespace Sys2Proof.Machine

/-! ## The payload of a DISPATCH (R83, R84) -/

/-- The section directory of a DISPATCH. -/
def Cmd.dir (k : Cmd) : Nat := leAt k.payload 0 64
def Cmd.mapOffset (k : Cmd) : Nat := bits k.dir 63 32
def Cmd.inputOffset (k : Cmd) : Nat := bits k.dir 95 64
def Cmd.inputStride (k : Cmd) : Nat := bits k.dir 119 96
def Cmd.hiddenOffset (k : Cmd) : Nat := bits k.dir 159 128
def Cmd.hiddenStride (k : Cmd) : Nat := bits k.dir 183 160

/-- The session of a row (R56). -/
def Cmd.session (k : Cmd) (t : Nat) : Nat := leAt k.payload (k.mapOffset + 4 * t) 4
def Cmd.sessions (k : Cmd) : List Nat := (List.range (hRows k.header)).map k.session
def isPadding (session : Nat) : Bool := session == 0xFFFFFFFF

/-- The packed hidden row t. -/
def Cmd.hiddenRow (k : Cmd) (t : Nat) : List Byte :=
  slice k.payload (k.hiddenOffset + t * k.hiddenStride) (vecBytes (hHiddenFmt k.header) (hHiddenDim k.header))

/-- The values of input row t: D router inputs or E logits. -/
def Cmd.inputRow (k : Cmd) (n t : Nat) : List Val :=
  decodeVec (hInputFmt k.header) n (slice k.payload (k.inputOffset + t * k.inputStride) (vecBytes (hInputFmt k.header) n))

/-! ## Layers -/

/-- The key of a layer's state. -/
def layerKey (p l : Nat) : Nat := p * 256 + l

def State.layerState (s : State) (p l : Nat) : LayerState := Tab.get {} s.layerStates (layerKey p l)
def State.modLayer (s : State) (p l : Nat) (f : LayerState → LayerState) : State :=
  { s with layerStates := Tab.set {} s.layerStates (layerKey p l) (f (s.layerState p l)) }

/-- The layer descriptors a DISPATCH names. -/
def State.layerOf (s : State) (d : Disp) : Option Layer :=
  match s.plan d.plan with
  | none => none
  | some p => p.layers[d.layer]?

/-- The replica entries of expert e of a layer (R168). -/
def Plan.entries (p : Plan) (ly : Layer) (e : Nat) : List Replica :=
  match p.experts[ly.expertBase + e]? with
  | none => []
  | some x => (p.replicas.drop x.2).take x.1

/-- The experts per group in two-stage mode and in group-limited selection. -/
def Layer.groupSize (ly : Layer) : Nat := ly.e / max 1 ly.g
def Layer.limitSize (ly : Layer) : Nat := ly.e / max 1 ly.gl

/-- The chunks C of a layer (R103). -/
def Layer.chunkCount (ly : Layer) : Nat := ceilDiv ly.d (arrayDepth ly.keyFmt)

/-- Whether a destination is reachable now: some runner has its port up and a path of the Active version (R37). -/
def State.reachable (s : State) (p : Plan) (node : Nat) : Bool :=
  let v := s.rd Reg.activeVersion 0
  match p.dests.find? fun d => d.node == node, Tab.find s.versions v with
  | some d, some t => s.rd Reg.versionState v == 3 && ((p.runners.drop d.firstRunner).take d.runners).any fun r =>
      (Tab.get {} s.ports r.port).up && decide (r.path < t.paths.length)
  | _, _ => false

/-- The nodes of a plan's replicas that are not live now: declared Dead or not reachable (R37). -/
def State.deadNodes (s : State) (p : Plan) : List Nat :=
  p.dests.filterMap fun d =>
    if (Tab.get {} s.peers d.node).state = 4 ∨ !s.reachable p d.node then some d.node else none

/-- Whether an expert is masked: every replica entry lies in a masked domain (R38, R157). -/
def Plan.masked (p : Plan) (ly : Layer) (mask e : Nat) : Bool := (p.entries ly e).all fun r => bit mask r.domain

/-! ## Keys (R100, R103, R124) -/

/-- The bytes of key vector n of a layer, group vectors first in two-stage mode: from the gate store, or streamed through the host's windows; with the status of the read. -/
def State.keyVector (s : State) (host : Nat) (ls : LayerState) (ly : Layer) (n : Nat) : Nat × List Byte :=
  let v := keyVecBytes ly.keyFmt ly.d
  if ly.streamed then
    match s.xlt host (ly.keySource + n * v) v false with
    | none => (1, [])
    | some (.noc a) => (s.memBad a v, s.memRead a v)
    | some (.landing a) => (0, s.landingRead a v)
  else (0, Tab.readBytes 0 s.gate (ls.regionBase + n * v) v)

/-- The first byte of expert e's norm table entry (R101, R103). -/
def normByte (ls : LayerState) (ly : Layer) (e : Nat) : Nat :=
  ls.regionBase + (if ly.streamed then 0 else ((if ly.twoStage then ly.g else 0) + ly.e) * keyVecBytes ly.keyFmt ly.d) + 64 * e

/-- Nk[e][c] as the gate store holds it (R103). -/
def State.norm (s : State) (ls : LayerState) (ly : Layer) (e c : Nat) : Nat :=
  leNat (Tab.readBytes 0 s.gate (normByte ls ly e + 4 * c) 4)

/-- The vector check held for expert e's key vector, and for group g's in a streamed layer (R105). -/
def State.vectorCheck (s : State) (ls : LayerState) (ly : Layer) (group : Bool) (n : Nat) : Nat :=
  if group then leNat (Tab.readBytes 0 s.gate (ls.regionBase + 64 * ly.e + 4 * n) 4)
  else leNat (Tab.readBytes 0 s.gate (normByte ls ly n + 60) 4)

/-- The number of key vector of expert e. -/
def Layer.expertVec (ly : Layer) (e : Nat) : Nat := (if ly.twoStage then ly.g else 0) + e

/-- The values of the key of group or expert vector n. -/
def State.keyValues (s : State) (host : Nat) (ls : LayerState) (ly : Layer) (n : Nat) : List Val :=
  decodeVec ly.keyFmt ly.d (s.keyVector host ls ly n).2

/-! ## A row's scores -/

/-- The token values of a row of a scoring DISPATCH. -/
def Cmd.tokens (k : Cmd) (ly : Layer) (t : Nat) : List Val := tokenValues ly.keyFmt (k.inputRow ly.d t)

/-- The groups a row chooses in stage 1 (R120). -/
def State.stageGroups (s : State) (k : Cmd) (ls : LayerState) (ly : Layer) (h t : Nat) : List Nat :=
  let q := k.tokens ly t
  bestGroups h ly.kg ((List.range ly.g).map fun g =>
    (g, mulF32 (rawScore (arrayDepth ly.keyFmt) q (s.keyValues k.host ls ly g)) ly.scoreScale))

/-- The experts whose scores a row's candidates are taken from, before group limits: the chosen groups' in two-stage mode, else all (R121). -/
def State.scoredExperts (s : State) (k : Cmd) (ls : LayerState) (ly : Layer) (h t : Nat) : List Nat :=
  if ly.twoStage then
    let gs := s.stageGroups k ls ly h t
    (List.range ly.e).filter fun e => gs.contains (e / max 1 ly.groupSize)
  else List.range ly.e

/-- The final scores of a row over its unmasked candidates, in ascending expert id (R108, R109, R125). -/
def State.rowScores (s : State) (d : Disp) (k : Cmd) (p : Plan) (ly : Layer) (t : Nat) : List Scores :=
  let ls := s.layerState d.plan d.layer
  let h := tokenHash d.ctx t
  let mk := fun (e z : Nat) => let a := affinityOf ly.affinity z
    ({ expert := e, z := z, a := a, b := biased a (Tab.get 0 d.bias e) } : Scores)
  if hLogits k.header then
    ((k.inputRow ly.e t).zipIdx.filter fun v => !p.masked ly d.mask v.2).map fun v => mk v.2 (roundF32 v.1)
  else
    let q := k.tokens ly t
    ((s.scoredExperts k ls ly h t).filter fun e => !p.masked ly d.mask e).map fun e =>
      mk e (mulF32 (rawScore (arrayDepth ly.keyFmt) q (s.keyValues k.host ls ly (ly.expertVec e))) ly.scoreScale)

/-- The candidates of a row from its scores: those of the chosen limit groups in group-limited selection (R141). -/
def limitCandidates (ly : Layer) (h : Nat) (sc : List Scores) : List Scores :=
  if !ly.groupLimited then sc
  else
    let size := max 1 ly.limitSize
    let gs := ((List.range ly.gl).filter fun g => sc.any fun x => x.expert / size == g).map fun g =>
      (g, groupScore ly.limitScore (((sortBy (fun (x y : Scores) => f32Lt y.b x.b) (sc.filter fun x => x.expert / size == g))).map (·.b)))
    let chosen := bestGroups h ly.kl gs
    sc.filter fun x => chosen.contains (x.expert / size)

/-- k_eff (R136, R159). -/
def kEff (ly : Layer) (level : Nat) : Nat := if level = 1 ∧ ly.fallbackK ≠ 0 then ly.fallbackK else ly.topK

/-- The chosen set of a row in rank order (R136). -/
def chosenSet (ly : Layer) (h level : Nat) (cands : List Scores) : List Scores :=
  (sortBy (ranksBefore h) cands).take (kEff ly level)

/-- Whether a row is skipped by threshold (R139). -/
def skipsRow (ly : Layer) (cands : List Scores) : Bool :=
  ly.skipEnable && match f32Max (cands.map (·.a)) with
    | some m => f32Lt m ly.skipThreshold
    | none => false

/-- Whether a row has a non-finite input, or a final score that is NaN (R129). -/
def State.rowNonFinite (s : State) (d : Disp) (k : Cmd) (ly : Layer) (t : Nat) (sc : List Scores) : Bool :=
  (k.inputRow (if hLogits k.header then ly.e else ly.d) t).any (fun v => !v.isFinite) || sc.any fun x => (valF32 x.z).isNan

/-! ## Settlement (R114 to R118) -/

/-- Whether early settlement is in effect (R114). -/
def earlyOn (k : Cmd) (ly : Layer) : Bool :=
  hEarlyPour k.header && ly.earlyAllowed && !hLogits k.header && !ly.groupLimited

/-- The bounds of a row's candidates after chunk c (R115). -/
def State.rowBounds (s : State) (d : Disp) (k : Cmd) (p : Plan) (ly : Layer) (t c : Nat) : List Bounds :=
  let ls := s.layerState d.plan d.layer
  let q := k.tokens ly t
  let w := arrayDepth ly.keyFmt
  let nq := remainderNorm q ((c + 1) * w)
  ((s.scoredExperts k ls ly (tokenHash d.ctx t) t).filter fun e => !p.masked ly d.mask e).map fun e =>
    let parts := partials w q (s.keyValues k.host ls ly (ly.expertVec e)) (c + 1) 0
    boundsOf ly.affinity ly.scoreScale (ly.chunkCount - 1 - c) (parts.getLastD 0) nq (s.norm ls ly e c) (Tab.get 0 d.bias e) e

/-- The chunk after which a row settles: the first that proves its ranks, or the last (R116, R117). -/
def State.settleChunk (s : State) (d : Disp) (k : Cmd) (p : Plan) (ly : Layer) (t : Nat) : Nat :=
  let last := if hLogits k.header then 0 else ly.chunkCount - 1
  let bad := (k.inputRow (if hLogits k.header then ly.e else ly.d) t).any (fun v => !v.isFinite)
  if !d.early || bad then last
  else
    ((List.range last).find? fun c =>
      settlesNow (kEff ly d.level) ly.skipEnable ly.skipThreshold (s.rowBounds d k p ly t c)).getD last

/-- The scored rows: those that are no padding, in row order (R111). -/
def Cmd.scoredRows (k : Cmd) : List Nat := (List.range (hRows k.header)).filter fun t => !isPadding (k.session t)

/-- The pass of the n-th scored row (R111, R121). -/
def passOf (ly : Layer) (logits : Bool) (n : Nat) : Nat :=
  if logits then 0 else if ly.twoStage then n / 8 else n / (8 * max 1 (16384 / max 1 ly.e))

/-- A row's place in settlement order (R118). -/
def settleKeyOf (pass chunk row : Nat) : Nat := (pass * 16 + chunk) * 4096 + row

/-- The settlement key of every scored row, fixed by what SCORE fixed. -/
def State.settleKeys (s : State) (d : Disp) (k : Cmd) (p : Plan) (ly : Layer) : List (Nat × Nat) :=
  k.scoredRows.zipIdx.map fun r =>
    (r.1, settleKeyOf (passOf ly (hLogits k.header) r.2) (s.settleChunk d k p ly r.1) r.1)

/-! ## Errors of the keys (R105, R124, R130) -/

/-- The reads a row's scoring makes: its key vectors and, in early mode, norm entries; the worst of window refusal (1), poison (2) and a changed key (3), and the state after the store's reports. -/
def State.scoreReads (s : State) (d : Disp) (k : Cmd) (p : Plan) (ly : Layer) (t : Nat) : Nat × State :=
  let ls := s.layerState d.plan d.layer
  let v := keyVecBytes ly.keyFmt ly.d
  let who := s.ctxOf d.ctx
  let e : Ev := { src := 0, ctx := who.1, host := who.2, status := 0x18, b := d.plan * 2 ^ 8 + d.layer }
  let vecs := (if ly.twoStage then (List.range ly.g).map fun g => (true, g, g) else []) ++
    (s.scoredExperts k ls ly (tokenHash d.ctx t) t).map fun x => (false, x, ly.expertVec x)
  if ly.streamed then
    let st := vecs.foldl (fun acc x =>
      let r := s.keyVector k.host ls ly x.2.2
      let bad := if r.1 ≠ 0 then r.1 else if crc32c r.2 ≠ s.vectorCheck ls ly x.1 x.2.1 then 3 else 0
      if acc = 1 ∨ bad = 1 then 1 else max acc bad) 0
    (st, s)
  else
    let read := fun (acc : Bool × State) (off n : Nat) =>
      let q := acc.2.storeRead gateNo off n e
      (acc.1 || q.1, q.2)
    let r := vecs.foldl (fun acc x => read acc (ls.regionBase + x.2.2 * v) v) (false, s)
    let r := if d.early then vecs.foldl (fun acc x => if x.1 then acc else read acc (normByte ls ly x.2.1) 64) r else r
    (if r.1 then 2 else 0, r.2)

/-- What a failed read does to the DISPATCH: ACCESS, POISON, or KeyImageChanged (R105, R124, R130). -/
def State.scoreFault (s : State) (d : Disp) (uid st : Nat) : State :=
  let who := s.ctxOf d.ctx
  if st = 1 then s.endCommand uid 0x10 2
  else if st = 2 then s.endCommand uid 0x18 2
  else
    (s.raise { src := 0x0203, ctx := who.1, host := who.2, status := 0x18, a := d.plan * 2 ^ 32 + d.layer }).endCommand uid 0x18 2

/-! ## The level and the start of a SCORE (R146, R299, R374, R447, R452, R454) -/

/-- Whether a fallback level is allowed (R452). -/
def levelAllowed (maxFallback fallbackK l : Nat) : Bool :=
  decide (l ≤ min maxFallback 2) && !(l == 1 && fallbackK == 0)

/-- The estimate of a level. -/
def Ctx.est (c : Ctx) (l : Nat) : Nat := if l = 0 then c.estFull else if l = 1 then c.estReduced else c.estSkip

/-- The fallback level the deadline monitor fixes at a tick (R454). -/
def monitorLevel (h : Word512) (fallbackK : Nat) (c : Ctx) (now : Nat) : Nat :=
  if !hDeadlineEnable h then 0
  else
    let allowed := (List.range 3).filter (levelAllowed (hMaxFallback h) fallbackK)
    match allowed.find? fun l => !tickReached (tickAdd now (c.est l)) (hDeadline h) with
    | some l => l
    | none => allowed.getLastD 0

/-- The SCORE slot issues: the DISPATCH waits for its pour and its block, or a replay's for its own (R146, R299, R374). -/
def State.startScore (s : State) (uid : Nat) : State :=
  match s.cmd uid with
  | none => s
  | some k =>
    match s.ctx k.ctx with
    | none => s
    | some c =>
      match s.disp uid with
      | some d => { s.modDisp uid (fun d => { d with phase := 0, pourTally := c.pourTally, scoreTally := c.scoreTally }) with
                    pourQueue := s.pourQueue ++ [uid] }
      | none =>
        let plan := hPlan k.header
        let split := match (s.plan plan).bind (fun p => p.layers[hLayer k.header]?) with
          | some ly => ly.splitMin != 0 && decide (ly.splitMin ≤ hRows k.header)
          | none => false
        let rows := hRows k.header
        let d : Disp := { ctx := k.ctx, host := k.host, seq := c.seq, plan := plan, layer := hLayer k.header, rows := rows
                          splitAt := if split then (rows + 1) / 2 else rows, step := c.step
                          pourTally := c.pourTally, scoreTally := c.scoreTally }
        { s with disps := Tab.put s.disps uid d, pourQueue := s.pourQueue ++ [uid] }

/-- Whether another DISPATCH's dispatch pour of the same plan and layer is open on this engine (R146, R448). -/
def State.pourOpen (s : State) (uid : Nat) (d : Disp) : Bool :=
  s.disps.any fun q => q.1 != uid && q.2.plan == d.plan && q.2.layer == d.layer && (q.2.phase != 0 || q.2.armed) &&
    !(q.2.armed && q.2.pourClosed)

end Sys2Proof.Machine
end

