-- ==== Sys2Proof/Machine/Bias.lean ====
section
/-! DEFINITION. BAL's tables: biases in force and pending, load counts, domain masks, and what a balance group holds back (R157, R160, R349 to R356). -/

set_option Elab.async false

set_option linter.unusedVariables false

namespace Sys2Proof.Machine

/-! ## Bias tables (R131, R352, R356) -/

/-- Whether a DISPATCH at a step scores under the layer's pending table. -/
def LayerState.usesPending (ls : LayerState) (step : Nat) : Bool := ls.pendBias.isSome && stepAtLeast step ls.pendStep

/-- A table as a sparse one. -/
def biasTab (l : List Nat) : Tab Nat := (l.zipIdx.filter fun p => p.1 != 0).map fun p => (p.2, p.1)

/-- The biases a DISPATCH at a step scores under. -/
def LayerState.biasAt (ls : LayerState) (step : Nat) : Tab Nat :=
  if ls.usesPending step then biasTab (ls.pendBias.getD []) else ls.bias

/-- A DISPATCH scores at a step: the pending table it uses is marked used. -/
def LayerState.scoredAt (ls : LayerState) (step : Nat) : LayerState :=
  if ls.usesPending step then { ls with pendUsed := true } else ls

/-- A new table pends: a pending one under which a DISPATCH has scored first becomes the table in force, any other is discarded (R352). -/
def LayerState.arm (ls : LayerState) (table : List Nat) (step epoch : Nat) : LayerState :=
  let ls := if ls.pendBias.isSome && ls.pendUsed then { ls with bias := biasTab (ls.pendBias.getD []), epoch := ls.pendEpoch } else ls
  { ls with pendBias := some table, pendStep := step, pendEpoch := epoch, pendUsed := false }

/-! ## Load counts (R160) -/

/-- One count more for an expert, saturating at 2^31 − 1. -/
def LayerState.count (ls : LayerState) (e : Nat) : LayerState :=
  { ls with load := Tab.set 0 ls.load e (min (Tab.get 0 ls.load e + 1) (2 ^ 31 - 1)) }

/-- The counts of all experts of a layer. -/
def LayerState.loads (ls : LayerState) (e : Nat) : List Nat := (List.range e).map (Tab.get 0 ls.load)

/-! ## Domain masks (R157, R158) -/

def State.maskState (s : State) (p : Nat) : MaskState := Tab.get {} s.masks p
def State.modMask (s : State) (p : Nat) (f : MaskState → MaskState) : State :=
  { s with masks := Tab.set {} s.masks p (f (s.maskState p)) }

/-- The mask in force for a DISPATCH at a step: an armed one comes into force with the first DISPATCH at or above its apply step. -/
def MaskState.atStep (m : MaskState) (step : Nat) : MaskState :=
  if m.armed && stepAtLeast step m.applyStep then { m with inForce := m.pending, armed := false } else m

/-- A context that scores for a plan uses it (R158). -/
def MaskState.use (m : MaskState) (x : Nat) : MaskState :=
  if m.users.contains x then m else { m with users := x :: m.users }

/-! ## Balance groups (R349, R354, R355) -/

def State.balance (s : State) (b : Nat) : Balance := Tab.get {} s.balances b
def State.modBalance (s : State) (b : Nat) (f : Balance → Balance) : State :=
  { s with balances := Tab.set {} s.balances b (f (s.balance b)) }

/-- The enabled balance group whose range holds a layer of a plan. -/
def State.balanceOf (s : State) (p l : Nat) : Option Nat :=
  (List.range 16).find? fun b => s.rb Reg.balanceEnable b && s.rd Reg.balancePlan b == p &&
    decide (s.rd Reg.firstLayer b ≤ l) && decide (l ≤ s.rd Reg.lastLayer b)

/-- The group that holds a DISPATCH back: it is In, expects an apply step, and the DISPATCH's step is at or above it (R354). -/
def State.heldByBias (s : State) (d : Disp) : Option Nat :=
  match s.balanceOf d.plan d.layer with
  | none => none
  | some b => match (s.balance b).expect with
    | some a => if s.rd Reg.balanceState b = 1 ∧ stepAtLeast d.step a then some b else none
    | none => none

/-- A held DISPATCH starts its group's late window when it is the first (R354). -/
def State.holdForBias (s : State) (d : Disp) : State :=
  match s.heldByBias d with
  | none => s
  | some b => s.modBalance b fun g => if g.holdTick.isNone then { g with holdTick := some s.tick } else g

/-- Whether a DISPATCH at a step completes NonDeterministic: its group's member is Left, or Rejoining below its apply step (R354, R355). -/
def State.nonDeterministic (s : State) (d : Disp) : Bool :=
  match s.balanceOf d.plan d.layer with
  | none => false
  | some b =>
    let st := s.rd Reg.balanceState b
    if st = 2 then true
    else if st = 3 then (match (s.balance b).rejoinStep with
      | some a => !stepAtLeast d.step a
      | none => true)
    else false

/-- A SCORE of the balance context at or above the apply step a Rejoining member took makes it In (R355). -/
def State.rejoinAt (s : State) (d : Disp) : State :=
  match s.balanceOf d.plan d.layer with
  | none => s
  | some b => match (s.balance b).rejoinStep with
    | some a =>
      if s.rd Reg.balanceState b = 3 ∧ d.ctx = s.rd Reg.balanceContext b ∧ stepAtLeast d.step a then
        (s.modBalance b fun g => { g with rejoinStep := none }).wr Reg.balanceState b 1
      else s
    | none => s

/-- What the start of a SCORE fixes and marks in BAL (R131, R352). -/
def State.scoreBias (s : State) (d : Disp) : State :=
  let ls := s.layerState d.plan d.layer
  let s := s.modLayer d.plan d.layer fun ls => ls.scoredAt d.step
  let s := match s.balanceOf d.plan d.layer with
    | some b => if ls.usesPending d.step then s.wr Reg.epochInForce b ls.pendEpoch else s
    | none => s
  s.rejoinAt d

end Sys2Proof.Machine
end

