-- ==== Sys2Proof/Machine/Transport.lean ====
section
/-! DEFINITION. RTT: the runner header and trailer, flows, hand-over, routes, acknowledgement blocks and peers (R197 to R250). -/

set_option Elab.async false

set_option linter.unusedVariables false

namespace Sys2Proof.Machine

/-! ## Header and trailer (R197 to R199) -/

/-- The header as a number, HeaderCrc zero. -/
def RFrame.header (f : RFrame) : Nat :=
  f.version % 8 * 2 ^ 253 + f.cls % 8 * 2 ^ 250 + f.epoch % 2 * 2 ^ 249 + b2n f.close * 2 ^ 248 + b2n f.ret * 2 ^ 247 +
    b2n f.store * 2 ^ 246 + b2n f.retry * 2 ^ 245 + b2n f.ackNow * 2 ^ 244 + f.src % 2 ^ 20 * 2 ^ 224 + f.dst % 2 ^ 20 * 2 ^ 204 +
    f.ctx % 2 ^ 16 * 2 ^ 188 + f.heat % 2 ^ 16 * 2 ^ 172 + f.seq % 2 ^ 32 * 2 ^ 140 + f.window % 2 ^ 16 * 2 ^ 124 +
    f.offset % 2 ^ 48 * 2 ^ 76 + f.length % 2 ^ 14 * 2 ^ 62 + f.op % 2 ^ 16 * 2 ^ 46 + f.aux % 2 ^ 30 * 2 ^ 16

/-- HeaderCrc over bytes 0 to 29 (R198). -/
def RFrame.crc (f : RFrame) : Nat := crc16 ((beBytes 32 f.header).take 30)

/-- The seeded trailer (R199). -/
def RFrame.trailerOf (f : RFrame) : Nat :=
  let seed := crc32c (beBytes 2 f.window ++ beBytes 6 f.offset ++ beBytes 4 f.seq ++ beBytes 2 f.ctx)
  crc32c (beBytes 4 seed ++ f.payload)

/-- Whether the trailer of a frame checks; a frame of Length 0 has none. -/
def RFrame.trailerGood (f : RFrame) : Bool :=
  if f.length = 0 then true else f.payload.length == f.length && f.trailer == f.trailerOf

/-- A frame with its length, CRC and trailer. -/
def RFrame.seal (f : RFrame) : RFrame :=
  let f := { f with length := f.payload.length }
  { f with headerCrc := f.crc, trailer := if f.length = 0 then 0 else f.trailerOf }

/-- The runner header, payload and trailer as bytes. -/
def RFrame.bytes (f : RFrame) : List Byte :=
  beBytes 32 (f.header + f.headerCrc % 2 ^ 16) ++ f.payload ++ (if f.length = 0 then [] else beBytes 4 f.trailer)

/-- Buffer class: request 0, reply 1, acknowledgement 2, collective 3 (R200, R238). -/
def bufferClass (cls : Nat) : Nat := if cls = 2 then 1 else if cls = 3 then 2 else if cls = 4 then 3 else 0

/-- The first tag of a pour frame (R202): its node, context and TagLow. -/
def RFrame.tag (f : RFrame) : Nat :=
  (if f.ret then f.dst else f.src) * 2 ^ 44 + f.ctx * 2 ^ 28 + f.aux % 2 ^ 28

/-! ## Nodes, peers and flows -/

def State.nodeId (s : State) : Nat := s.rd Reg.nodeId 0 % 2 ^ 20
def State.peer (s : State) (n : Nat) : Peer := Tab.get {} s.peers n
def State.modPeer (s : State) (n : Nat) (f : Peer → Peer) : State := { s with peers := Tab.set {} s.peers n (f (s.peer n)) }
def Peer.flow (p : Peer) (c : Nat) : SendFlow := if c = 0 then p.data else if c = 1 then p.atomic else p.coll
def Peer.modFlow (p : Peer) (c : Nat) (f : SendFlow → SendFlow) : Peer :=
  if c = 0 then { p with data := f p.data } else if c = 1 then { p with atomic := f p.atomic } else { p with coll := f p.coll }
def Peer.rflow (p : Peer) (c : Nat) : RecvFlow := if c = 0 then p.rdata else if c = 1 then p.ratomic else p.rcoll
def Peer.modRflow (p : Peer) (c : Nat) (f : RecvFlow → RecvFlow) : Peer :=
  if c = 0 then { p with rdata := f p.rdata } else if c = 1 then { p with ratomic := f p.ratomic } else { p with rcoll := f p.rcoll }
def Peer.gateway (p : Peer) : Bool := bit p.caps 2

/-- The wire number of the k-th frame since the base (R205). -/
def SendFlow.num (f : SendFlow) (k : Nat) : Nat := (f.base + k) % 2 ^ 32
/-- How many frames since the base a wire number stands for, nearest the next. -/
def SendFlow.count (f : SendFlow) (n : Nat) : Nat := ((f.next : Int) + seqDiff n (f.num f.next)).toNat
/-- CumSettled at the source: the lowest number not yet settled or abandoned (R216). -/
def SendFlow.cumSettled (f : SendFlow) : Nat := match f.sent with
  | [] => f.next
  | (k, _) :: _ => k
/-- R206: fewer than 4,096 outstanding, and the next number below the oldest outstanding plus 4,096. -/
def SendFlow.room (f : SendFlow) : Bool := decide (f.sent.length < 4096) && decide (f.next < f.cumSettled + 4096)
/-- Every flow drained (R248, R250, R489). -/
def Peer.drained (p : Peer) : Bool :=
  p.data.sent.isEmpty && p.atomic.sent.isEmpty && p.coll.sent.isEmpty && p.waiting.isEmpty

/-! ## The next arrival position (R208) -/

/-- The map of an incoming flow at a number: 0 FRESH, 1 DUPLICATE, 2 OLD (no position is PENDING between events, so that none is BEYOND); how many EMPTY positions a slide passes; the map after it. -/
def RecvFlow.check (f : RecvFlow) (n : Nat) : Nat × Nat × RecvFlow :=
  let d := (n + 2 ^ 32 - f.base % 2 ^ 32) % 2 ^ 32
  if 2 ^ 31 ≤ d then (2, 0, f)
  else
    let sl := d - 4095
    let below := fun (m : Nat) => decide ((m + 2 ^ 32 - f.base % 2 ^ 32) % 2 ^ 32 < sl)
    let r : Nat × RecvFlow := if d < 4096 then (0, f)
      else (sl - (f.recv.filter below).length, { f with base := (f.base + sl) % 2 ^ 32, recv := f.recv.filter fun m => !below m })
    if f.recv.contains n then (1, 0, f) else (0, r.1, r.2)

/-- The base moved past every RECEIVED position. -/
def RecvFlow.advance : Nat → RecvFlow → RecvFlow
  | 0, f => f
  | n + 1, f =>
    if f.recv.contains f.base then
      RecvFlow.advance n { f with recv := f.recv.filter (· != f.base), base := (f.base + 1) % 2 ^ 32 }
    else f

/-- A number received with a good trailer (R208). -/
def RecvFlow.receive (f : RecvFlow) (n : Nat) : RecvFlow :=
  RecvFlow.advance (f.recv.length + 1) { f with recv := n :: f.recv }

/-- The lowest number not yet settled: the lowest held below the base, or the base (R211). -/
def RecvFlow.cumSettled (f : RecvFlow) : Nat :=
  f.held.foldl (fun m h => if seqDiff h.1 m < 0 then h.1 else m) f.base

def RecvFlow.isHeld (f : RecvFlow) (n : Nat) : Bool := f.held.any fun h => h.1 == n
/-- Whether a number at or above CumSettled has settled. -/
def RecvFlow.hasSettled (f : RecvFlow) (n : Nat) : Bool := (decide (seqDiff n f.base < 0) || f.recv.contains n) && !f.isHeld n

/-- A number settles, with the reason of a refusal or 0 (R207, R212, R554). -/
def RecvFlow.settle (f : RecvFlow) (n reason : Nat) : RecvFlow :=
  let f := { f with held := f.held.filter (fun h => h.1 != n), unacked := f.unacked + 1, ackNow := f.ackNow.filter (· != n) }
  if reason = 0 then f
  else { f with
    refusedTotal := (f.refusedTotal + 1) % 2 ^ 32, log := ((n, reason) :: f.log).take 64, report := f.report ++ [(n, reason)] }

/-- One ACK block (R211). -/
def RecvFlow.block (f : RecvFlow) (cls refused reason : Nat) : Nat :=
  let cs := f.cumSettled
  let map := (List.range 256).foldl (fun m i => if f.hasSettled ((cs + 1 + i) % 2 ^ 32) then m + 2 ^ i else m) 0
  cls * 2 ^ 509 + f.base % 2 ^ 32 * 2 ^ 472 + cs % 2 ^ 32 * 2 ^ 440 + map * 2 ^ 184 + refused % 2 ^ 32 * 2 ^ 152 +
    reason % 2 ^ 8 * 2 ^ 144 + f.refusedTotal % 2 ^ 32 * 2 ^ 112

/-! ## Buckets (R187) -/

/-- A full bucket: 9,236 bytes in units of 1/256 byte. -/
def bucketFull : Int := 9236 * 256
def planBucketKey (plan port : Nat) (ret : Bool) : Nat := plan * 2 ^ 8 + port + b2n ret * 2 ^ 32
def State.planBucket (s : State) (plan port : Nat) (ret : Bool) : Int := Tab.get bucketFull s.planBuckets (planBucketKey plan port ret)
def pathBucketKey (plan bucket : Nat) : Nat := plan * 2 ^ 12 + bucket
def State.pathBucket (s : State) (plan bucket : Nat) : Int := Tab.get bucketFull s.pathBuckets (pathBucketKey plan bucket)
def State.portRec (s : State) (p : Nat) : Port := Tab.get {} s.ports p
def State.modPort (s : State) (p : Nat) (f : Port → Port) : State := { s with ports := Tab.set {} s.ports p (f (s.portRec p)) }

/-- The level of the class bucket a frame draws on at a port; forward is class 6 (06, Traffic classes). -/
def State.classBucket (s : State) (pace plan port : Nat) : Int :=
  if pace ≤ 1 then s.planBucket plan port (pace == 1) else Tab.get bucketFull (s.portRec port).buckets pace

/-- Whether the buckets make a frame eligible on a way: control frames always are (R187, R189). -/
def State.bucketsOk (s : State) (pace plan : Nat) (r : Route) : Bool :=
  pace == 5 || (decide (0 ≤ s.classBucket pace plan r.port) &&
    match r.bucket with
    | none => true
    | some b => decide (0 ≤ s.pathBucket b.1 b.2))

/-! ## Routes (R188, R234, R236) -/

def State.portUp (s : State) (p : Nat) : Bool := (s.portRec p).up
def State.activeTable (s : State) : Option RouteTable :=
  let v := s.rd Reg.activeVersion 0
  if v = 0xFF then none else Tab.find s.versions v

/-- Whether a PathId lies below the Active version's PathCount. -/
def State.pathKnown (s : State) (path : Nat) : Bool := match s.activeTable with
  | some t => decide (path < t.paths.length)
  | none => false

/-- The runners of a destination entry as ways (R169). -/
def Plan.ways (p : Plan) (planId : Nat) (d : Dest) : List Route :=
  ((p.runners.drop d.firstRunner).take d.runners).map fun r =>
    { port := r.port, path := r.path, bucket := if r.bucket = 0xFFF then none else some (planId, r.bucket) }

/-- The first way from a pointer on, round robin, that a test accepts: its place, the way, and how many were passed over for their PathId. -/
def State.pickWay (s : State) (ways : List Route) (ptr : Nat) (ok : Route → Bool) : Option (Nat × Route) × Nat :=
  let n := ways.length
  let order := (List.range n).filterMap fun i => (ways[(ptr + i) % n]?).map fun r => ((ptr + i) % n, r)
  let good := fun (x : Nat × Route) => s.portUp x.2.port && s.pathKnown x.2.path && ok x.2
  let passed := (order.takeWhile fun x => !good x).filter fun x => !s.pathKnown x.2.path
  (order.find? good, passed.length)

/-- The ways to a node for a frame that is not a pour frame: the node route entry, otherwise the runners of the lowest resident plan that lists the node (R236). -/
def State.nodeWays (s : State) (n : Nat) : List Route :=
  let entry := match s.activeTable with
    | some t => t.routes.find? fun (e : NodeRoute) => e.node == n
    | none => none
  match entry with
  | some e => { port := e.portA, path := e.pathA } :: (if e.bValid then [{ port := e.portB, path := e.pathB }] else [])
  | none =>
    match s.plans.find? (fun (p : Nat × Plan) => p.2.state == 2 && p.2.dests.any fun d => d.node == n) with
    | none => []
    | some p => match p.2.dests.find? (fun (d : Dest) => d.node == n) with
      | some d => p.2.ways p.1 d
      | none => []

/-- A way for a frame that is not a pour frame, in turn (R236). -/
def State.pickRoute (s : State) (n : Nat) : Option Route × State :=
  let r := s.pickWay (s.nodeWays n) (s.peer n).routePtr fun _ => true
  let s := s.inc Reg.noRoute 0 r.2
  match r.1 with
  | none => (none, s)
  | some (i, w) => (some w, s.modPeer n fun p => { p with routePtr := i + 1 })

/-- A runner for a pour frame of a plan, in turn, whose buckets make it eligible (R188). -/
def State.pickRunner (s : State) (planId node pace : Nat) : Option Route × State :=
  match s.plan planId with
  | none => (none, s)
  | some p => match p.dests.find? (fun (d : Dest) => d.node == node) with
    | none => (none, s)
    | some d =>
      let r := s.pickWay (p.ways planId d) (s.peer node).runnerPtr fun w => s.bucketsOk pace planId w
      match r.1 with
      | none => (none, s)
      | some (i, w) => (some w, (s.inc Reg.noRoute 0 r.2).modPeer node fun q => { q with runnerPtr := i + 1 })

/-- A running number for the order of frames. -/
def State.nextOrd (s : State) : Nat × State := (s.queueSeq, { s with queueSeq := s.queueSeq + 1 })

/-! ## Control frames: ACK, REPLY, MGMT -/

/-- An unsequenced frame queued for its way; with none it is dropped (R236). -/
def State.queueControl (s : State) (f : RFrame) (pace : Nat) : State :=
  let r := s.pickRoute f.dst
  match r.1 with
  | none => r.2.inc Reg.noRoute 0 1
  | some w =>
    let o := r.2.nextOrd
    { o.2 with control := o.2.control ++
        [{ frame := f, why := .plain, pace := pace, route := some w, firstTick := s.tick, lastTick := s.tick, ord := o.1 }] }

/-- An ACK frame of some blocks to a node (R211). -/
def State.sendBlocks (s : State) (node : Nat) (blocks : List Nat) : State :=
  if blocks.isEmpty then s
  else s.queueControl { cls := 3, src := s.nodeId, dst := node, op := blocks.length * 2 ^ 8, payload := blocks.flatMap (beBytes 64) } 5

/-- What flow c of a peer has to acknowledge now as blocks: one for each refusal not yet reported, otherwise one (R212). -/
def RecvFlow.blocks (f : RecvFlow) (c : Nat) : List Nat :=
  if f.report.isEmpty then [f.block c 0 0] else f.report.map fun r => f.block c r.1 r.2

def RecvFlow.acked (f : RecvFlow) : RecvFlow := { f with unacked := 0, report := [] }

/-- An ACK of one flow at once (R210, R212). -/
def State.ackFlow (s : State) (node c : Nat) : State :=
  let f := (s.peer node).rflow c
  ((f.blocks c).foldl (fun s b => s.sendBlocks node [b]) s).modPeer node fun p => p.modRflow c RecvFlow.acked

/-- A number of a flow of DATA or COLL settles; the ACK goes at once for a refusal, an AckNow frame or 16 pending settlements (R207, R212, R554). -/
def State.settleNum (s : State) (node c n reason : Nat) : State :=
  let now := ((s.peer node).rflow c).ackNow.contains n
  let s := s.modPeer node fun p => p.modRflow c fun f => f.settle n reason
  let s := if reason = 0 then s else s.inc Reg.refusedSettles 0 1
  if now || reason != 0 || decide (16 ≤ ((s.peer node).rflow c).unacked) then s.ackFlow node c else s

/-- A REPLY to an ATOMIC frame (R226): status, and what it returns. -/
def State.reply (s : State) (req : RFrame) (status : Nat) (data : List Byte) : State :=
  let load := bits req.op 15 12 == 0 && !data.isEmpty
  s.queueControl { cls := 2, src := s.nodeId, dst := req.src, ctx := req.ctx, heat := req.heat, seq := req.seq, window := req.window
                   offset := req.offset, op := status * 2 ^ 8, aux := s.rd Reg.incarnation 0 * 2 ^ 14, payload := data }
    (if load then 3 else 5)

/-! ## Joins and the other handshakes (R243 to R248, R493 to R495) -/

/-- The lowest number of a flow not reported received: its current position. -/
def SendFlow.position (f : SendFlow) : Nat := f.num (max f.cumReceived (min f.cumSettled f.next))

/-- The join payload (R244); LEAVE and its answer carry zero bases and grants, the sleep handshakes only the incarnations (R494). -/
def State.joinPayload (s : State) (p : Peer) (kind : Nat) : List Byte :=
  let inc := s.rd Reg.incarnation 0 * 2 ^ 496 + (if p.incKnown then p.inc * 2 ^ 480 else 0)
  let caps := s.rd Reg.peerWakeTolerance 0 % 2 ^ 32 * 2 ^ 328 + b2n (s.rb Reg.forwardEnable 0) * 2 ^ 326 + 2 ^ 325
  let valid := b2n p.incKnown * 2 ^ 479
  beBytes 64 (match kind with
    | 0 => inc + valid + p.data.position * 2 ^ 440 + p.atomic.position * 2 ^ 408 + p.coll.position * 2 ^ 376 + p.granted * 2 ^ 360 + caps
    | 1 => inc + valid + caps
    | _ => inc)

/-- The kind of payload of a MgmtOp. -/
def mgmtKind (op : Nat) : Nat := if op ≤ 2 then 0 else if op ≤ 4 then 1 else 2

/-- A MGMT frame to a node. -/
def State.sendMgmt (s : State) (node op : Nat) : State :=
  s.queueControl { cls := 5, src := s.nodeId, dst := node, op := op, payload := s.joinPayload (s.peer node) (mgmtKind op) } 4

/-- The reply-cache entries to grant a peer: AtomicCredits while the entries granted to all peers fit the cache's 262,144, otherwise 0 (R225). -/
def State.grantFor (s : State) (node : Nat) : Nat :=
  let n := s.rd Reg.atomicCredits 0
  let used := (s.peers.filter fun p => p.1 != node).foldl (fun t p => t + p.2.granted) 0
  if used + n ≤ 262144 ∧ (s.engineWindow (s.rd Reg.replyCacheWindow 0)).isSome then n else 0

/-- The flows and the grant this side announces at a new join (R225, R246). -/
def State.announce (s : State) (node : Nat) : State :=
  let g := s.grantFor node
  let next := fun (p : Peer) (f : SendFlow) => ({ base := if p.everJoined then (f.num f.next + 65536) % 2 ^ 32 else 0 } : SendFlow)
  s.modPeer node fun p => { p with
    data := next p p.data, atomic := next p p.atomic, coll := next p p.coll, everJoined := true, granted := g }

/-- A join starts with an Unknown peer, or a Dead one whose time is over (R245, R247). -/
def State.startJoin (s : State) (node : Nat) : State :=
  let s := s.announce node
  let s := s.modPeer node fun p => { p with state := 1, mgmtSends := 1, mgmtTick := s.tick, wantJoin := false }
  s.sendMgmt node 1

/-! ## The peer cache (R249) -/

/-- A cached entry that may be evicted: nothing outstanding, no gap, no handshake under way. -/
def Peer.evictable (p : Peer) : Bool :=
  p.cached && p.drained && p.rdata.recv.isEmpty && p.ratomic.recv.isEmpty && p.rcoll.recv.isEmpty &&
    p.rdata.held.isEmpty && p.rcoll.held.isEmpty && p.state != 1 && p.state != 3

/-- An entry written back to the directory: 64 bytes whose layout the spec does not give, so that free values stand in memory (log entry 31). -/
def State.evict (s : State) (node : Nat) : State :=
  let s := match s.engineAddr (s.rd Reg.peerDirectoryWindow 0) (node * 64) 64 with
    | none => s
    | some a => let d := s.drawBytes 64
                d.2.memWrite a d.1
  s.modPeer node fun p => { p with cached := false }

/-- A peer's entry is needed: a miss starts the fetch of its directory entry, in the place of the least recently used entry that may go; false when none can (R249). -/
def State.touchPeer (s : State) (node : Nat) : Bool × State :=
  let p := s.peer node
  if p.cached then (true, s.modPeer node fun p => { p with used := s.tick })
  else if p.fetching then (true, s)
  else
    let s := s.inc Reg.peerCacheMisses 0 1
    let full := decide (8192 ≤ (s.peers.filter fun q => q.2.cached || q.2.fetching).length)
    let victim := bestBy (fun a b => decide (tickDiff a.2.used b.2.used < 0)) (s.peers.filter fun q => q.2.evictable)
    match full, victim with
    | true, none => (false, s)
    | true, some v => (true, (s.evict v.1).modPeer node fun p => { p with fetching := true })
    | false, _ => (true, s.modPeer node fun p => { p with fetching := true })

/-- A unit needs a peer: its entry is fetched on a miss, and a join started with an Unknown one, or with a Dead one MaxFrameLifeTicks after its declaration (R245, R247). -/
def State.needPeer (s : State) (node : Nat) : State :=
  let s := (s.touchPeer node).2
  let p := s.peer node
  if p.state = 0 ∨ (p.state = 4 ∧ s.elapsed p.deadTick (s.rd Reg.maxFrameLifeTicks 0)) then
    if p.cached then s.startJoin node else s.modPeer node fun p => { p with wantJoin := true }
  else s

/-! ## Hand-over (R205, R206, R225, R234) -/

/-- Whether new frames may be numbered for a peer now. -/
def Peer.open_ (p : Peer) : Bool := p.cached && p.state == 2 && !p.asleep && !p.waking

/-- Free credits at a peer (R225). -/
def Peer.freeCredits (p : Peer) : Nat := p.credits - p.creditsOut - p.creditEnds.length

def reqKey (node seq : Nat) : Nat := node * 2 ^ 32 + seq

/-- A frame numbered in its flow and outstanding from now on; an ATOMIC takes a credit and its request is recorded. -/
def State.launch (s : State) (node : Nat) (r : SendRec) : State :=
  let c := r.frame.cls
  let p := s.peer node
  let f := p.flow c
  let n := f.num f.next
  let aux := if c = 1 then s.rd Reg.incarnation 0 % 2 ^ 16 * 2 ^ 14 + p.inc % 2 ^ 14 else r.frame.aux
  let fr := { r.frame with seq := n, aux := aux, ackNow := r.frame.ackNow || (c != 1 && decide (3072 ≤ f.sent.length + 1)) }
  let pour := decide (r.pace ≤ 1)
  let w := if r.route.isSome then (r.route, s) else if pour then s.pickRunner r.plan node r.pace else s.pickRoute node
  let o := w.2.nextOrd
  let r := { r with
    frame := fr, route := w.1, firstTick := s.tick, lastTick := s.tick, ord := o.1, due := pour || w.1.isSome, sends := if pour || w.1.isSome then 0 else 1 }
  let s := o.2.modPeer node fun p => p.modFlow c fun f => { f with sent := Tab.put f.sent f.next r, next := f.next + 1 }
  if c = 1 then
    { (s.modPeer node fun p => { p with creditsOut := p.creditsOut + 1 }) with
      atomReqs := Tab.put s.atomReqs (reqKey node n) { dst := node, seq := n, why := r.why, tries := 0, tick := s.tick } }
  else s

/-- Whether a frame of class c can be numbered now. -/
def Peer.ready (p : Peer) (c : Nat) : Bool := p.open_ && (p.flow c).room && (c != 1 || decide (0 < p.freeCredits))

/-- A frame handed over, or kept in the unit that built it until its peer is Live, awake, in the cache, and has room (R206, R245). -/
def State.handOver (s : State) (node : Nat) (r : SendRec) : State :=
  let s := s.needPeer node
  let p := s.peer node
  if p.ready r.frame.cls && !(p.waiting.any fun w => w.frame.cls == r.frame.cls) then s.launch node r
  else s.modPeer node fun p => { p with waiting := p.waiting ++ [r] }

/-- The first waiting frame of a peer that can go now goes. -/
def State.flushOne (s : State) (node : Nat) : Option State :=
  let p := s.peer node
  match p.waiting.findIdx? fun w => p.ready w.frame.cls with
  | none => none
  | some i => match p.waiting[i]? with
    | none => none
    | some r => some ((s.modPeer node fun p => { p with waiting := p.waiting.eraseIdx i }).launch node r)

/-- Every waiting frame of a peer that can go now goes, in order. -/
def State.flush (s : State) (node : Nat) : State :=
  let rec go : Nat → State → State
    | 0, s => s
    | n + 1, s => match s.flushOne node with
      | none => s
      | some s => go n s
  go (s.peer node).waiting.length s

/-- The data of a fetch-add: its operand (R220). -/
def atomicFrame (s : State) (node ctx heat window offset op : Nat) (operand : List Byte) : RFrame :=
  { cls := 1, src := s.nodeId, dst := node, ctx := ctx, heat := heat, window := window, offset := offset, op := op, payload := operand }

/-- SEL's fetch-add of n on the pool counter of a replica entry (R151, R285). -/
def State.sendBorrow (s : State) (uid ix : Nat) (p : Plan) (r : Replica) (n : Nat) : State :=
  match s.cmd uid, p.dests.find? (fun (d : Dest) => d.node == r.node) with
  | some k, some d =>
    s.handOver r.node
      { frame := atomicFrame s r.node k.ctx k.heat d.window (r.poolWord * 64) (1 * 2 ^ 12) (leBytes 8 n), why := .borrow uid ix, pace := 3 }
  | _, _ => s

/-! ## What an ACK or REPLY says (R211, R216, R554) -/

/-- Frames no longer in the epoch counts: reported received (R235). -/
def State.leaveEpoch (s : State) (node c : Nat) (gone : Nat → Bool) : State :=
  { s with ports := Tab.mapVals s.ports fun _ p => { p with
      inFlight := p.inFlight.filter fun e => !(e.2.2.1 == node && e.2.2.2.1 == c && gone e.2.2.2.2) } }

/-- What an ACK block makes of an outgoing flow: the flow, and the frames that end with 0 or their RefusedReason. -/
def SendFlow.ack (f : SendFlow) (b : Nat) : SendFlow × List (SendRec × Nat) :=
  let cr := f.count (bits b 503 472)
  let cs := f.count (bits b 471 440)
  let map := bits b 439 184
  let rs := bits b 183 152
  let reason := bits b 151 144
  let total := bits b 143 112
  let f := { f with cumReceived := max f.cumReceived (min cr f.next) }
  let rk := f.count rs
  let hit := if reason = 0 then none else Tab.find f.sent rk
  let fresh := reason != 0 && !f.refused.contains rs
  let f := if fresh then { f with refused := rs :: f.refused, sent := Tab.drop f.sent rk } else f
  let done := fun (k : Nat) => decide (k < cs) || (decide (cs < k) && decide (k ≤ cs + 256) && bit map (k - cs - 1))
  let agree := total == f.refused.length % 2 ^ 32
  let ended := if agree then f.sent.filter fun p => done p.1 else []
  let sent := if agree then f.sent.filter fun p => !done p.1
    else Tab.mapVals f.sent fun k r => if done k then { r with unsure := true } else r
  ({ f with sent := sent },
    (match hit, fresh with
      | some r, true => [(r, reason)]
      | _, _ => []) ++ ended.map fun p => (p.2, 0))

/-- One ACK block of a node taken (R216). -/
def State.takeBlock (s : State) (node b : Nat) : State × List (SendRec × Nat) :=
  let c := bits b 511 509
  if c ≠ 0 ∧ c ≠ 4 then (s, [])
  else
    let f := (s.peer node).flow c
    let r := f.ack b
    let s := s.modPeer node fun p => p.modFlow c fun _ => r.1
    let gone := fun (n : Nat) => decide (f.count n < r.1.cumReceived) || (Tab.find r.1.sent (f.count n)).isNone
    ((s.leaveEpoch node c gone).flush node, r.2)

/-! ## A peer is declared Dead (R247) -/

/-- The peer entry of a node becomes Dead: what was outstanding or waiting is abandoned, its receive state discarded; the frames it leaves, in order. -/
def State.dropPeer (s : State) (node : Nat) : State × List SendRec :=
  let p := s.peer node
  let left := (p.data.sent ++ p.atomic.sent ++ p.coll.sent).map (·.2) ++ p.waiting
  let s := s.inc Reg.peersDeclaredDead 0 1
  let clear := fun (f : SendFlow) => { f with sent := [] }
  let s := s.modPeer node fun p => { p with
    state := 4, deadTick := s.tick, data := clear p.data, atomic := clear p.atomic, coll := clear p.coll, waiting := []
    rdata := {}, ratomic := {}, rcoll := {}, credits := 0, creditsOut := 0, creditEnds := [], asleep := false, waking := false
    sleepSent := false, sleepAcked := false, mgmtSends := 0 }
  ({ s with atomReqs := Tab.keep s.atomReqs fun _ q => q.dst != node }, left)

/-! ## Retransmission (R213 to R215, R227) -/

/-- A frame of a flow made due again on a new way; false when a pour frame has no eligible runner now. A frame with no way at all counts as sent (R236). -/
def State.resend (s : State) (node c k : Nat) (r : SendRec) : Bool × State :=
  let pour := decide (r.pace ≤ 1)
  let w := if pour then s.pickRunner r.plan node r.pace else s.pickRoute node
  match w.1 with
  | some way =>
    let o := w.2.nextOrd
    let r := { r with frame := { r.frame with retry := decide (0 < r.sends) }, route := some way, due := true, ord := o.1 }
    (true, o.2.modPeer node fun p => p.modFlow c fun f => { f with sent := Tab.put f.sent k r })
  | none =>
    if pour then (false, s)
    else
      let r := { r with route := none, due := false, sends := r.sends + 1, lastTick := s.tick }
      (true, w.2.modPeer node fun p => p.modFlow c fun f => { f with sent := Tab.put f.sent k r })

end Sys2Proof.Machine
end

