-- ==== Sys2Proof/Machine/Select.lean ====
section
/-! DEFINITION. SEL at work: the start of a scoring step, settling rows, charging, borrowing, delivery and weights (R116 to R161, R299, R301). -/

set_option Elab.async false

set_option linter.unusedVariables false

namespace Sys2Proof.Machine

/-! ## What a DISPATCH works on -/

/-- A DISPATCH with its command, plan and layer. -/
structure Step where
  uid : Nat
  d : Disp
  k : Cmd
  p : Plan
  ly : Layer

def State.stepOf (s : State) (uid : Nat) : Option Step :=
  match s.disp uid with
  | none => none
  | some d => match s.cmd uid, s.plan d.plan with
    | some k, some p => match p.layers[d.layer]? with
      | some ly => some { uid := uid, d := d, k := k, p := p, ly := ly }
      | none => none
    | _, _ => none

/-- Whether the step skips the routed experts of every row (R140, R159). -/
def Step.skipAll (t : Step) : Bool := hLayerSkip t.k.header || t.d.level == 2

def Disp.row (d : Disp) (t : Nat) : DRow := Tab.get {} d.rowState t
def Disp.modRow (d : Disp) (t : Nat) (f : DRow → DRow) : Disp := { d with rowState := Tab.put d.rowState t (f (d.row t)) }
/-- The half of a row: 0 cope, 1 drag (R191). -/
def Disp.half (d : Disp) (t : Nat) : Nat := if t < d.splitAt then 0 else 1

/-! ## The SCORE starts (R146, R299, R354, R374) -/

/-- Whether a DISPATCH may start now: it waits first for its pour, in order of request, and is not held by its balance group. -/
def State.mayStart (s : State) (t : Step) : Bool :=
  t.d.phase == 0 && !t.d.ended && !s.pourOpen t.uid t.d && (s.heldByBias t.d).isNone &&
    (s.pourQueue.find? fun u => match s.disp u with
      | some d => d.plan == t.d.plan && d.layer == t.d.layer
      | none => false) == some t.uid

/-- The modes a DISPATCH reports of its start (R26, R88). -/
def Step.modes (t : Step) (early : Bool) (level : Nat) (nonDet hbm : Bool) : Nat :=
  b2n early + 2 * b2n (t.ly.streamed && !hLogits t.k.header) + 4 * b2n t.ly.twoStage + 8 * b2n hbm + 16 * level +
    64 * b2n nonDet + 128 * b2n (t.d.splitAt != t.d.rows) + 256 * b2n (hLogits t.k.header)

/-- The block of a DISPATCH at a place (R298). -/
def Step.block (t : Step) (c : Ctx) (base : Nat) : Block :=
  let h := t.ly.hiddenDim
  let a := rowBytes64 t.ly.answerFmt h
  let sz := rowBytes64 (hResultFmt t.k.header) h
  { uid := t.uid, host := t.k.host, heat := c.heat, rows := t.d.rows, hiddenDim := h, resultFmt := hResultFmt t.k.header
    answerFmt := t.ly.answerFmt, topK := t.ly.topK, sharedCount := t.ly.sharedCount, split := t.d.splitAt != t.d.rows
    splitAt := t.d.splitAt, returnPour := t.ly.returnPour, stitchTally := c.stitchTally, a := a, s := sz
    base := base, bytes := blockBytes t.d.rows t.ly.sharedCount t.ly.topK a sz }

/-- The key bytes a streamed layer reads for the scored rows (R123). -/
def State.streamBytes (s : State) (t : Step) : Nat :=
  let v := keyVecBytes t.ly.keyFmt t.ly.d
  let rows := t.k.scoredRows
  if t.ly.twoStage then
    let ls := s.layerState t.d.plan t.d.layer
    let unions := (chunks 8 (rows.length + 1) rows).map fun b =>
      ((b.flatMap fun r => s.stageGroups t.k ls t.ly (tokenHash t.d.ctx r) r).eraseDups).length
    (t.ly.g + unions.foldl (· + ·) 0 * t.ly.groupSize) * v
  else ceilDiv rows.length (8 * max 1 (16384 / max 1 t.ly.e)) * t.ly.e * v

/-- What the start fixes: level, biases, mask and the nodes not live; a replay keeps its record (R37, R131, R157, R447, R454). -/
def State.fixStep (s : State) (t : Step) (c : Ctx) (replay : Bool) : Disp :=
  let ls := s.layerState t.d.plan t.d.layer
  let m := (s.maskState t.d.plan).atStep t.d.step
  let early := earlyOn t.k t.ly
  if replay then { t.d with phase := 1, early := early, armed := true, sent := [] }
  else { t.d with
    phase := 1, early := early, armed := true
    level := max (monitorLevel t.k.header t.ly.fallbackK c s.tick) c.armLevel
    bias := ls.biasAt t.d.step, mask := m.inForce, notLive := s.deadNodes t.p
    nonDet := s.nonDeterministic t.d, hbm := t.p.flasks.any fun f => f.layer == t.d.layer && f.inHbm }

/-- The trace record of a scoring's end; its cycles are not modelled, so their number is free (R505). -/
def State.traceScored (s : State) (d : Disp) : State :=
  if bit (s.rd Reg.traceUnitMask 0) 2 then
    let chunks := match s.layerOf d with
      | some ly => ly.chunkCount
      | none => 0
    let early := (d.rowState.filter fun r => r.2.settled && decide (r.2.chunk + 1 < chunks)).length
    let heat := match s.ctx d.ctx with
      | some c => c.heat
      | none => 0
    let v := s.draw
    v.2.trace 2 0x11 d.ctx heat early v.1
  else s

/-- The score tally and the end of SCORE once every row is done (R374). -/
def State.scoreFinished (s : State) (uid : Nat) : State :=
  match s.disp uid with
  | none => s
  | some d =>
    if d.phase = 1 ∧ d.rowState.all (fun r => r.2.weighted) then
      let s := s.modDisp uid fun d => { d with phase := 2, scoreDone := true }
      let s := match s.ctx d.ctx, d.scoreTally with
        | some c, some t => if d.scoreDone then s else s.tallyCredit d.ctx c.heat t 1
        | _, _ => s
      (s.traceScored d).endHold uid
    else s

/-- The block is open, or was: the step's record is fixed and every scored row waits to settle. -/
def State.beginScoring (s : State) (t : Step) (c : Ctx) (replay : Bool) : State :=
  let d := s.fixStep t c replay
  let rows := t.k.scoredRows.map fun r => (r, ({} : DRow))
  let skip := hLayerSkip t.k.header || d.level == 2
  let d := { d with rowState := rows.map fun r => (r.1, { r.2 with chunk := if skip then 0 else s.settleChunk d t.k t.p t.ly r.1 }) }
  let s := { s with disps := Tab.put s.disps t.uid d, pourQueue := s.pourQueue.filter (· != t.uid) }
  let s := s.modCmd t.uid fun k => { k with
    scoreTick := if replay then k.scoreTick else s.tick, level := d.level
    modes := t.modes d.early d.level d.nonDet d.hbm }
  let s := s.modMask d.plan fun m => (m.atStep d.step).use d.ctx
  let s := s.modCtx d.ctx fun c => { c with affinity := if hLogits t.k.header then 3 else t.ly.slot }
  let s := if replay then s else
    (((s.scoreBias d).inc Reg.splitDispatches 0 (b2n (d.splitAt != d.rows))).inc Reg.fallbackReducedK 0 (b2n (d.level == 1))).inc
      Reg.fallbackRoutedSkip 0 (b2n (d.level == 2))
  let s := if t.ly.streamed && !hLogits t.k.header && !skip then s.inc Reg.streamedKeyBytes 0 (s.streamBytes t) else s
  (s.trace 2 0x10 d.ctx t.k.heat (d.plan * 2 ^ 32 + d.layer) d.rows).scoreFinished t.uid

/-- STC opens the block and the SCORE starts; a replay finds its block (R299, R316). -/
def State.openStep (s : State) (t : Step) : State :=
  match s.ctx t.d.ctx with
  | none => s
  | some c =>
    match s.block t.d.ctx with
    | some b => if b.uid = t.uid then s.beginScoring t c true else s
    | none =>
      match s.stitchPlace t.k.host (t.block c 0).bytes with
      | none => s
      | some base => (s.openBlock t.d.ctx (t.block c base) t.k.sessions).beginScoring t c false

/-! ## Charging (R146 to R152) -/

def usedKey (half e j : Nat) : Nat := (half * 2 ^ 16 + e) * 8 + j

/-- The live replica entries of an expert with their entry numbers, in plan order (R147). -/
def Step.liveEntries (t : Step) (d : Disp) (e : Nat) : List (Nat × Replica) :=
  ((t.p.entries t.ly e).zipIdx.filter fun r => !d.notLive.contains r.1.node).map fun r => (r.2, r.1)

/-- One assignment charged: its fate, entry and slot, and the DISPATCH's counters after (R147, R151, R152). -/
def Step.charge (t : Step) (d : Disp) (row : Nat) (a : Assign) : Assign × Disp :=
  let live := t.liveEntries d a.expert
  let half := d.half row
  if live.isEmpty then ({ a with fate := 3 }, d)
  else
    let j0 := ((tokenHash d.ctx row / 2 ^ 16) ^^^ a.expert) % live.length
    let turn := (List.range live.length).filterMap fun n => live[(j0 + n) % live.length]?
    match turn.find? fun r => decide (Tab.get 0 d.used (usedKey half a.expert r.1) < r.2.quota) with
    | some r =>
      let key := usedKey half a.expert r.1
      let n := Tab.get 0 d.used key
      ({ a with fate := 1, entry := r.1, slot := n }, { d with used := Tab.put d.used key (n + 1) })
    | none =>
      match t.ly.borrow, turn with
      | true, r :: _ =>
        if d.deferred < t.ly.borrowLimit then
          ({ a with fate := if r.2.pool = 0 then 2 else 4, entry := r.1 }, { d with deferred := d.deferred + 1 })
        else ({ a with fate := 2 }, d)
      | _, _ => ({ a with fate := 2 }, d)

/-- One assignment of a row charged in place. -/
def Step.chargeAt (t : Step) (d : Disp) (row rank : Nat) : Disp :=
  match ((d.row row).assigns.find? fun a => a.rank == rank) with
  | none => d
  | some a =>
    let r := t.charge d row a
    r.2.modRow row fun w => { w with assigns := w.assigns.map fun b => if b.rank = rank then r.1 else b }

/-! ## Borrowing (R151, R154, R447) -/

/-- The deferred assignments of a list of (row, rank), gathered by pair of expert and entry in order of first appearance. -/
def gatherBorrows (d : Disp) (items : List (Nat × Nat)) : List Borrow :=
  items.foldl (fun acc it =>
    match (d.row it.1).assigns.find? fun a => a.rank == it.2 && a.fate == 4 with
    | none => acc
    | some a =>
      let half := d.half it.1
      if acc.any fun b => b.half == half && b.expert == a.expert && b.entry == a.entry then
        acc.map fun b => if b.half = half ∧ b.expert = a.expert ∧ b.entry = a.entry then { b with items := b.items ++ [it] } else b
      else acc ++ [{ half := half, expert := a.expert, entry := a.entry, items := [it] }]) []

/-- The fates that a reply gives a borrow's assignments: the first g take overflow slots (R151). -/
def Borrow.apply (b : Borrow) (pool v : Nat) (d : Disp) : Disp :=
  let g := min b.items.length (pool - v)
  b.items.zipIdx.foldl (fun d it =>
    d.modRow it.1.1 fun w => { w with assigns := w.assigns.map fun a =>
      if a.rank = it.1.2 then (if it.2 < g then { a with fate := 5, slot := v + it.2 } else { a with fate := 2 }) else a }) d

/-- The pool size of a borrow's entry. -/
def Step.poolOf (t : Step) (b : Borrow) : Nat :=
  match (t.p.entries t.ly b.expert)[b.entry]? with
  | some r => r.pool
  | none => 0

/-- One gathered borrow taken up: answered from the record of a replay, left in flight, or issued as a fetch-add (R151, R447). -/
def State.takeBorrow (s : State) (t : Step) (b : Borrow) : State :=
  match s.disp t.uid with
  | none => s
  | some d =>
    match d.borrows.find? fun x => x.half == b.half && x.expert == b.expert && x.entry == b.entry && x.items == b.items with
    | some x => match x.reply with
      | some v => s.modDisp t.uid (b.apply (t.poolOf b) v)
      | none => s
    | none =>
      let ix := d.borrows.length
      let s := s.modDisp t.uid fun d => { d with borrows := d.borrows ++ [b] }
      match (t.p.entries t.ly b.expert)[b.entry]? with
      | none => s
      | some r =>
        let s := s.inc Reg.borrowRequests 0 1
        if (s.peer r.node).state = 4 then
          let pool := t.poolOf b
          (s.modDisp t.uid fun d => b.apply pool pool { d with borrows := d.borrows.zipIdx.map fun x =>
            if x.2 = ix then { x.1 with reply := some pool } else x.1 }).inc Reg.borrowUnknown 0 1
        else s.sendBorrow t.uid ix t.p r b.items.length

/-! ## Reservation and delivery (R24, R138, R154, R301) -/

/-- The destination index of a node (R169). -/
def Plan.destIndex (p : Plan) (node : Nat) : Nat := (p.dests.findIdx? fun d => d.node == node).getD 0

/-- The node an assignment goes to. -/
def Step.nodeOf (t : Step) (a : Assign) : Nat :=
  match (t.p.entries t.ly a.expert)[a.entry]? with
  | some r => r.node
  | none => 0

/-- A mask of the ranks whose assignment meets a test. -/
def rankMask (as : List Assign) (p : Assign → Bool) : Nat := (as.filter p).foldl (fun m a => setBit m a.rank) 0

/-- The slot of a row is reserved with what SEL decided (R301). -/
def State.reserveRow (s : State) (t : Step) (row : Nat) : State :=
  match s.disp t.uid with
  | none => s
  | some d =>
    let w := d.row row
    let sent := fun (a : Assign) => a.fate == 1 || a.fate == 5
    let r : Reserve :=
      { session := t.k.session row, chosen := w.assigns.length, expected := rankMask w.assigns sent
        skimmed := rankMask w.assigns fun a => a.fate == 2 || a.fate == 3, skipped := w.skipped, drag := d.half row == 1
        rankDest := (w.assigns.filter sent).map fun a => (a.rank, t.p.destIndex (t.nodeOf a)) }
    let s := s.modDisp t.uid fun d => d.modRow row fun w => { w with reserved := true }
    s.reserveSlot d.ctx row r

/-- The bin entry of an assignment (R175). -/
def Step.binEntry (t : Step) (row : Nat) (a : Assign) : BinEntry :=
  { expert := a.expert, row := row, rank := a.rank, entry := a.entry, overflow := a.fate == 5, slot := a.slot
    dest := t.p.destIndex (t.nodeOf a) }

/-- The assignments of a list of (row, rank) that send a copy, as bin entries in order. -/
def Step.deliver (t : Step) (d : Disp) (items : List (Nat × Nat)) : List BinEntry :=
  items.filterMap fun it => ((d.row it.1).assigns.find? fun a => a.rank == it.2 && (a.fate == 1 || a.fate == 5)).map (t.binEntry it.1)

/-- Rows whose fates are all known are reserved, then their assignments delivered in groups of at most 64, in the order given; skims are counted (R138, R149, R154). -/
def State.deliverRows (s : State) (t : Step) (rows : List Nat) (order : List (Nat × Nat)) : State :=
  match s.disp t.uid with
  | none => s
  | some d =>
    let open_ := rows.filter fun r => !(d.row r).reserved && (d.row r).settled && (d.row r).assigns.all fun a => a.fate != 4 && a.fate != 0
    let s := open_.foldl (fun s r => s.reserveRow t r) s
    let skims := fun f => (open_.map fun r => ((d.row r).assigns.filter fun a => a.fate == f).length).foldl (· + ·) 0
    let s := (s.inc Reg.skimQuota 0 (skims 2)).inc Reg.skimNoReplica 0 (skims 3)
    let mine := order.filter fun it => open_.contains it.1
    let half := match open_ with
      | r :: _ => d.half r
      | [] => 0
    let groups := (chunks 64 (mine.length + 1) (t.deliver d mine)).map fun g => (half, g)
    s.modDisp t.uid fun d =>
      let d := open_.foldl (fun d r => d.modRow r fun w => { w with delivered := true }) d
      { d with groups := d.groups ++ groups }

/-- Assignments charged in serve order, the borrows they leave taken up, and the rows that are decided delivered. -/
def State.chargeItems (s : State) (t : Step) (rows : List Nat) (order : List (Nat × Nat)) : State :=
  let s := s.modDisp t.uid fun d => order.foldl (fun d it => t.chargeAt d it.1 it.2) d
  match s.disp t.uid with
  | none => s
  | some d => ((gatherBorrows d order).foldl (fun s b => s.takeBorrow t b) s).deliverRows t rows order

/-- The full-mode serve order of a half: experts rising, then b, a descending, then row and rank (R149). -/
def State.fullOrder (s : State) (t : Step) (d : Disp) (rows : List Nat) : List (Nat × Nat) :=
  let all := rows.flatMap fun r =>
    let sc := s.rowScores d t.k t.p t.ly r
    (d.row r).assigns.map fun a => (r, a, (sc.find? fun x => x.expert == a.expert).getD ⟨a.expert, 0, 0, 0⟩)
  let before := fun (x y : Nat × Assign × Scores) =>
    if x.2.1.expert ≠ y.2.1.expert then decide (x.2.1.expert < y.2.1.expert)
    else if !(valF32 x.2.2.b).numEq (valF32 y.2.2.b) then f32Lt y.2.2.b x.2.2.b
    else if !(valF32 x.2.2.a).numEq (valF32 y.2.2.a) then f32Lt y.2.2.a x.2.2.a
    else if x.1 ≠ y.1 then decide (x.1 < y.1)
    else decide (x.2.1.rank < y.2.1.rank)
  (sortBy before all).map fun x => (x.1, x.2.1.rank)

/-! ## A row settles (R116, R129, R136, R139, R140) -/

/-- The scored row that settles next (R118). -/
def State.nextSettle (s : State) (t : Step) : Option Nat :=
  let keys := t.k.scoredRows.zipIdx.map fun r =>
    (r.1, settleKeyOf (passOf t.ly (hLogits t.k.header) r.2) (t.d.row r.1).chunk r.1)
  (bestBy (fun (a b : Nat × Nat) => decide (a.2 < b.2)) (keys.filter fun r => !(t.d.row r.1).settled)).map (·.1)

/-- What a settled row holds: skipped, non-finite, or its chosen ranks. -/
def State.settledRow (s : State) (t : Step) (row : Nat) : DRow :=
  let w := { t.d.row row with settled := true }
  if t.skipAll then { w with skipped := true, weighted := true }
  else
    let sc := s.rowScores t.d t.k t.p t.ly row
    if s.rowNonFinite t.d t.k t.ly row sc then { w with skipped := true, nonFinite := true }
    else
      let h := tokenHash t.d.ctx row
      let cands := limitCandidates t.ly h sc
      if skipsRow t.ly cands then { w with skipped := true }
      else { w with assigns := (chosenSet t.ly h t.d.level cands).zipIdx.map fun x => { rank := x.2, expert := x.1.expert } }

/-- The rows of a half that are scored rows. -/
def Step.halfRows (t : Step) (half : Nat) : List Nat := t.k.scoredRows.filter fun r => t.d.half r == half

/-- In full mode the last row of a half to settle starts the charging of the half (R149, R191). -/
def State.settleHalf (s : State) (t : Step) (d : Disp) (row : Nat) : State :=
  let rows := t.halfRows (d.half row)
  if !d.early && !t.skipAll && rows.all fun r => (d.row r).settled then
    s.chargeItems t (rows.filter fun r => !(d.row r).reserved) (s.fullOrder t d (rows.filter fun r => !(d.row r).reserved))
  else s

/-- A row settles and goes to SEL. -/
def State.settleRow (s : State) (t : Step) (row : Nat) : State :=
  let rd := if t.skipAll || hLogits t.k.header then (0, s) else s.scoreReads t.d t.k t.p t.ly row
  if rd.1 ≠ 0 then rd.2.scoreFault t.d t.uid rd.1
  else
    let s := rd.2
    let w := s.settledRow t row
    let s := s.modDisp t.uid fun d => d.modRow row fun _ => w
    let s := if w.nonFinite then
        (s.modCmd t.uid fun k => { k with numExc := min 0xFFFF (k.numExc + 1) }).inc Reg.nonFiniteRows 0 1 else s
    let early := decide (w.chunk + 1 < t.ly.chunkCount) && t.d.early
    let s := if t.skipAll then s.inc Reg.rowsSkippedCommand 0 1
      else
        let s := (s.inc Reg.rowsScored 0 1).inc Reg.rowsSkippedThreshold 0 (b2n (w.skipped && !w.nonFinite))
        if hLogits t.k.header then s else (s.inc Reg.settledAtChunk w.chunk 1).inc Reg.rowsSettledEarly 0 (b2n early)
    let ranks := w.assigns.map fun a => (row, a.rank)
    if w.skipped || w.assigns.isEmpty then
      let s := s.deliverRows t [row] []
      let s := if t.skipAll then s.scoreFinished t.uid else s
      match s.disp t.uid with
      | none => s
      | some d => s.settleHalf t d row
    else if t.d.early then s.chargeItems t [row] ranks
    else
      match s.disp t.uid with
      | none => s
      | some d => s.settleHalf t d row
/-! ## A row's scores end (R143, R145) -/

/-- The weights of a row from its full scores (R143, R144). -/
def State.rowWeights (s : State) (t : Step) (row : Nat) : List Nat :=
  let sc := s.rowScores t.d t.k t.p t.ly row
  let h := tokenHash t.d.ctx row
  let cands := limitCandidates t.ly h sc
  gateWeights t.ly.affinity t.ly.normalize t.ly.routedScale cands (chosenSet t.ly h t.d.level cands)

/-- SEL writes a settled row's weights. -/
def State.endRow (s : State) (t : Step) (row : Nat) : State :=
  let w := t.d.row row
  let s := s.modDisp t.uid fun d => d.modRow row fun w => { w with weighted := true }
  let s := if w.skipped || w.assigns.isEmpty then s else s.writeWeights t.d.ctx row (s.rowWeights t row)
  s.scoreFinished t.uid

/-- A borrow's reply: the assignments it decides, counted, and the rows delivered (R151, R153); none when the outcome is unknown. -/
def State.borrowReply (s : State) (uid ix : Nat) (old : Option Nat) : State :=
  match s.stepOf uid with
  | none => s
  | some t =>
    match t.d.borrows[ix]? with
    | none => s
    | some b =>
      let pool := t.poolOf b
      let v := old.getD pool
      let s := s.modDisp uid fun d =>
        b.apply pool v { d with borrows := d.borrows.zipIdx.map fun x => if x.2 = ix then { x.1 with reply := some v } else x.1 }
      let s := (s.inc Reg.borrowGranted 0 (min b.items.length (pool - v))).inc Reg.borrowUnknown 0 (b2n old.isNone)
      if t.d.phase = 3 ∨ t.d.phase = 0 then s
      else
        let rows := (b.items.map (·.1)).eraseDups
        rows.foldl (fun s r => match s.disp uid with
          | some d => s.deliverRows t [r] ((d.row r).assigns.map fun a => (r, a.rank))
          | none => s) s

end Sys2Proof.Machine
end

