-- ==== Sys2Proof/Machine/Pour.lean ====
section
/-! DEFINITION. SRT and POR: sorting of delivery groups, dispatch packets, closes and return packets (R174 to R195). -/

set_option Elab.async false

set_option linter.unusedVariables false

namespace Sys2Proof.Machine

def binKey (half dest : Nat) : Nat := half * 2 ^ 13 + dest

/-! ## Sort (R174 to R176) -/

/-- The order of a group: destination index, expert, rank (R174). -/
def sortBefore (a b : BinEntry) : Bool :=
  if a.dest ≠ b.dest then decide (a.dest < b.dest)
  else if a.expert ≠ b.expert then decide (a.expert < b.expert)
  else decide (a.rank < b.rank)

/-- The entries that the bins of a sequencer hold (R176). -/
def State.binned (s : State) (seq : Nat) : Nat :=
  (s.disps.filter fun p => p.2.seq == seq).foldl (fun n p => n + p.2.bins.foldl (fun m b => m + b.2.length) 0) 0

/-- SRT sorts the next delivery group of a DISPATCH and appends it to its bins; a group that does not fit is held (R174, R176). -/
def State.sortGroup (s : State) (uid : Nat) : State :=
  match s.disp uid with
  | none => s
  | some d =>
    match d.groups with
    | [] => s
    | (half, g) :: rest =>
      if d.ended ∨ 16384 < s.binned d.seq + g.length then s
      else
        let bins := (sortBy sortBefore g).foldl (fun b e => Tab.put b (binKey half e.dest) (Tab.get [] b (binKey half e.dest) ++ [e])) d.bins
        (s.modDisp uid fun d => { d with groups := rest, bins := bins }).inc Reg.assignmentsSorted 0 g.length

/-! ## Dispatch packets (R177 to R182, R192, R219) -/

/-- The replica entry a bin entry goes to. -/
def Step.replicaOf (t : Step) (e : BinEntry) : Option Replica := (t.p.entries t.ly e.expert)[e.entry]?

/-- The offset of a copy in the destination's landing window (R179, R192). -/
def Step.copyOffset (t : Step) (half : Nat) (r : Replica) (e : BinEntry) : Nat :=
  (if e.overflow then r.poolWord + 1 else r.regionWord + (if half = 1 then r.quota * (t.ly.copyStride / 64) else 0)) * 64 +
    e.slot * t.ly.copyStride

/-- The flask a copy goes to (R192). -/
def flaskOf (half : Nat) (r : Replica) : Nat := r.flask + half

/-- The tag of a copy (R49). -/
def copyTag (node ctx heat row rank : Nat) : Nat :=
  node * 2 ^ 44 + ctx * 2 ^ 28 + heat % 2 ^ 12 * 2 ^ 16 + row * 2 ^ 4 + rank

/-- Bytes of n copies of a stride with their tag extension (R181). -/
def payloadBytes (n stride : Nat) : Nat := n * stride + (if n ≤ 1 then 0 else roundUp (8 * (n - 1)) 64)

/-- The tag extension of copies 1 to n − 1 (R181). -/
def tagExtension (tags : List Nat) : List Byte :=
  match tags with
  | [] => []
  | [_] => []
  | _ :: rest => slice (rest.flatMap (leBytes 8)) 0 (roundUp (8 * rest.length) 64)

/-- The entries at the head of a bin that one packet takes (R180): same flask, same Overflow, slots rising by one, at most 64 and 8 KiB. -/
def headRun (stride : Nat) : List BinEntry → List BinEntry
  | [] => []
  | e :: t => go stride e 1 t [e]
where
  /-- The run continued. -/
  go (stride : Nat) (last : BinEntry) (n : Nat) : List BinEntry → List BinEntry → List BinEntry
    | [], acc => acc.reverse
    | e :: t, acc =>
      if n < 64 ∧ e.expert = last.expert ∧ e.entry = last.entry ∧ e.overflow = last.overflow ∧ e.slot = last.slot + 1 ∧
          payloadBytes (n + 1) stride ≤ 8192 then
        go stride e (n + 1) t (e :: acc)
      else acc.reverse

/-- A copy counted as sent to a flask (R185). -/
def Disp.countSent (d : Disp) (half dest flask : Nat) (overflow : Bool) : Disp :=
  let hit := fun (c : SentCount) => c.half == half && c.dest == dest && c.flask == flask
  let add := fun (c : SentCount) => { c with copies := c.copies + b2n (!overflow), borrowed := c.borrowed + b2n overflow }
  if d.sent.any hit then { d with sent := d.sent.map fun c => if hit c then add c else c }
  else { d with sent := d.sent ++ [add { half := half, dest := dest, flask := flask, copies := 0, borrowed := 0 }] }

/-- Copies at the head of a bin that a kept record carries already: they count as sent, and no frame is built (R219). -/
def Step.stripHanded (t : Step) (half : Nat) : List BinEntry → Disp → List BinEntry × Disp
  | [], d => ([], d)
  | e :: rest, d =>
    if d.handed.contains (e.row, e.rank) then
      t.stripHanded half rest (match t.replicaOf e with
        | some r => d.countSent half e.dest (flaskOf half r) e.overflow
        | none => d)
    else (e :: rest, d)

/-- The bytes of one copy: the hidden row, and the rest of the stride, which the spec leaves open, free (log entry 32). -/
def State.copyBytes (s : State) (t : Step) (row : Nat) : List Byte × State :=
  let h := t.k.hiddenRow row
  let f := s.drawBytes (t.ly.copyStride - h.length)
  (h ++ f.1, f.2)

/-- The copies of a run as bytes, in slot order. -/
def State.runBytes (s : State) (t : Step) (run : List BinEntry) : List Byte × State :=
  run.foldl (fun acc e =>
    let b := acc.2.copyBytes t e.row
    (acc.1 ++ b.1, b.2)) ([], s)

/-- A pour frame of a DISPATCH, handed over on a way (R179). -/
def State.pourFrame (s : State) (t : Step) (node : Nat) (f : RFrame) (why : Purpose) (w : Route) : State :=
  s.launch node { frame := f, why := why, pace := 0, plan := t.d.plan, route := some w }

/-- The dispatch pour number of a half (R167). -/
def Layer.pourOf (ly : Layer) (half : Nat) : Nat := ly.dispatchPour + half

/-- Whether POR may hand over frames of a half now: the pour is armed, the command runs, and the drag half waits for the cope half's closes (R186, R192, R376). -/
def Disp.pours (d : Disp) (half : Nat) : Bool :=
  d.armed && !d.ended && (d.phase == 1 || d.phase == 2) && (half == 0 || bit d.closed 0)

/-- One packet of a run of copies, or a large copy in its segments, handed over (R178 to R182). -/
def State.handRun (s : State) (t : Step) (half node window : Nat) (run : List BinEntry) (r : Replica) (w : Route) : State :=
  match run with
  | [] => s
  | e :: _ =>
    let stride := t.ly.copyStride
    let tags := run.map fun e => copyTag s.nodeId t.d.ctx t.k.heat e.row e.rank
    let items := run.map fun e => (e.row, e.rank)
    let b := s.runBytes t run
    let s := b.2
    let frame := fun (off : Nat) (l : List Byte) => ({ cls := 0, src := s.nodeId, dst := node, ctx := t.d.ctx, heat := t.k.heat
                                                       window := window, offset := t.copyOffset half r e + off
                                                       op := t.ly.pourOf half, aux := tags.headD 0 % 2 ^ 28, payload := l } : RFrame)
    let s := if stride ≤ 8192 then
        let s := s.pourFrame t node (frame 0 (b.1 ++ tagExtension tags)) (.copies t.uid items half) w
        (s.inc Reg.dispatchPackets 0 1).inc Reg.coalescedPackets 0 (b2n (1 < run.length))
      else
        let segs := ceilDiv stride 8192
        let s := (List.range segs).foldl (fun s i =>
          s.pourFrame t node (frame (i * 8192) ((b.1.drop (i * 8192)).take 8192)) (.copies t.uid items half) w) s
        (s.inc Reg.dispatchPackets 0 segs).inc Reg.segmentedCopies 0 1
    let s := s.inc Reg.dispatchCopies 0 run.length
    s.modDisp t.uid fun d => { (run.foldl (fun d e => d.countSent half e.dest (flaskOf half r) e.overflow) d) with
      handed := d.handed ++ items, unacked := d.unacked + (if stride ≤ 8192 then 1 else ceilDiv stride 8192) }

/-- A lane takes the bin of a destination: its head copies go out in one packet once the peer takes frames and a runner is eligible (R178 to R183, R188). -/
def State.buildPacket (s : State) (t : Step) (half dest : Nat) : State :=
  if !t.d.pours half then s
  else
    let bin := Tab.get [] t.d.bins (binKey half dest)
    let st := t.stripHanded half bin t.d
    let s := s.modDisp t.uid fun _ => { st.2 with bins := Tab.set [] st.2.bins (binKey half dest) st.1 }
    match t.p.dests[dest]?, headRun t.ly.copyStride st.1 with
    | some ds, e :: run =>
      match t.replicaOf e with
      | none => s
      | some r =>
        let s := s.needPeer ds.node
        let segs := ceilDiv t.ly.copyStride 8192
        let p := s.peer ds.node
        if p.ready 0 && decide (p.data.sent.length + segs ≤ 4096) && decide (p.data.next + segs ≤ p.data.cumSettled + 4096) then
          let w := s.pickRunner t.d.plan ds.node 0
          match w.1 with
          | none => s
          | some way =>
            (w.2.modDisp t.uid fun d => { d with bins := Tab.set [] d.bins (binKey half dest) (st.1.drop (run.length + 1)) }).handRun
              t half ds.node ds.window (e :: run) r way
        else s
    | _, _ => s

/-! ## Closes (R185, R186) -/

/-- Whether every copy of a half has been handed over. -/
def Step.halfDone (t : Step) (half : Nat) : Bool :=
  decide (t.d.phase = 1 ∨ t.d.phase = 2) && (t.k.scoredRows.filter fun r => t.d.half r == half).all (fun r => (t.d.row r).delivered) &&
    t.d.groups.all (fun g => g.1 != half) && t.d.bins.all fun b => b.1 / 2 ^ 13 != half || b.2.isEmpty

/-- The nodes of live replica entries of the layer, in destination order, with their destination index (R185). -/
def Step.closeNodes (t : Step) : List (Nat × Dest) :=
  let nodes := (List.range t.ly.e).flatMap fun e => ((t.p.entries t.ly e).map (·.node)).filter fun n => !t.d.notLive.contains n && !t.d.gone.contains n
  (t.p.dests.zipIdx.filter fun d => nodes.contains d.1.node).map fun d => (d.2, d.1)

/-- The close payloads of a node: at most 1,023 entries a packet, the last one Final (R185). -/
def closePayloads (total : Nat) (entries : List SentCount) : List (List Byte) :=
  let groups := match chunks 1023 (entries.length + 1) entries with
    | [] => [[]]
    | g => g
  groups.zipIdx.map fun g =>
    leBytes 8 (total * 2 ^ 32 + g.1.length * 2 ^ 16 + b2n (g.2 + 1 == groups.length)) ++
      g.1.flatMap fun c => leBytes 8 (c.flask * 2 ^ 48 + c.copies * 2 ^ 36 + c.borrowed * 2 ^ 24)

/-- The closes of a half to one node, handed over in order; how many there were. -/
def State.closeNode (s : State) (t : Step) (half : Nat) (ix : Nat) (d : Dest) : State :=
  let entries := t.d.sent.filter fun c => c.half == half && c.dest == ix
  let total := entries.foldl (fun n c => n + c.copies + c.borrowed) 0
  (closePayloads total entries).foldl (fun s l =>
    let f : RFrame := { cls := 0, close := true, ackNow := true, src := s.nodeId, dst := d.node, ctx := t.d.ctx, heat := t.k.heat
                        window := d.window, op := t.ly.pourOf half, payload := l }
    let s := s.handOver d.node { frame := f, why := .close t.uid, pace := 0, plan := t.d.plan }
    (s.modDisp t.uid fun d => { d with unacked := d.unacked + 1 }).inc Reg.closePackets 0 1) s

/-- POR closes a half of a pour: after its last copy, or at once when its command has ended early (R185, R186). -/
def State.closePour (s : State) (t : Step) (half : Nat) : State :=
  let last := if t.d.splitAt = t.d.rows then 0 else 1
  let order := decide (half ≤ last) && !bit t.d.closed half && (half == 0 || bit t.d.closed 0)
  let begun := t.d.phase != 0 || (match s.block t.d.ctx with
    | some b => b.uid == t.uid
    | none => false)
  if order && begun && (t.d.ended || (t.d.pours half && t.halfDone half)) then
    let s := t.closeNodes.foldl (fun s d => s.closeNode t half d.1 d.2) s
    let s := s.modDisp t.uid fun d => { d with closed := setBit d.closed half }
    let s := s.trace 5 0x20 t.d.ctx t.k.heat (t.ly.pourOf half) ((t.d.sent.filter fun c => c.half == half).foldl (fun n c => n + c.copies) 0)
    if half = last then
      let s := match t.d.pourTally with
        | some n => s.tallyCredit t.d.ctx t.k.heat n 1
        | none => s
      s.endHold t.uid
    else s
  else s

/-! ## Return packets (R193 to R195) -/

/-- The key of a flask: PlanId · 2^16 + number. -/
def flaskKey (plan f : Nat) : Nat := plan * 2 ^ 16 + f
def State.flask (s : State) (key : Nat) : Flask := Tab.get {} s.flasks key
def State.modFlask (s : State) (key : Nat) (f : Flask → Flask) : State := { s with flasks := Tab.set {} s.flasks key (f (s.flask key)) }

/-- The hosted flask entry and plan of a key. -/
def State.hosted (s : State) (key : Nat) : Option (Plan × Hosted) :=
  match s.plan (key / 2 ^ 16) with
  | none => none
  | some p => (p.flasks[key % 2 ^ 16]?).map fun h => (p, h)

/-- The return pour of a flask (R167). -/
def Plan.returnPourOf (p : Plan) (h : Hosted) : Nat := match p.layers[h.layer]? with
  | some ly => ly.returnPour + b2n h.drag
  | none => 0

/-- Answer bytes A of a flask's layer (R298, R303). -/
def Plan.answerBytes (p : Plan) (h : Hosted) : Nat := match p.layers[h.layer]? with
  | some ly => rowBytes64 ly.answerFmt ly.hiddenDim
  | none => 64

/-- The tag of answer i of a flask. -/
def Flask.tagOf (f : Flask) (i : Nat) : Nat := match f.rows[i]? with
  | some slot => Tab.get 0 f.tags slot
  | none => 0

/-- How many answers from i on go in one packet (R194). -/
def Flask.answerRun (f : Flask) (a ready i : Nat) : Nat :=
  let node := f.tagOf i / 2 ^ 44
  let ok := fun n => decide (i + n < ready) && f.tagOf (i + n) / 2 ^ 44 == node && decide (n < 64) && decide (payloadBytes (n + 1) a ≤ 8192)
  1 + (((List.range 63).map (· + 1)).takeWhile ok).length

/-- The on-chip location of answer i of a flask (R194, R275). -/
def State.answerAddr (s : State) (p : Plan) (h : Hosted) (i : Nat) : Option Nat :=
  (s.hostWindow p.host h.answerWindow).map fun w => s.rd Reg.winTarget w + h.answerWord * 64 + i * h.answerStride

/-- The source record of a node in a flask's use. -/
def Plan.sourceIndex (p : Plan) (h : Hosted) (node : Nat) : Option Nat :=
  match Tab.find p.sources h.sourceList with
  | none => none
  | some l => l.sources.findIdx? fun (x : Source) => x.node == node

/-- A lane builds the next return packet of a flask, or its segments, and hands it over; answers to a Dead source are passed over (R193 to R195, R247). -/
def State.buildReturn (s : State) (key : Nat) : State :=
  match s.hosted key with
  | none => s
  | some (p, h) =>
    let f := s.flask key
    let i := f.nextAnswer
    let ready := min f.rows.length (if s.tallyBad.contains h.returnTally then 0 else s.tally h.returnTally)
    if f.state ≠ 2 ∨ ready ≤ i then s
    else
      let a := p.answerBytes h
      let node := f.tagOf i / 2 ^ 44
      if (s.peer node).state = 4 then s.modFlask key fun f => { f with nextAnswer := f.nextAnswer + 1 }
      else
        let n := if a ≤ 8192 then f.answerRun a ready i else 1
        let s := s.needPeer node
        let segs := ceilDiv a 8192
        let q := s.peer node
        let use := match p.sourceIndex h node with
          | some ix => (Tab.get ({} : SourceUse) f.srcs ix).ctxHeat.getD (0, 0)
          | none => (0, 0)
        match s.answerAddr p h i with
        | none => s
        | some addr =>
          if q.ready 0 && decide (q.data.sent.length + segs ≤ 4096) && decide (q.data.next + segs ≤ q.data.cumSettled + 4096) then
            let w := s.pickRunner (key / 2 ^ 16) node 1
            match w.1 with
            | none => s
            | some way =>
              let s := w.2
              let data := (List.range n).flatMap fun j => s.memRead (addr + j * h.answerStride) a
              let tags := (List.range n).map fun j => f.tagOf (i + j)
              let frame := fun (off : Nat) (l : List Byte) =>
                ({ cls := 0, ret := true, src := s.nodeId, dst := node, ctx := use.1, heat := use.2, window := 0xFFFF, offset := off
                   op := p.returnPourOf h, aux := tags.headD 0 % 2 ^ 28, payload := l } : RFrame)
              let go := fun (s : State) (f : RFrame) =>
                s.launch node { frame := f, why := .answers key i n, pace := 1, plan := key / 2 ^ 16, route := some way }
              let s := if a ≤ 8192 then
                  (go s (frame 0 (data ++ tagExtension tags))).inc Reg.coalescedPackets 0 (b2n (1 < n))
                else
                  ((List.range segs).foldl (fun s g => go s (frame (g * 8192) ((data.drop (g * 8192)).take 8192))) s).inc Reg.segmentedCopies 0 1
              let s := (s.inc Reg.returnPackets 0 segs).inc Reg.answersReturned 0 n
              s.modFlask key fun f => { f with nextAnswer := f.nextAnswer + n, answersLeft := f.answersLeft + segs }
          else s

end Sys2Proof.Machine
end

