-- ==== Sys2Proof/Machine/Ports.lean ====
section
/-! DEFINITION. PRT: frames on the wire, pacing and the transmit arbiter, link events, forwarding, flow control and the survey (R187 to R189, R234 to R242, R253 to R271, R556). -/

set_option Elab.async false

set_option linter.unusedVariables false

namespace Sys2Proof.Machine

/-! ## Rates (R187, R190, R253) -/

/-- Bytes per tick of a PortMode. -/
def modeBytes (m : Nat) : Nat := if m = 0 then 3200 else if m = 1 then 1600 else 800
def State.portRate (s : State) (p : Nat) : Nat := modeBytes (s.rd Reg.portMode p) * 256

/-- RateQ of a plan budget (R187). -/
def rateQ (bytes w : Nat) : Nat := bytes * 256 / max 1 w

/-- The share object of a pacing class 2 to 6. -/
def shareOf (pace : Nat) : Obj :=
  if pace = 2 then Reg.collShare else if pace = 3 then Reg.xferShare else if pace = 4 then Reg.mgmtShare
  else if pace = 5 then Reg.controlShare else Reg.forwardShare

def State.shares (s : State) (p : Nat) : Nat := ([2, 3, 4, 5, 6].map fun c => s.rd (shareOf c) p).foldl (· + ·) 0

/-- The dispatch and return budgets of a plan on a port, as RateQ. -/
def Plan.portRates (p : Plan) (port : Nat) : Nat × Nat :=
  let b := p.budgets.getD port (0, 0)
  (rateQ b.1 p.window, rateQ b.2 p.window)

/-- CommittedRate of a port (R190): budgets of resident plans and the five shares. -/
def State.committed (s : State) (p : Nat) : Nat :=
  s.shares p + (s.plans.filter fun q => q.2.state == 2 || q.2.state == 3).foldl (fun n q =>
    n + (q.2.portRates p).1 + (q.2.portRates p).2) 0

/-- The rate at which a plan bucket fills. -/
def State.planRate (s : State) (key : Nat) : Nat :=
  match s.plan (key % 2 ^ 32 / 2 ^ 8) with
  | none => 0
  | some p => if 2 ^ 32 ≤ key then (p.portRates (key % 2 ^ 8)).2 else (p.portRates (key % 2 ^ 8)).1

def State.pathRate (s : State) (key : Nat) : Nat :=
  match s.plan (key / 2 ^ 12) with
  | none => 0
  | some p => rateQ (p.buckets.getD (key % 2 ^ 12) 0) p.window

/-- A table of buckets after one tick: each adds its rate, a full one is not listed. -/
def fillBuckets (t : Tab Int) (rate : Nat → Nat) : Tab Int :=
  (Tab.mapVals t fun k v => v + (rate k : Nat)).filter fun p => decide (p.2 < bucketFull)

/-- The frames due on a port, with their pacing class, plan and way. -/
def State.dueOn (s : State) (p : Nat) : List SendRec :=
  let here := fun (r : SendRec) => r.due && match r.route with
    | some w => w.port == p
    | none => false
  (s.peers.flatMap fun q => ((q.2.data.sent ++ q.2.atomic.sent ++ q.2.coll.sent).map (·.2)).filter here) ++ s.control.filter here

/-- One tick of pacing: HeldTicks and PfcPausedTicks count, and every bucket adds its rate (R187, 0x2120.08, 0x3120.0E). -/
def State.paceTick (s : State) : State :=
  let s := s.ports.foldl (fun s q =>
    let held := (s.dueOn q.1).any fun r => match r.route with
      | some w => !s.bucketsOk r.pace r.plan w
      | none => false
    let s := if held || (!q.2.transit.isEmpty && decide (s.classBucket 6 0 q.1 < 0)) then s.inc Reg.heldTicks q.1 1 else s
    if q.2.paused.isEmpty then s else s.inc Reg.pfcPausedTicks q.1 1) s
  { s with
    planBuckets := fillBuckets s.planBuckets s.planRate
    pathBuckets := fillBuckets s.pathBuckets s.pathRate
    ports := Tab.mapVals s.ports fun p q => { q with buckets := fillBuckets q.buckets fun c => s.rd (shareOf c) p } }

/-- The buckets of a frame lowered by its wire bytes; control frames that overdraw their share are counted (R187, R189). -/
def State.drawDown (s : State) (pace plan : Nat) (r : Route) (wire : Nat) : State :=
  let q : Int := (wire * 256 : Nat)
  let s := if pace ≤ 1 then
      let key := planBucketKey plan r.port (pace == 1)
      { s with planBuckets := Tab.set bucketFull s.planBuckets key (s.planBucket plan r.port (pace == 1) - q) }
    else
      let old := Tab.get bucketFull (s.portRec r.port).buckets pace
      let drawn := min wire ((q - old).toNat / 256)
      let s := s.modPort r.port fun p => { p with buckets := Tab.set bucketFull p.buckets pace (old - q) }
      if pace = 5 ∧ old < q then s.inc Reg.controlOverdraft r.port drawn else s
  match r.bucket with
  | none => s
  | some b => { s with pathBuckets := Tab.set bucketFull s.pathBuckets (pathBucketKey b.1 b.2) (s.pathBucket b.1 b.2 - q) }

/-! ## Frames on the wire (R256 to R262) -/

/-- The bytes of an OCTETS object. -/
def State.octets (s : State) (o : Obj) (i : Nat) : List Byte := leBytes o.len (s.rd o i)

/-- The IPv6 address of a node (R257). -/
def State.nodeAddr (s : State) (n : Nat) : List Byte := s.octets Reg.fabricPrefix 0 ++ beBytes 8 (n % 2 ^ 20)

/-- The segment routing header toward a node (R262). -/
def State.srh (s : State) (e : PathEntry) (dst : Nat) : List Byte :=
  let ways := [e.a, e.b, e.c].take e.waypoints
  let n := ways.length + 1
  ([17, 2 * n, 4, n - 1, n - 1, 0, 0, 0].map fun x => BitVec.ofNat 8 x) ++ s.nodeAddr dst ++
    ways.reverse.flatMap fun i => s.octets Reg.segment i

/-- A whole frame as it leaves a port: MAC header, tag, network headers, runner frame, padding and FCS (R254 to R262). -/
def State.wireFrame (s : State) (port pcp : Nat) (e : PathEntry) (hop : Nat) (f : RFrame) : List Byte :=
  let mac := s.octets Reg.nextHopMac port ++ s.octets Reg.portMac port ++ beBytes 2 0x8100 ++
    beBytes 2 (pcp * 2 ^ 13 + s.rd Reg.vlanId port % 2 ^ 12)
  let body := f.bytes
  let net := if e.kind = 0 then beBytes 2 (s.rd Reg.rawEtherType 0) ++ body
    else
      let udp := beBytes 2 e.udpSource ++ beBytes 2 (s.rd Reg.runnerUdpPort 0) ++ beBytes 2 (8 + body.length) ++ beBytes 2 0 ++ body
      let srh := if e.kind = 2 then s.srh e f.dst else []
      let dst := if e.kind = 2 then s.octets Reg.segment e.a else s.nodeAddr f.dst
      beBytes 2 0x86DD ++ beBytes 4 (6 * 2 ^ 28 + (e.dscp * 4 + s.rd Reg.ecnMark 0 % 4) * 2 ^ 20 + e.flowLabel) ++
        beBytes 2 (srh.length + udp.length) ++ beBytes 1 (if e.kind = 2 then 43 else 17) ++ beBytes 1 hop ++
        s.nodeAddr s.nodeId ++ dst ++ srh ++ udp
  let l := mac ++ net
  let l := l ++ List.replicate (60 - l.length) 0
  l ++ leBytes 4 (checkFinish 1 (checkRun 1 (checkInit 1) l))

/-! ## Forwarding (R237 to R239) -/

/-- The forward entry of a node in a table version. -/
def State.forwardOf (s : State) (v node : Nat) : Option Forward :=
  match Tab.find s.versions v with
  | none => none
  | some t => t.forwards.find? fun (e : Forward) => e.node == node

/-- The pair (buffer class, subclass) of a frame this engine originates, as a PCP (R238, R258). -/
def State.originPcp (s : State) (v : Nat) (raw : Bool) (f : RFrame) : Nat :=
  let line := match s.forwardOf v f.dst with
    | some e => e.dateline
    | none => false
  2 * bufferClass f.cls + b2n (raw && line)

/-- Whether a credit of a pair is free at the neighbour; a frame for the neighbour itself needs none (R239). -/
def State.hopCredit (s : State) (port pcp dst : Nat) : Bool :=
  if dst = Config.neighbour port then true
  else
    let q := s.portRec port
    let out := (Tab.get 0 q.creditUsed pcp + 256 - Tab.get 0 q.creditSeen pcp % 256) % 256
    decide (out < s.rd Reg.forwardDepth 0)

/-- A credit of a pair used. -/
def State.useCredit (s : State) (port pcp dst : Nat) : State :=
  if dst = Config.neighbour port then s
  else s.modPort port fun q => { q with creditUsed := Tab.set 0 q.creditUsed pcp ((Tab.get 0 q.creditUsed pcp + 1) % 256) }

/-- The transit buffers of a pair of an input port in use. -/
def State.transitHeld (s : State) (port pcp : Nat) : Nat :=
  s.ports.foldl (fun n q => n + (q.2.transit.filter fun t => t.1 == pcp && t.2.2.1 == port).length) 0

/-- A transit buffer of an input port freed: a hop credit frame is due (R239). -/
def State.freeTransit (s : State) (port pcp : Nat) : State :=
  s.modPort port fun q => { q with freed := Tab.set 0 q.freed pcp ((Tab.get 0 q.freed pcp + 1) % 256), creditDue := true }

/-- The hop credit frame of a port (R239). -/
def State.hopCreditFrame (s : State) (port : Nat) : RFrame :=
  let q := s.portRec port
  RFrame.seal { cls := 3, src := s.nodeId, dst := 0, payload := (List.range 8).map fun i => BitVec.ofNat 8 (Tab.get 0 q.freed i) }

/-! ## The transmit arbiter (R189, R234, R243, R265) -/

/-- What the arbiter can start: a frame of a flow, a control frame, a transit frame, or a hop credit frame. -/
inductive Start where
  | flow (node c k : Nat) (r : SendRec)
  | control (r : SendRec)
  | transit (inPair outPair inPort ord : Nat) (f : RFrame)
  | credit

def State.priorityFree (s : State) (port pcp : Nat) : Bool := (Tab.find (s.portRec port).paused pcp).isNone

/-- The path entry of a way in the Active version; a survey probe has its own (R263). -/
def State.pathEntry (s : State) (r : SendRec) (w : Route) : Option PathEntry :=
  match r.udpSrc with
  | some u => some { kind := 1, waypoints := 0, a := 0, b := 0, c := 0, udpSource := u.1, flowLabel := Config.freeValue s.free % 2 ^ 20
                     dscp := Config.freeValue (s.free + 1) % 2 ^ 6, rsvd := 0 }
  | none => match s.activeTable with
    | some t => t.paths[w.path]?
    | none => none

/-- Whether a frame of this engine may start on its way now. -/
def State.canStart (s : State) (port : Nat) (r : SendRec) : Bool :=
  match r.route with
  | none => false
  | some w =>
    match s.pathEntry r w with
    | none => false
    | some e =>
      let pcp := s.originPcp (s.rd Reg.activeVersion 0) (e.kind == 0) r.frame
      r.due && w.port == port && s.bucketsOk r.pace r.plan w && s.priorityFree port pcp &&
        (!s.quiet || (r.frame.cls == 5 && r.frame.op == 1)) && (e.kind != 0 || s.hopCredit port pcp r.frame.dst)

/-- The oldest frame of a pacing class that may start on a port. -/
def State.nextStart (s : State) (port pace : Nat) : Option Start :=
  let q := s.portRec port
  if pace = 6 then
    (q.transit.find? fun t => decide (0 ≤ s.classBucket 6 0 port) && s.priorityFree port t.2.1 && s.hopCredit port t.2.1 t.2.2.2.2.dst).map
      fun t => .transit t.1 t.2.1 t.2.2.1 t.2.2.2.1 t.2.2.2.2
  else
    let ok := fun (r : SendRec) => r.pace == pace && s.canStart port r
    let flows := s.peers.flatMap fun p => [0, 1, 4].flatMap fun c =>
      ((p.2.flow c).sent.filter fun e => ok e.2).map fun e => (e.2.ord, Start.flow p.1 c e.1 e.2)
    let ctl := (s.control.filter ok).map fun r => (r.ord, Start.control r)
    match bestBy (fun (a b : Nat × Start) => decide (a.1 < b.1)) (flows ++ ctl) with
    | some x => some x.2
    | none => if pace = 5 ∧ q.creditDue ∧ !s.quiet ∧ s.priorityFree port 4 then some .credit else none

/-- A frame leaves a port: counted, and its bytes cross the boundary. -/
def State.transmit (s : State) (port cls dst : Nat) (l : List Byte) : State :=
  ((s.inc Reg.txFrames port 1).inc Reg.txBytes port l.length).emit (.frame port cls dst l)

/-- A frame counted in its epoch (R235). -/
def State.inEpoch (s : State) (port epoch node : Nat) (f : RFrame) : State :=
  s.modPort port fun q => { q with inFlight := q.inFlight ++ [(epoch, s.tick, node, f.cls, f.seq)] }

/-- An armed injection into the header CRC or trailer of the next frame to a peer (R479). -/
def State.injectFrame (s : State) (f : RFrame) : RFrame × State :=
  match s.inject with
  | none => (f, s)
  | some j =>
    if j.source = 0x06FF ∧ j.word = f.dst ∧ (bit j.mask 0 ∨ f.length ≠ 0) then
      ({ f with headerCrc := if bit j.mask 0 then 0xFFFF - f.headerCrc else f.headerCrc
                trailer := if bit j.mask 1 then 0xFFFFFFFF - f.trailer else f.trailer },
        { s with inject := none }.wr Reg.injectState 0 2)
    else (f, s)

/-- A frame of this engine starts: stamped, counted, drawn on its buckets (R187, R234, R235). -/
def State.startOwn (s : State) (port : Nat) (r : SendRec) (w : Route) : State :=
  match s.pathEntry r w with
  | none => s
  | some e =>
    let v := s.rd Reg.activeVersion 0
    let pcp := s.originPcp v (e.kind == 0) r.frame
    let fi := s.injectFrame (RFrame.seal { r.frame with epoch := v % 2 })
    let f := fi.1
    let s := fi.2
    let hop := match r.udpSrc with
      | some u => u.2
      | none => s.rd Reg.hopLimit 0
    let l := s.wireFrame port pcp e hop f
    let s := (s.inc Reg.framesSent 0 1).inc Reg.retransmits 0 (b2n (0 < r.sends))
    let s := s.drawDown r.pace r.plan w (l.length + 20)
    let s := if e.kind = 0 then s.useCredit port pcp f.dst else s
    let s := if r.udpSrc.isSome then { s with free := s.free + 2 } else s
    (s.inEpoch port (v % 2) f.dst f).transmit port f.cls f.dst l

/-- The start of what the arbiter chose. -/
def State.start (s : State) (port : Nat) : Start → State
  | .flow node c k r =>
    match r.route with
    | none => s
    | some w =>
      let r' := { r with due := false, lastTick := s.tick, sends := r.sends + 1 }
      let s := s.startOwn port { r with frame := { r.frame with retry := decide (0 < r.sends) } } w
      let s := s.modPeer node fun p => p.modFlow c fun f => { f with sent := Tab.put f.sent k r' }
      if c = 1 then
        { s with atomReqs := Tab.modify s.atomReqs (reqKey node r.frame.seq) fun q => { q with tick := s.tick } }
      else s
  | .control r =>
    match r.route with
    | none => s
    | some w =>
      let s' := s.startOwn port r w
      { s' with control := s.control.filter (fun x => x.ord != r.ord)
                surveyTick := if r.udpSrc.isSome && r.frame.op == 0x20 then s.tick else s'.surveyTick }
  | .transit inPair outPair inPort ord f =>
    let l := s.wireFrame port outPair { kind := 0, waypoints := 0, a := 0, b := 0, c := 0, udpSource := 0, flowLabel := 0, dscp := 0, rsvd := 0 } 0 f
    let s := s.modPort port fun q => { q with transit := q.transit.filter fun t => t.2.2.2.1 != ord }
    let s := (s.freeTransit inPort inPair).drawDown 6 0 { port := port, path := 0 } (l.length + 20)
    let s := ((s.useCredit port outPair f.dst).inc Reg.forwardedFrames port 1).inEpoch port f.epoch (2 ^ 20) f
    s.transmit port f.cls f.dst l
  | .credit =>
    let f := RFrame.seal { s.hopCreditFrame port with epoch := s.rd Reg.activeVersion 0 % 2 }
    let l := s.wireFrame port 4 { kind := 0, waypoints := 0, a := 0, b := 0, c := 0, udpSource := 0, flowLabel := 0, dscp := 0, rsvd := 0 } 0 f
    let s := s.modPort port fun q => { q with creditDue := false }
    let s := (s.drawDown 5 0 { port := port, path := 0 } (l.length + 20)).inc Reg.framesSent 0 1
    (s.inEpoch port f.epoch (2 ^ 20) f).transmit port 3 0 l

/-- Whether PRT and RTT send frames on a port now. -/
def State.sends (s : State) (port : Nat) : Bool :=
  s.portUp port && s.rb Reg.transportEnable 0 && s.works 6 && s.works 7

/-- One turn of a port's arbiter: the first class in turn with an eligible frame (R189). -/
def State.frameStart (s : State) (port : Nat) : State :=
  if !s.sends port then s
  else
    match roundRobin 7 (s.portRec port).classPtr fun c => (s.nextStart port c).isSome with
    | none => s
    | some c => match s.nextStart port c with
      | none => s
      | some x => (s.modPort port fun q => { q with classPtr := (c + 1) % 7 }).start port x

/-! ## Link events (R268, R269, R556) -/

/-- A link event record in PRT's history queue (R556). -/
def State.linkEvent (s : State) (port code : Nat) : State :=
  (s.recordEvent
    { source := 0x0740, cls := 0, reaction := 6, promoted := false, ctxValid := false, host := 0, ctx := 0, heat := 0
      tick := s.tick, status := 0, detailA := port * 2 ^ 8 + code, detailB := 0 }).wr Reg.linkEventPending 0 1

/-- The lanes a mode uses as a mask (R253, R267). -/
def State.usedLanes (s : State) (p : Nat) : Nat :=
  if s.rd Reg.portMode p = 2 then (if s.rb Reg.laneSwap p then 2 else 1) else 3

/-- Every used lane holds lock, and the port alignment and FEC lock (R268). -/
def State.locked (s : State) (p : Nat) : Bool :=
  let q := s.portRec p
  (q.laneLock &&& s.usedLanes p) == s.usedLanes p && q.align && q.fec

/-- Buffers of a closed or restarted port given back to LDL (R239). -/
def State.freeHopBufs (s : State) (p : Nat) : State :=
  ((s.portRec p).hopBufs.foldl (fun s h => s.freeBuffer h 6) s).modPort p fun q => { q with hopBufs := [] }

/-- The transit buffers of a port taken from LDL at link-up when the engine forwards: ForwardDepth for each pair (R239, R392). -/
def State.takeHopBufs (s : State) (p : Nat) : State :=
  if s.rb Reg.forwardEnable 0 then
    (List.range (8 * s.rd Reg.forwardDepth 0)).foldl (fun s _ =>
      let r := s.request 6 3
      match r.1 with
      | none => s
      | some h => r.2.modPort p fun q => { q with hopBufs := h :: q.hopBufs }) s
  else s

/-- Every outstanding frame last sent on a port is due for resend at once, and none waits for it (R214). -/
def State.resendPort (s : State) (p : Nat) : State :=
  let mark := fun (r : SendRec) => match r.route with
    | some w => if w.port = p then { r with due := true, route := none } else r
    | none => r
  let fl := fun (f : SendFlow) => { f with sent := Tab.mapVals f.sent fun _ r => mark r }
  let gone := fun (r : SendRec) => match r.route with
    | some w => w.port == p
    | none => false
  { s with
    peers := Tab.mapVals s.peers fun _ q => { q with data := fl q.data, atomic := fl q.atomic, coll := fl q.coll }
    control := s.control.filter fun r => !gone r }

/-- A port goes down (R269): its frames are due again, its buckets full, its transit buffers freed. -/
def State.portDown (s : State) (p code : Nat) : State :=
  if !s.portUp p then s
  else
    let drops := (s.portRec p).transit
    let s := drops.foldl (fun s t => s.freeTransit t.2.2.1 t.1) s
    let s := s.inc Reg.forwardDrops p drops.length
    let s := s.modPort p fun q => { q with
      up := false, lossTick := none, lossCode := 0, fecCount := 0, buckets := [], transit := [], paused := [], creditUsed := []
      creditSeen := [], freed := [], creditDue := false, classPtr := 0 }
    let s := { s with
      planBuckets := s.planBuckets.filter fun b => b.1 % 2 ^ 8 != p }
    let s := ((s.resendPort p).freeHopBufs p).inc Reg.linkDownEvents p 1
    s.linkEvent p code

/-- A port whose lanes have held for LinkUpTicks comes up (R268, R269). -/
def State.linkUp (s : State) (p : Nat) : State :=
  let q := s.portRec p
  if p < s.variant.ports ∧ s.works 7 ∧ s.rb Reg.portEnable p ∧ !q.up ∧ q.resetTick.isNone ∧ s.locked p ∧
      s.elapsed q.lockTick (s.rd Reg.linkUpTicks p) then
    let s := s.modPort p fun q => { q with
      up := true, lossTick := none, fecCount := 0, fecStart := s.tick, creditUsed := [], creditSeen := [], freed := [] }
    let s := { (s.takeHopBufs p) with firstUp := match s.firstUp with
      | some t => some t
      | none => some s.tick }
    s.linkEvent p 1
  else s

/-- Every used lane of a port gains its locks: a pending loss ends, the hold begins (R268). -/
def State.laneLock (s : State) (p : Nat) : State :=
  let q := s.portRec p
  if s.rb Reg.portEnable p ∧ q.resetTick.isNone ∧ !s.locked p then
    s.modPort p fun q => { q with
      laneLock := s.usedLanes p, align := true, fec := true, lockTick := s.tick, lossTick := none, lossCode := 0 }
  else s

/-- A lock is lost on a lane: 0 loss of signal, 1 alignment, 2 FEC lock (R268). -/
def State.lockLoss (s : State) (p lane kind : Nat) : State :=
  if bit (s.usedLanes p) lane ∧ s.rb Reg.portEnable p then
    s.modPort p fun q =>
      let q := if kind = 0 then { q with laneLock := clearBit q.laneLock lane } else if kind = 1 then { q with align := false }
        else { q with fec := false }
      if q.lossTick.isSome then q else { q with lossTick := some s.tick, lossCode := if kind = 0 then 2 else 3 }
  else s

/-- A loss that has persisted for LinkDownTicks takes the port down (R268). -/
def State.linkDown (s : State) (p : Nat) : State :=
  match (s.portRec p).lossTick with
  | none => s
  | some t => if s.elapsed t (s.rd Reg.linkDownTicks p) then s.portDown p (s.portRec p).lossCode else s

/-- Codewords corrected and not correctable on a port; FecDownThreshold of the latter within 31,250 ticks take it down (R268). -/
def State.fecWords (s : State) (p corrected bad : Nat) : State :=
  if !s.portUp p then s
  else
    let s := (s.inc Reg.fecCorrected p corrected).inc Reg.fecUncorrectable p bad
    let q := s.portRec p
    let q := if s.elapsed q.fecStart 31250 then { q with fecStart := s.tick, fecCount := bad } else { q with fecCount := q.fecCount + bad }
    let s := s.modPort p fun _ => q
    let n := s.rd Reg.fecDownThreshold p
    if n ≠ 0 ∧ n ≤ q.fecCount then s.portDown p 4 else s

/-- PortStatus (08, PortStatus). -/
def State.portStatus (s : State) (p : Nat) : Nat :=
  let q := s.portRec p
  b2n q.up + q.laneLock * 2 + b2n q.align * 8 + b2n q.fec * 16 + s.rd Reg.portMode p % 4 * 32 +
    (q.paused.foldl (fun n e => setBit n e.1) 0) * 2 ^ 16 + q.xoff * 2 ^ 24

/-! ## Flow control (R255, R265) -/

/-- The end of a pause of a number of quanta of 512 bit times, begun now. -/
def State.pauseEnd (s : State) (p quanta : Nat) : Nat := tickAdd s.tick (ceilDiv (quanta * 64) (modeBytes (s.rd Reg.portMode p)))

/-- The priorities a PFC frame names, paused or freed. -/
def State.pfc (s : State) (p enable : Nat) (quanta : List Nat) : State :=
  if s.rb Reg.pfcEnable p then
    (bitList 8 enable).foldl (fun s i =>
      let n := quanta.getD i 0
      s.modPort p fun q => { q with paused := if n = 0 then Tab.drop q.paused i else Tab.put q.paused i (s.pauseEnd p n) }) s
  else s.inc Reg.pauseIgnored p 1

def State.pauseOver (s : State) (p i : Nat) : State :=
  match Tab.find (s.portRec p).paused i with
  | none => s
  | some t => if tickReached s.tick t then s.modPort p fun q => { q with paused := Tab.drop q.paused i } else s

/-! ## Reception (R259, R266) -/

/-- Whether a port takes frames now. -/
def State.receives (s : State) (p : Nat) : Bool := s.portUp p && s.works 7

/-- A frame with a good FCS counted (R271). -/
def State.rxCount (s : State) (rx : Rx) : State :=
  ((s.inc Reg.rxFrames rx.port 1).inc Reg.rxBytes rx.port rx.bytes).inc Reg.ecnCe rx.port (b2n (rx.ce && !rx.raw))

/-- A frame dropped before its class is known: 0 FCS, 1 length, 2 tag, 3 type, 4 address, 5 SRH, 6 header CRC, 7 receive FIFO full (R203, R255, R259, R265). -/
def State.dropFrame (s : State) (rx : Rx) (reason : Nat) : State :=
  if !s.receives rx.port then s
  else if reason = 0 then s.inc Reg.fcsErrors rx.port 1
  else if reason = 7 then (if s.rb Reg.pfcEnable rx.port then s else (s.inc Reg.rxFifoDrops rx.port 1).linkEvent rx.port 6)
  else
    let s := s.rxCount rx
    if reason = 1 then s.inc Reg.oversize rx.port 1
    else if reason = 2 then s.inc Reg.tagErrors rx.port 1
    else if reason = 3 then s.inc Reg.unknownType rx.port 1
    else if reason = 4 then s.inc Reg.portNotForMe rx.port 1
    else if reason = 5 then s.inc Reg.srhErrors rx.port 1
    else s.inc Reg.headerCrcErrors 0 1

/-! ## The survey (R263, R264) -/

/-- Where n bytes lie at an address resolved in the engine's own windows. -/
def State.engineXlt (s : State) (a n : Nat) : Option Nat :=
  (engineSlots.find? fun w => s.rb Reg.winEnable w && decide (s.rd Reg.winHostBase w ≤ a) &&
    decide (a + n ≤ s.rd Reg.winHostBase w + s.rd Reg.winLength w) && bit (s.rd Reg.winPerm w) 1).map
    fun w => s.rd Reg.winTarget w + (a - s.rd Reg.winHostBase w)

/-- One probe of a survey, with its source port and hop limit, queued for SurveyPort (R263). -/
def State.probeRec (s : State) (port : Nat) (p : Nat × Nat) : SendRec :=
  { frame := { cls := 5, src := s.nodeId, dst := s.rd Reg.surveyNode 0, op := 0x20 }
    why := .plain, pace := 4, route := some { port := port, path := 0 }, firstTick := s.tick, lastTick := s.tick, ord := s.queueSeq, udpSrc := some p }

def State.queueProbe (port : Nat) (s : State) (p : Nat × Nat) : State :=
  { s.nextOrd.2 with control := s.nextOrd.2.control ++ [s.probeRec port p] }

/-- A survey starts: its probes queue for SurveyPort in the order of source port, then hop limit (R263). -/
def State.surveyGo (s : State) : State :=
  let first := s.rd Reg.surveyPortFirst 0
  let us := (List.range (s.rd Reg.surveyPortCount 0)).map (· + first)
  let ls := (List.range (s.rd Reg.surveyHops 0)).map (· + 1)
  let all := us.flatMap fun u => ls.map fun l => (u, l)
  let port := s.rd Reg.surveyPort 0
  let s := (s.wr Reg.surveyState 0 1).wr Reg.surveyRecords 0 0
  let s := { s with probesSent := all, surveyTick := s.tick }
  all.foldl (State.queueProbe port) s

/-- The probes that still wait for their port. -/
def State.probesDue (s : State) : Bool := s.control.any fun r => r.udpSrc.isSome && r.frame.op == 0x20

/-- SurveyWaitTicks after the last probe the survey is done (R264). -/
def State.surveyDone (s : State) : State :=
  if s.rd Reg.surveyState 0 = 1 ∧ !s.probesDue ∧ s.elapsed s.surveyTick (s.rd Reg.surveyWaitTicks 0) then s.wr Reg.surveyState 0 2 else s

/-- A result record of the running survey (R264). -/
def State.surveyRecord (s : State) (responder u hop : Nat) : State :=
  if s.rd Reg.surveyState 0 ≠ 1 ∨ !(s.probesSent.any fun p => p.1 == u) then s
  else
    let n := s.rd Reg.surveyRecords 0
    if s.rd Reg.surveyResultMax 0 ≤ n then s.inc Reg.surveyLost (s.rd Reg.surveyPort 0) 1
    else
      match s.engineXlt (s.rd Reg.surveyResultAddr 0 + 32 * n) 32 with
      | none => s.wr Reg.surveyState 0 0x10
      | some a => (s.memWrite a (leBytes 32 (responder % 2 ^ 128 * 2 ^ 128 + s.tick * 2 ^ 80 + u % 2 ^ 16 * 2 ^ 64 + hop % 2 ^ 8 * 2 ^ 56))).inc
          Reg.surveyRecords 0 1

end Sys2Proof.Machine
end

