-- ==== Sys2Proof/Machine/Arrive.lean ====
section
/-! DEFINITION. Arrival of a runner frame: the checks of R203, forwarding, and the ends a frame can meet at its destination (R203 to R212, R237 to R239, R249). -/

set_option Elab.async false

set_option linter.unusedVariables false

namespace Sys2Proof.Machine

/-! ## Form (R197, R201) -/

/-- The handshakes and messages of class MGMT (R201). -/
def mgmtOps : List Nat := [1, 2, 3, 4, 5, 6, 7, 8, 9, 0x10, 0x20, 0x21]

/-- Whether a frame's flags, Op and Aux are what its class allows, with its rsvd bits zero (R201, check 2 of R203). -/
def RFrame.wellFormed (f : RFrame) : Bool :=
  f.version == 1 && f.length ≤ 8192 &&
  match f.cls with
  | 0 =>
    if f.store then !f.close && !f.ret && f.op == 0 && f.aux &&& 0xFFF == 0
    else if f.close then !f.ret && f.aux == 0
    else f.aux &&& 0x30000000 == 0
  | 1 => !f.close && !f.ret && !f.store &&
    (let o := f.op / 2 ^ 12 % 16
     (o ≤ 8 || o == 15) && (o == 0 || f.op % 2 ^ 12 == 0))
  | 2 => !f.close && !f.ret && !f.store && f.op &&& 0x00FF == 0 && f.op / 2 ^ 8 % 2 ^ 8 ≤ 3 && f.aux &&& 0x3FFF == 0
  | 3 => !f.close && !f.ret && !f.store && f.op &&& 0x00FF == 0 && f.op / 2 ^ 8 % 2 ^ 8 ≤ 2 && f.aux == 0 &&
    f.window == 0 && f.offset == 0
  | 4 => !f.close && !f.ret && !f.store && f.op / 2 ^ 12 % 16 ≤ 3
  | 5 => !f.close && !f.ret && !f.store && f.op < 256 && mgmtOps.contains f.op && f.aux == 0 && f.window == 0 && f.offset == 0
  | _ => false

def RFrame.hopCredit (f : RFrame) : Bool := f.cls == 3 && f.op == 0

/-- The tag extension of a pour frame whose n copies have a stride: the tags agree with the first (R202, R53). -/
def RFrame.tags (f : RFrame) (n stride : Nat) : List Nat :=
  f.tag :: (List.range (n - 1)).map fun i => leAt f.payload (n * stride + 8 * i) 8

def tagsAgree (heat : Nat) (tags : List Nat) : Bool :=
  match tags with
  | [] => true
  | t :: rest => bits t 27 16 == heat % 2 ^ 12 && rest.all fun u => u / 2 ^ 16 == t / 2 ^ 16

/-- n of a frame of n copies or answers of a stride, from its Length (R303). -/
def copiesOf (stride length : Nat) : Option Nat := ((List.range 64).map (· + 1)).find? fun n => payloadBytes n stride == length

/-! ## Forwarding (R237, R238) -/

/-- A raw frame for another node: looked up in the version of its epoch and queued for its OutPort. -/
def State.transitFrame (s : State) (rx : Rx) (f : RFrame) : State :=
  if !rx.raw ∨ !s.rb Reg.forwardEnable 0 then s.inc Reg.notForMe 0 1
  else
    let st := s.rd Reg.versionState f.epoch
    if st = 0 ∨ st = 1 then s.inc Reg.staleEpochDrops 0 1
    else
      match s.forwardOf f.epoch f.dst with
      | none => s.inc Reg.forwardDrops rx.port 1
      | some e =>
        if !s.portUp e.outPort then s.inc Reg.forwardDrops e.outPort 1
        else if s.rd Reg.forwardDepth 0 ≤ s.transitHeld rx.port rx.pcp then s.inc Reg.forwardDrops rx.port 1
        else
          let out := if e.dateline then rx.pcp / 2 * 2 + 1 else rx.pcp
          let o := s.nextOrd
          o.2.modPort e.outPort fun q => { q with transit := q.transit ++ [(rx.pcp, out, rx.port, o.1, f)] }

/-! ## Checks 1 to 4 (R203) -/

/-- What MgmtOp needs of the sender's entry (check 4). -/
def mgmtPasses (p : Peer) (op : Nat) : Bool :=
  if op = 1 ∨ op = 7 ∨ op = 0x20 ∨ op = 0x21 then true
  else if op = 2 then p.state == 1 || p.state == 2
  else if op = 4 then p.state == 3
  else if op = 8 ∨ op = 9 then p.waking
  else p.state == 2

/-- Checks 1 to 3 of a frame: whether it goes on, and the state. A hop credit frame passes check 3 (R239). -/
def State.arriveHeader (s : State) (rx : Rx) (f : RFrame) : Bool × State :=
  if !(s.receives rx.port && s.rb Reg.transportEnable 0 && s.works 6) then (false, s)
  else
    let s := if rx.again then s else s.wake.rxCount rx
    if f.headerCrc ≠ f.crc then (false, s.inc Reg.headerCrcErrors 0 1)
    else
      let s := if f.dst = s.nodeId ∧ !rx.again then s.inc Reg.framesReceived 0 1 else s
      if !f.wellFormed then (false, s.inc Reg.malformed 0 1)
      else if f.hopCredit then (true, s)
      else if f.dst ≠ s.nodeId then (false, s.transitFrame rx f)
      else (true, s)

/-- A frame whose sender's entry is being fetched is held, at most 64 of them (R249). -/
def State.holdForFetch (s : State) (rx : Rx) (f : RFrame) : State :=
  if s.fetchHeld.length < 64 then { s with fetchHeld := s.fetchHeld ++ [(f.src, { rx with again := true }, f)] } else s

/-- Check 4 with the peer's entry: whether the frame goes on. -/
def State.arrivePeer (s : State) (rx : Rx) (f : RFrame) : Bool × State :=
  if f.cls = 5 ∧ (f.op = 0x20 ∨ f.op = 0x21) then (true, s)
  else
    let t := s.touchPeer f.src
    let s := t.2
    let p := s.peer f.src
    if !t.1 then (false, s.inc Reg.peerCacheFull 0 1)
    else if !p.cached then (false, s.holdForFetch rx f)
    else if f.cls = 5 then (if mgmtPasses p f.op then (true, s) else (false, s.inc Reg.notJoined 0 1))
    else if p.state = 2 then (true, s)
    else if f.cls = 1 then (false, (s.inc Reg.atomicStale 0 1).reply f 1 [])
    else (false, s.inc Reg.notJoined 0 1)

/-- Whether the trailer, and a non-zero UDP checksum, check; a failure is counted (check 8, R259). -/
def State.arriveTrailer (s : State) (rx : Rx) (f : RFrame) : Bool × State :=
  if rx.udpBad then (false, (s.inc Reg.udpChecksumErrors rx.port 1).inc Reg.trailerErrors 0 1)
  else if f.trailerGood then (true, s)
  else (false, s.inc Reg.trailerErrors 0 1)

/-! ## Check 6 (R208 to R210, R554) -/

/-- The flow position of a sequenced frame of DATA or COLL: whether it is FRESH; a duplicate or old one is answered at once. -/
def State.arriveSeq (s : State) (f : RFrame) : Bool × State :=
  let fl := (s.peer f.src).rflow f.cls
  let r := fl.check f.seq
  let s := (s.inc Reg.expired 0 r.2.1).modPeer f.src fun p => p.modRflow f.cls fun _ => r.2.2
  if r.1 = 0 then (true, s)
  else
    let s := s.inc Reg.duplicates 0 1
    match r.2.2.log.find? fun l => l.1 == f.seq with
    | some l => (false, s.sendBlocks f.src [r.2.2.block f.cls l.1 l.2])
    | none => (false, s.ackFlow f.src f.cls)

/-- Check 5: a pour frame's first tag agrees with its header, and a return answer names window 0xFFFF (R53, R202). -/
def RFrame.tagOk (f : RFrame) : Bool :=
  f.cls != 0 || f.store || f.close || (bits f.aux 27 16 == f.heat % 2 ^ 12 && (!f.ret || f.window == 0xFFFF))

/-- Checks 1 to 6 of a DATA or COLL frame. -/
def State.arrive (s : State) (rx : Rx) (f : RFrame) : Bool × State :=
  let a := s.arriveHeader rx f
  if !a.1 then (false, a.2)
  else
    let b := a.2.arrivePeer rx f
    if !b.1 then (false, b.2)
    else if !f.tagOk then (false, b.2.inc Reg.malformed 0 1)
    else b.2.arriveSeq f

/-! ## Ends of a frame (R207, R208, R212) -/

/-- A FRESH frame received and settled, with the reason of a refusal or 0. -/
def State.settleFrame (s : State) (f : RFrame) (reason : Nat) : State :=
  (s.modPeer f.src fun p => p.modRflow f.cls fun fl =>
    let fl := fl.receive f.seq
    if f.ackNow then { fl with ackNow := f.seq :: fl.ackNow } else fl).settleNum f.src f.cls f.seq reason

/-- A FRESH frame received and kept unsettled. -/
def State.keepFrame (s : State) (f : RFrame) : State :=
  s.modPeer f.src fun p => p.modRflow f.cls fun fl =>
    let fl := fl.receive f.seq
    { fl with held := fl.held ++ [(f.seq, s.tick, false)], ackNow := if f.ackNow then f.seq :: fl.ackNow else fl.ackNow }

/-- A kept frame settles. -/
def State.settleKept (s : State) (f : RFrame) (reason : Nat) : State := s.settleNum f.src f.cls f.seq reason

end Sys2Proof.Machine
end

