-- ==== Sys2Proof/Machine/Landing.lean ====
section
/-! DEFINITION. LND: landing windows, flask geometry, commits, uses, closes, group tables and the group queue (R272 to R297, R555). -/

set_option Elab.async false

set_option linter.unusedVariables false

namespace Sys2Proof.Machine

/-! ## Resolution (R272, R273) -/

/-- The host whose landing window has an id. -/
def State.landingHost (s : State) (w : Nat) : Option Nat :=
  if w = 0 then none else (List.range 16).find? fun h => s.rd Reg.landingWindowId h == w

/-- A dispatch pour of a host: plan, layer number and half (R273). -/
structure PourRef where
  planId : Nat
  plan : Plan
  layer : Nat
  drag : Bool

/-- The layer and half that a dispatch pour number names in a plan (R167). -/
def Plan.dispatchPourOf (p : Plan) (n : Nat) : Option (Nat × Bool) :=
  match p.layers.findIdx? fun (ly : Layer) => ly.dispatchPour == n with
  | some i => some (i, false)
  | none => (p.layers.findIdx? fun (ly : Layer) => ly.splitMin != 0 && ly.dispatchPour + 1 == n).map fun i => (i, true)

/-- The hosted flasks of a pour, by number (R170). -/
def Plan.pourFlasks (p : Plan) (layer : Nat) (drag : Bool) : List (Nat × Hosted) :=
  (p.flasks.zipIdx.filter fun h => h.1.layer == layer && h.1.drag == drag).map fun h => (h.2, h.1)

/-- The dispatch pour of host h that a number names, when this engine hosts a flask of it (R277, check 2). -/
def State.pourRef (s : State) (h n : Nat) : Option PourRef :=
  s.plans.findSome? fun q =>
    if q.2.host = h ∧ (q.2.state = 2 ∨ q.2.state = 3) then
      match q.2.dispatchPourOf n with
      | some (i, d) => if (q.2.pourFlasks i d).isEmpty then none else some { planId := q.1, plan := q.2, layer := i, drag := d }
      | none => none
    else none

/-! ## Geometry (R275, R281) -/

/-- Slots that belong to sources; pool slot u has number sourceSlots + u. -/
def Hosted.sourceSlots (h : Hosted) : Nat := h.capacity - h.pool
/-- The byte of the landing window at which a slot begins. -/
def Hosted.slotByte (h : Hosted) (n : Nat) : Nat := h.baseWord * 64 + n * h.stride + (if n < h.sourceSlots then 0 else 64)
/-- The byte of the pool counter. -/
def Hosted.poolByte (h : Hosted) : Nat := h.baseWord * 64 + h.sourceSlots * h.stride
/-- The bytes of a flask area. -/
def Hosted.areaBytes (h : Hosted) : Nat := h.capacity * h.stride + (if h.pool = 0 then 0 else 64)

/-- The slot and the byte in it that an offset of the landing window addresses, when it lies in the flask area. -/
def Hosted.slotAt (h : Hosted) (off : Nat) : Option (Nat × Nat) :=
  let b := h.baseWord * 64
  if off < b ∨ b + h.areaBytes ≤ off then none
  else if off < h.poolByte then some ((off - b) / h.stride, (off - b) % h.stride)
  else if off < h.poolByte + 64 then none
  else some (h.sourceSlots + (off - h.poolByte - 64) / h.stride, (off - h.poolByte - 64) % h.stride)

/-- The slots of a source in a half (R275). -/
def Source.ownsSlot (x : Source) (drag : Bool) (n : Nat) : Bool :=
  let lo := x.firstSlot + (if drag then x.slots else 0)
  decide (lo ≤ n) && decide (n < lo + x.slots)

/-- The source list of a flask. -/
def Plan.listOf (p : Plan) (h : Hosted) : SourceList := Tab.get ⟨false, 0, 0, []⟩ p.sources h.sourceList

/-- The word of a flask's tag side queue (R275). -/
def Plan.tagWord (p : Plan) (h : Hosted) : Nat := (p.listOf h).tagWord + (if h.drag then ceilDiv h.capacity 8 else 0)

/-- Where byte j of slot n lies in the landing window, tiled layout included (R281). -/
def Plan.byteAt (p : Plan) (h : Hosted) (n j : Nat) : Nat :=
  if (p.listOf h).tiled then
    let t := if n < h.sourceSlots then n else n - h.sourceSlots
    let base := if n < h.sourceSlots then h.baseWord * 64 else h.poolByte + 64
    base + t / 16 * (16 * h.stride) + j / 128 * 2048 + t % 16 * 128 + j % 128
  else h.slotByte n + j

/-- Bytes written at a byte of the landing window: the landing store, or the flask's HBM window (R59, R294). -/
def State.landWrite (s : State) (p : Plan) (h : Hosted) (o : Nat) (l : List Byte) : State :=
  if h.inHbm then
    match s.hostWindow p.host h.hbmWindow with
    | some w => s.memWrite (s.rd Reg.winTarget w + (o - h.baseWord * 64)) l
    | none => s
  else s.landingWrite o l

/-- Bytes read at a byte of the landing window. -/
def State.landRead (s : State) (p : Plan) (h : Hosted) (o n : Nat) : List Byte :=
  if h.inHbm then
    match s.hostWindow p.host h.hbmWindow with
    | some w => s.memRead (s.rd Reg.winTarget w + (o - h.baseWord * 64)) n
    | none => []
  else s.landingRead o n

/-- Bytes from byte j of a slot on, written in runs of 128 (R281). -/
def State.slotWrite (s : State) (p : Plan) (h : Hosted) (n j : Nat) (l : List Byte) : State :=
  if (p.listOf h).tiled then
    ((chunks 128 (l.length + 1) l).zipIdx).foldl (fun s c => s.landWrite p h (p.byteAt h n (j + 128 * c.2)) c.1) s
  else s.landWrite p h (h.slotByte n + j) l

/-- The pool counter's value. -/
def State.poolCount (s : State) (p : Plan) (h : Hosted) : Nat := leNat (s.landRead p h h.poolByte 8)

/-! ## Sources of a use (R282 to R287) -/

def Flask.src (f : Flask) (i : Nat) : SourceUse := Tab.get {} f.srcs i
def Flask.modSrc (f : Flask) (i : Nat) (g : SourceUse → SourceUse) : Flask := { f with srcs := Tab.set {} f.srcs i (g (f.src i)) }

/-- Source closed for the use under R283, or treated as closed. -/
def SourceUse.closed (u : SourceUse) : Bool := u.ended || (u.finalClose && !u.badClose && u.committed == u.named)

/-- Whether a source is Late for a flask now: for its Final close, or until its flow's base passes that close's number (R286). -/
def State.isLate (s : State) (u : SourceUse) (node : Nat) : Bool :=
  match u.late with
  | none => false
  | some 0 => true
  | some (q + 1) => decide (seqDiff (s.peer node).rdata.base q ≤ 0)

/-! ## Closing a use (R282, R289, R290) -/

/-- A flask enters Closed: its rows in slot order, their tags at the head of its tag side queue; it counts toward its pour's group table (R289, R290). -/
def State.closeFlask (s : State) (key : Nat) : State :=
  match s.hosted key with
  | none => s
  | some (p, h) =>
    let f := s.flask key
    let rows := f.tags.map (·.1)
    let tags := rows.flatMap fun n => leBytes 8 (Tab.get 0 f.tags n)
    let s := s.modFlask key fun f => { f with state := 2, rows := rows, nextAnswer := 0, answersLeft := 0 }
    let s := if tags.isEmpty then s else s.landingWrite (p.tagWord h * 64) tags
    let s := s.trace 8 0x30 0xFFFF 0 (key % 2 ^ 16) rows.length
    let pk := key / 2 ^ 16 * 2 ^ 16 + (match p.layers[h.layer]? with
      | some ly => ly.dispatchPour + b2n h.drag
      | none => 0)
    let u := Tab.get ({} : PourUse) s.pourUses pk
    { s with pourUses := Tab.put s.pourUses pk { closed := u.closed ++ [key % 2 ^ 16], tick := s.tick } }

/-- Whether every source of a Filling flask is closed, Late or Dead. -/
def State.useOver (s : State) (p : Plan) (h : Hosted) (f : Flask) : Bool :=
  (p.listOf h).sources.zipIdx.all fun x => (f.src x.2).closed || s.isLate (f.src x.2) x.1.node

/-- A Filling flask closes once its sources are done. -/
def State.tryClose (s : State) (key : Nat) : State :=
  match s.hosted key with
  | none => s
  | some (p, h) => if (s.flask key).state = 1 ∧ s.useOver p h (s.flask key) then s.closeFlask key else s

/-- A Free flask enters Filling at the first frame of a source. -/
def State.fillFlask (s : State) (key : Nat) : State :=
  s.modFlask key fun f => if f.state = 0 then { f with state := 1, fillTick := s.tick } else f

/-! ## Copies (R277 to R281, R555) -/

/-- What a copy frame addresses: its flask, the source's place in the list, its first slot, how many copies, and the segment. -/
structure Target where
  key : Nat
  plan : Plan
  hosted : Hosted
  src : Nat
  slot : Nat
  n : Nat
  seg : Nat

/-- Segments of a slot. -/
def Hosted.segments (h : Hosted) : Nat := if h.stride ≤ 8192 then 1 else ceilDiv h.stride 8192

/-- Checks 1 to 3 and the form of a copy frame: its target, or the reason of its refusal (R277). -/
def State.copyTarget (s : State) (f : RFrame) : Nat × Option Target :=
  match s.landingHost f.window with
  | none => (1, none)
  | some hst =>
    match s.pourRef hst f.op with
    | none => (3, none)
    | some r =>
      match (r.plan.pourFlasks r.layer r.drag).find? fun x => (x.2.slotAt f.offset).isSome with
      | none => (2, none)
      | some (n, h) =>
        match h.slotAt f.offset, (r.plan.listOf h).sources.findIdx? fun (x : Source) => x.node == f.src with
        | some (slot, within), some ix =>
          if h.stride ≤ 8192 then
            match copiesOf h.stride f.length with
            | some k => if within = 0 then (0, some ⟨flaskKey r.planId n, r.plan, h, ix, slot, k, 0⟩) else (2, none)
            | none => (2, none)
          else if within % 8192 = 0 ∧ f.length = min 8192 (h.stride - within) then
            (0, some ⟨flaskKey r.planId n, r.plan, h, ix, slot, 1, within / 8192⟩)
          else (2, none)
        | _, _ => (2, none)

/-- The slots of a target. -/
def Target.slots (t : Target) : List Nat := (List.range t.n).map (· + t.slot)

/-- Whether a target's slots belong to the source, or lie in the pool below the counter (check 5). -/
def State.slotsOwned (s : State) (t : Target) (next : Bool) : Bool :=
  match (t.plan.listOf t.hosted).sources[t.src]? with
  | none => false
  | some x =>
    let pool := if next || t.hosted.pool == 0 then 0 else min t.hosted.pool (s.poolCount t.plan t.hosted)
    t.slots.all fun n =>
      if n < t.hosted.sourceSlots then x.ownsSlot t.hosted.drag n else decide (n - t.hosted.sourceSlots < pool)

/-- Whether a slot of a target is taken in the current use: committed, or its segment held (check 6). -/
def Flask.taken (f : Flask) (t : Target) : Bool :=
  t.slots.any fun n => (Tab.find f.tags n).isSome || bit (Tab.get 0 f.segs n) t.seg

/-- The checks of a copy frame for the use in progress: context and heat, range, slots (R277 checks 3, 5 and 6, R555). -/
def State.copyReason (s : State) (t : Target) (f : RFrame) : Nat :=
  let fl := s.flask t.key
  let u := fl.src t.src
  let same := match u.ctxHeat with
    | none => true
    | some c => c == (f.ctx, f.heat)
  if same && s.slotsOwned t false && !fl.taken t then 0 else 2

/-- The copies of a frame committed, in slot order; a segmented one with its last segment (R278, R280). -/
def State.commitCopies (s : State) (t : Target) (f : RFrame) : State :=
  let s := s.fillFlask t.key
  let x := t.hosted.stride
  let tags := f.tags t.n x
  let s := t.slots.zipIdx.foldl (fun s n =>
    s.slotWrite t.plan t.hosted n.1 (t.seg * 8192) ((f.payload.drop (n.2 * x)).take (min x 8192))) s
  let segs := t.hosted.segments
  let fl := s.flask t.key
  let mask := setBit (Tab.get 0 fl.segs t.slot) t.seg
  let whole := segs == 1 || popCount 8 mask == segs
  let s := if segs = 1 then s else s.modFlask t.key fun fl => { fl with segs := Tab.set 0 fl.segs t.slot mask }
  if whole then
    let s := s.modFlask t.key fun fl =>
      let fl := { fl with tags := (t.slots.zip tags).foldl (fun m (p : Nat × Nat) => Tab.put m p.1 p.2) fl.tags }
      fl.modSrc t.src fun u => { u with
        committed := u.committed + t.n, ctxHeat := if u.ctxHeat.isSome then u.ctxHeat else some (f.ctx, f.heat) }
    let s := (t.slots.zip tags).foldl (fun s p => s.landingWrite (t.plan.tagWord t.hosted * 64 + 8 * p.1) (leBytes 8 p.2)) s
    (s.inc Reg.copiesCommitted 0 t.n).inc Reg.copiesCommittedHbm 0 (if t.hosted.inHbm then t.n else 0)
  else s

/-- A refusal counted by its reason (R297). -/
def State.countRefusal (s : State) (reason : Nat) : State :=
  if reason = 1 then s.inc Reg.refusedWindow 0 1 else if reason = 3 then s.inc Reg.refusedNotTarget 0 1
  else if reason = 2 then s.inc Reg.refusedPlan 0 1 else s

/-- A frame with a bad trailer rewound: the bytes it wrote are undefined (R279). -/
def State.rewindCopies (s : State) (t : Target) (f : RFrame) : State :=
  let d := s.drawBytes f.payload.length
  let x := t.hosted.stride
  let s := t.slots.zipIdx.foldl (fun s n =>
    s.slotWrite t.plan t.hosted n.1 (t.seg * 8192) ((d.1.drop (n.2 * x)).take (min x 8192))) d.2
  s.inc Reg.framesRewound 0 1

/-! ## Closes (R283) -/

/-- The close summary and entries of a close frame: TotalCopies, Final, and the copies named by flask. -/
def RFrame.closeInfo (f : RFrame) : Nat × Bool × List (Nat × Nat) :=
  let w := leAt f.payload 0 8
  let es := (List.range (bits w 31 16)).map fun i =>
    let e := leAt f.payload (8 + 8 * i) 8
    (bits e 63 48, bits e 47 36 + bits e 35 24)
  (bits w 63 32, bit w 0, es)

/-- A close taken for one flask: what it says recorded; the second part is false when check 7 refuses it. -/
def State.recordClose (s : State) (key src : Nat) (f : RFrame) : Bool × State :=
  let c := f.closeInfo
  let here := (c.2.2.filter fun e => e.1 == key % 2 ^ 16).foldl (fun n e => n + e.2) 0
  let all := c.2.2.foldl (fun n e => n + e.2) 0
  let s := s.fillFlask key
  let u := (s.flask key).src src
  let u' : SourceUse := { u with named := u.named + here, total := c.1, sumEntries := u.sumEntries + all }
  let bad := c.2.1 && (c.1 != u'.sumEntries || decide (u'.named < u.committed))
  if bad then (false, s.modFlask key fun fl => fl.modSrc src fun u => { u with badClose := true })
  else
    (true, s.modFlask key fun fl => fl.modSrc src fun _ =>
      if c.2.1 then { u' with finalClose := true, closeSeq := f.seq } else u')

/-! ## Held frames (R284) -/

/-- Held frames of a host. -/
def State.heldOf (s : State) (h : Nat) : Nat := (s.heldFrames.filter fun x => x.host == h && x.buf.isSome).length

/-- Whether a source's next-use close is held for a flask. -/
def State.closeHeld (s : State) (key node : Nat) : Bool :=
  s.heldFrames.any fun x => x.flask == key && x.frame.src == node && x.frame.close && x.frame.closeInfo.2.1

/-- A next-use frame held for some flasks in one buffer: whether it could be (R284). -/
def State.holdFrame (s : State) (host : Nat) (keys : List Nat) (f : RFrame) : Bool × State :=
  if s.rd Reg.holdFrames host ≤ s.heldOf host then (false, s.inc Reg.holdDrops 0 1)
  else
    let r := s.request 8 3
    match r.1 with
    | none => (false, r.2.inc Reg.holdDrops 0 1)
    | some b =>
      let es := keys.zipIdx.map fun k => ({ flask := k.1, frame := f, host := host, buf := if k.2 = 0 then some b else none } : HeldFrame)
      (true, { r.2 with heldFrames := r.2.heldFrames ++ es }.inc Reg.framesHeld 0 1)

/-- Whether a target's slots are held already for the next use (check 6). -/
def State.slotHeld (s : State) (t : Target) : Bool :=
  s.heldFrames.any fun x => x.flask == t.key && !x.frame.close && match (s.copyTarget x.frame).2 with
    | some u => u.seg == t.seg && t.slots.any fun n => u.slots.contains n
    | none => false

/-! ## Arrival of copies and closes -/

/-- The Late state of a source met by a copy: refused (0), for the next use (1), or no matter (2) (R286). -/
def State.lateSays (s : State) (u : SourceUse) (f : RFrame) : Nat :=
  match u.late with
  | none => 2
  | some 0 => 0
  | some (q + 1) => if !s.isLate u f.src then 2 else if seqDiff f.seq q < 0 then 0 else 1

/-- A copy frame that passed checks 1 to 6 of R203 (R277 to R280, R284). -/
def State.landCopy (s : State) (rx : Rx) (f : RFrame) : State :=
  match s.copyTarget f with
  | (r, none) => (s.countRefusal r).settleFrame f r
  | (_, some t) =>
    if !tagsAgree f.heat (f.tags t.n t.hosted.stride) then s.inc Reg.malformed 0 1
    else
      let refuse := (s.countRefusal 2).settleFrame f 2
      let u := (s.flask t.key).src t.src
      let late := s.lateSays u f
      if late = 0 then refuse
      else
        let next := late == 1 || u.closed || (s.flask t.key).state == 2
        if next then
          if s.closeHeld t.key f.src then s.inc Reg.beyondUseDrops 0 1
          else if !s.slotsOwned t true || s.slotHeld t then refuse
          else
            let tr := s.arriveTrailer rx f
            if !tr.1 then tr.2
            else
              let h := tr.2.holdFrame t.plan.host [t.key] f
              if h.1 then h.2.keepFrame f else h.2
        else if s.copyReason t f ≠ 0 then refuse
        else
          let tr := s.arriveTrailer rx f
          if !tr.1 then tr.2.rewindCopies t f
          else ((tr.2.commitCopies t f).settleFrame f 0).tryClose t.key

/-- A Late source's frame in a close: its state ends with its Final close for the forced use, which is refused too (R286). -/
def State.lateClose (s : State) (key src : Nat) (final : Bool) : State :=
  if final then
    s.modFlask key fun fl => fl.modSrc src fun u => if u.late = some 0 then { u with late := none, ended := u.forced } else u
  else s

/-- A close frame that passed checks 1 to 6 of R203 (R277, R283, R284, R286). -/
def State.landClose (s : State) (rx : Rx) (f : RFrame) : State :=
  match s.landingHost f.window with
  | none => (s.countRefusal 1).settleFrame f 1
  | some hst =>
    match s.pourRef hst f.op with
    | none => (s.countRefusal 3).settleFrame f 3
    | some r =>
      let mine := (r.plan.pourFlasks r.layer r.drag).filterMap fun x =>
        ((r.plan.listOf x.2).sources.findIdx? fun (y : Source) => y.node == f.src).map fun ix => (flaskKey r.planId x.1, ix)
      if mine.isEmpty then (s.countRefusal 2).settleFrame f 2
      else
        let tr := s.arriveTrailer rx f
        if !tr.1 then tr.2
        else
          let s := tr.2
          let kind := fun (x : Nat × Nat) =>
            let fl := s.flask x.1
            let u := fl.src x.2
            if s.lateSays u f = 0 then 0 else if s.lateSays u f = 1 || u.closed || u.finalClose || fl.state == 2 then 1 else 2
          let late := mine.filter fun x => kind x == 0
          let next := mine.filter fun x => kind x == 1
          let now := mine.filter fun x => kind x == 2
          if next.any fun x => s.closeHeld x.1 f.src then s.inc Reg.beyondUseDrops 0 1
          else
            let held := if next.isEmpty then (true, s) else s.holdFrame hst (next.map (·.1)) f
            if !held.1 then held.2
            else
              let s := late.foldl (fun s x => s.lateClose x.1 x.2 f.closeInfo.2.1) held.2
              let rec_ := now.foldl (fun acc x =>
                let r := acc.2.recordClose x.1 x.2 f
                (acc.1 && r.1, r.2)) (true, s)
              let reason := if late.isEmpty && rec_.1 then 0 else 2
              let s := if next.isEmpty then (rec_.2.countRefusal reason).settleFrame f reason else rec_.2.keepFrame f
              (now ++ late).foldl (fun s x => s.tryClose x.1) s

/-! ## Release (R293) -/

/-- One held frame of a flask committed at its release, and settled once no other flask holds it (R284). -/
def State.commitHeld (s : State) (x : HeldFrame) : State :=
  let f := x.frame
  let s := match x.buf with
    | some b => s.freeBuffer b 8
    | none => s
  let more := s.heldFrames.any fun y => y.frame.src == f.src && y.frame.seq == f.seq
  match s.hosted x.flask with
  | none => if more then s else s.settleKept f 2
  | some (p, h) =>
    match (p.listOf h).sources.findIdx? fun (y : Source) => y.node == f.src with
    | none => if more then s else s.settleKept f 2
    | some ix =>
      if f.close then
        let r := s.recordClose x.flask ix f
        let reason := if r.1 then 0 else 2
        let s := r.2.countRefusal reason
        (if more then s else s.settleKept f reason).tryClose x.flask
      else
        match (s.copyTarget f).2 with
        | none => (s.countRefusal 2).settleKept f 2
        | some t =>
          if s.copyReason t f = 0 then ((s.commitCopies t f).settleKept f 0).tryClose x.flask
          else (s.countRefusal 2).settleKept f 2

/-- A Closed flask becomes Free: bits, tally, return position, pool counter and closed states cleared, then the held frames committed in arrival order (R284, R293). -/
def State.releaseFlask (s : State) (key : Nat) : State :=
  match s.hosted key with
  | none => s
  | some (p, h) =>
    let keep := fun (u : SourceUse) => ({ late := u.late } : SourceUse)
    let s := s.modFlask key fun f => { srcs := (Tab.mapVals f.srcs fun _ u => keep u).filter fun u => u.2 != {} }
    let s := s.tallySet h.returnTally 0
    let use := match p.layers[h.layer]? with
      | some ly => Tab.get 0 s.useNumbers (key / 2 ^ 16 * 2 ^ 16 + ly.dispatchPour + b2n h.drag)
      | none => 0
    let s := s.trace 8 0x31 0xFFFF 0 (key % 2 ^ 16) use
    let s := if h.pool = 0 then s else s.landWrite p h h.poolByte (leBytes 8 0)
    let mine := s.heldFrames.filter fun x => x.flask == key
    let s := { s with heldFrames := s.heldFrames.filter fun x => x.flask != key }
    mine.foldl (fun s x => s.commitHeld x) s

/-- A Closed flask is released once ReturnTally has reached its rows and its return packets have settled or been abandoned; one with no row needs nothing (R293). -/
def State.tryRelease (s : State) (key : Nat) : State :=
  match s.hosted key with
  | none => s
  | some (p, h) =>
    let f := s.flask key
    if f.state = 2 ∧ f.answersLeft = 0 ∧ f.nextAnswer = f.rows.length ∧ 
        (f.rows.isEmpty || (decide (f.rows.length ≤ s.tally h.returnTally) && !s.tallyBad.contains h.returnTally)) then
      s.releaseFlask key
    else s

/-- A flask Filling for UseLimitTicks closes by force: its missing sources become Late (R286). -/
def State.forceClose (s : State) (key : Nat) : State :=
  match s.hosted key with
  | none => s
  | some (p, h) =>
    let f := s.flask key
    if f.state = 1 ∧ s.elapsed f.fillTick (s.rd Reg.useLimitTicks p.host) then
      let ms := (p.listOf h).sources.zipIdx.filter fun x => !(f.src x.2).closed && (f.src x.2).late.isNone
      let s := s.modFlask key fun f => ms.foldl (fun f x => f.modSrc x.2 fun u =>
        { u with late := some (if u.finalClose && !u.badClose then u.closeSeq + 1 else 0), forced := true }) f
      let s := s.inc Reg.forcedCloses 0 1
      let s := s.raise { src := 0x0803, host := p.host, a := key / 2 ^ 16 * 2 ^ 32 + key % 2 ^ 16, b := ms.length }
      s.closeFlask key
    else s

/-! ## The pool counter (R285) -/

/-- The flask of host h whose pool counter lies at an offset, for a source: its key. -/
def State.poolFlask (s : State) (hst off node : Nat) : Option (Nat × Plan × Hosted × Nat) :=
  s.plans.findSome? fun q =>
    if q.2.host = hst ∧ (q.2.state = 2 ∨ q.2.state = 3) then
      q.2.flasks.zipIdx.findSome? fun h =>
        if h.1.pool ≠ 0 ∧ h.1.poolByte = off then
          ((q.2.listOf h.1).sources.findIdx? fun (x : Source) => x.node == node).map fun ix => (flaskKey q.1 h.2, q.2, h.1, ix)
        else none
    else none

/-- LND's answer to a fetch-add of x on a pool counter: a ReplyStatus, the old value, and the state (R285). -/
def State.poolAdd (s : State) (hst : Nat) (f : RFrame) (x : Nat) : Nat × Nat × State :=
  match s.poolFlask hst f.offset f.src with
  | none => (3, 0, s)
  | some (key, p, h, ix) =>
    let fl := s.flask key
    if fl.state = 2 ∨ (fl.src ix).closed then (2, 0, s.inc Reg.poolBusy 0 1)
    else
      let old := s.poolCount p h
      (0, old, (s.fillFlask key).landWrite p h h.poolByte (leBytes 8 ((old + x) % 2 ^ 64)))

/-! ## Group tables (R289, R290) -/

/-- The runs of a Closed flask: first slot, first row and rows of each (R289). -/
def Hosted.runs (h : Hosted) (rows : List Nat) : List (Nat × Nat × Nat) :=
  (rows.zipIdx.foldl (fun acc r =>
    match acc with
    | (slot, i, n) :: rest => if r.1 = slot + n ∧ r.1 ≠ h.sourceSlots then (slot, i, n + 1) :: rest else (r.1, r.2, 1) :: acc
    | [] => [(r.1, r.2, 1)]) []).reverse

/-- The on-chip address of a slot, or of its tile group (R290). -/
def State.slotAddr (s : State) (p : Plan) (h : Hosted) (n : Nat) : Nat :=
  let t := if n < h.sourceSlots then n else n - h.sourceSlots
  let o := if (p.listOf h).tiled then p.byteAt h (n - t % 16) 0 else h.slotByte n
  if h.inHbm then
    match s.hostWindow p.host h.hbmWindow with
    | some w => s.rd Reg.winTarget w + (o - h.baseWord * 64)
    | none => o
  else o

/-- One group table entry (R290). -/
def State.groupEntry (s : State) (p : Plan) (f : Nat) (h : Hosted) (r : Nat × Nat × Nat) : List Byte :=
  let t := if r.1 < h.sourceSlots then r.1 else r.1 - h.sourceSlots
  leBytes 32 (s.slotAddr p h r.1 * 2 ^ 192 + (s.answerAddr p h r.2.1).getD 0 * 2 ^ 128 + h.expert * 2 ^ 112 + f * 2 ^ 96 +
    r.2.2 * 2 ^ 83 + r.2.1 * 2 ^ 71 + (h.stride / 64 - 1) * 2 ^ 62 + (h.answerStride / 64 - 1) * 2 ^ 53 + b2n (p.listOf h).tiled * 2 ^ 52 +
    b2n h.inHbm * 2 ^ 51 + h.returnTally * 2 ^ 34 + (if (p.listOf h).tiled then t % 16 else 0) * 2 ^ 30)

def State.groupQueue (s : State) (h : Nat) : GroupQueue := Tab.get {} s.groupQueues h
def State.modGroup (s : State) (h : Nat) (f : GroupQueue → GroupQueue) : State :=
  { s with groupQueues := Tab.set {} s.groupQueues h (f (s.groupQueue h)) }

/-- A pour's hosted flasks, its plan and layer, for a pour use (R290). -/
def State.pourOf (s : State) (plan pour : Nat) : Option (Plan × Nat × Bool) :=
  match s.plan plan with
  | none => none
  | some p => (p.dispatchPourOf pour).map fun x => (p, x.1, x.2)

/-- One element less of a list, its first. -/
def eraseFirst (n : Nat) (l : List Nat) : List Nat := l.erase n

/-- A group table refused: its flasks are released as ones with no row, and GroupTableRefused is raised (R290). -/
def State.refuseTable (s : State) (plan pour host off : Nat) (fs : List Nat) : State :=
  let s := s.raise { src := 0x0804, host := host, a := plan * 2 ^ 32 + pour, b := off }
  fs.foldl (fun s f => if (s.flask (flaskKey plan f)).state = 2 then s.releaseFlask (flaskKey plan f) else s) s

/-- LND writes the group table of a pour use whose last flask has closed, once the ring has room (R290). -/
def State.writeTable (s : State) (plan pour : Nat) : State :=
  match s.pourOf plan pour with
  | none => s
  | some (p, layer, drag) =>
    let fs := p.pourFlasks layer drag
    let key := plan * 2 ^ 16 + pour
    let u := Tab.get ({} : PourUse) s.pourUses key
    if fs.isEmpty ∨ !(fs.all fun f => u.closed.contains f.1) then s
    else
      let live := fs.filter fun f => (s.flask (flaskKey plan f.1)).state == 2
      let entries := live.flatMap fun f => (f.2.runs (s.flask (flaskKey plan f.1)).rows).map fun r => s.groupEntry p f.1 f.2 r
      let rows := live.foldl (fun n (f : Nat × Hosted) => n + (s.flask (flaskKey plan f.1)).rows.length) 0
      let use := Tab.get 0 s.useNumbers key
      let header := fun (pad : Bool) => leBytes 64 (if pad then 2 ^ 470 else
        plan * 2 ^ 496 + pour * 2 ^ 480 + layer * 2 ^ 472 + b2n drag * 2 ^ 471 + entries.length * 2 ^ 440 + rows * 2 ^ 416 +
          use % 2 ^ 32 * 2 ^ 384 + u.tick * 2 ^ 336)
      let bytes := 64 + 32 * entries.length
      let gq := s.groupQueue p.host
      let size := 2 ^ s.rd Reg.groupRingBytesLog2 p.host
      let base := s.rd Reg.groupRingBase p.host
      let pos := gq.tail % size
      let skip := if pos + bytes ≤ size then 0 else size - pos
      let oldest := match gq.tabs ++ gq.writing with
        | t :: _ => t.start
        | [] => gq.tail
      if size < gq.tail - oldest + skip + bytes then s
      else
        let start := gq.tail + skip
        let rest : State := { s with
          pourUses := Tab.put s.pourUses key { u with closed := fs.foldl (fun l (f : Nat × Hosted) => eraseFirst f.1 l) u.closed }
          useNumbers := Tab.set 0 s.useNumbers key (use + 1) }
        let pad := if skip < 64 then (0, rest) else rest.hostWrite p.host (base + pos) (header true)
        let a := base + start % size
        let r := if pad.1 = 0 then pad.2.hostWrite p.host a (header false ++ entries.flatten) else pad
        match r.1, r.2.xlt p.host a bytes true with
        | 0, some (.noc addr) =>
          r.2.modGroup p.host fun g => { g with
            tail := start + bytes, writing := g.writing ++ [{ addr := addr, start := gq.tail, bytes := skip + bytes }] }
        | _, _ => r.2.refuseTable plan pour p.host (start % size) (live.map (·.1))

/-! ## The group queue (R291) -/

/-- The tables of a host beyond its cursor. -/
def GroupQueue.next (g : GroupQueue) : Option GroupTab :=
  if g.cursor < g.firstNo then none else g.tabs[g.cursor - g.firstNo]?

/-- The page offset of Pop of host h. -/
def popOffset (h : Nat) : Nat := 0x100000 + h * 0x1000

/-- The oldest held Pop of a host answered with a value. -/
def State.answerPop (s : State) (h v : Nat) : State :=
  match s.heldReads.findIdx? fun r => r.host == h && r.cls == 8 with
  | none => s
  | some i => ({ s with heldReads := s.heldReads.eraseIdx i }).emit (.pageData (popOffset h) (16 + h) v)

/-- Held Pops of a host answered while tables lie beyond the cursor. -/
def State.servePops (s : State) (h : Nat) : State :=
  (s.heldReads.filter fun r => r.host == h && r.cls == 8).foldl (fun s _ =>
    match (s.groupQueue h).next with
    | none => s
    | some t => (s.modGroup h fun g => { g with cursor := g.cursor + 1 }).answerPop h t.addr) s

/-- The write responses of a host's oldest written table return: the table joins the queue and GroupTally counts it (R290). -/
def State.tableWritten (s : State) (h : Nat) : State :=
  match (s.groupQueue h).writing with
  | [] => s
  | t :: rest =>
    let s := s.modGroup h fun g => { g with writing := rest, tabs := g.tabs ++ [t] }
    let g := s.rd Reg.groupTally h
    let s := if bit g 31 then s.tallyAdd (bits g 16 0) 1 else s
    (s.inc Reg.groupTables 0 1).servePops h

/-- Tables below a Release value are done with (R291). -/
def State.releaseTables (s : State) (h v : Nat) : State :=
  let g := s.groupQueue h
  let n := (v + 2 ^ 32 - g.released % 2 ^ 32) % 2 ^ 32
  if g.released + n ≤ g.mark then
    s.modGroup h fun g => { g with
      released := g.released + n, tabs := g.tabs.drop (g.released + n - g.firstNo), firstNo := max g.firstNo (g.released + n) }
  else s.inc Reg.releaseIgnored 0 1

end Sys2Proof.Machine
end

