-- ==== Sys2Proof/Machine/Remote.lean ====
section
/-! DEFINITION. Remote loads, stores and atomics, at the requester and at the target, owner tables, and what the end of each frame means to its sender (R217 to R229, R247, R306, R415 to R419). -/

set_option Elab.async false

set_option linter.unusedVariables false

namespace Sys2Proof.Machine

/-! ## Statuses of parts (R90, R418) -/

/-- The order in which the parts of a command decide its status (R418); POISON of a local read stands above the four it names. -/
def statusRank (st : Nat) : Nat := if st = 0x18 then 5 else if st = 0x11 then 4 else if st = 0x12 then 3 else if st = 0x10 then 2 else if st = 0 then 0 else 1
def worseStatus (a b : Nat) : Nat := if statusRank a < statusRank b then b else a

def State.parts (s : State) (uid : Nat) : List XferPart := Tab.get [] s.xfers uid
def State.modPart (s : State) (uid i : Nat) (f : XferPart → XferPart) : State :=
  { s with xfers := Tab.modify s.xfers uid fun l => l.zipIdx.map fun p => if p.2 = i then f p.1 else p.1 }

/-- Bytes of a command's result set at an offset. -/
def State.putResult (s : State) (uid off : Nat) (l : List Byte) : State :=
  s.modCmd uid fun k => { k with result := l.zipIdx.foldl (fun t b => Tab.put t (off + b.2) b.1) k.result }

/-- A transfer is ready when every part is (R418). -/
def State.xferReady (s : State) (uid : Nat) : State :=
  let ps := s.parts uid
  if ps.all fun p => p.left == 0 then
    let st := ps.foldl (fun a p => worseStatus a p.status) 0
    let s := { s with xfers := Tab.drop s.xfers uid }
    let s := if st = 0 then s else s.modCmd uid fun k => { k with result := [], resultBytes := 0 }
    s.makeReady uid st
  else s

/-- One frame of a part ends with a status. -/
def State.partEnd (s : State) (uid i st : Nat) : State :=
  s.modPart uid i fun p => { p with left := p.left - 1, status := worseStatus p.status st }

/-! ## Sending a transfer (R222, R223, R418) -/

/-- The data frames of one part of an RST (R222). -/
def State.sendStores (s : State) (uid i : Nat) (k : Cmd) (p : XferPart) : State :=
  let n := ceilDiv p.len 8192
  let s := s.modPart uid i fun p => { p with left := n }
  (List.range n).foldl (fun s j =>
    let f : RFrame := { cls := 0, store := true, src := s.nodeId, dst := p.node, ctx := k.ctx, heat := k.heat, window := p.window
                        offset := p.offset + j * 8192, payload := (slice k.payload p.at_ p.len).drop (j * 8192) |>.take 8192 }
    s.handOver p.node { frame := f, why := .store uid i, pace := 3 }) s

/-- One ATOMIC frame of a transfer. -/
def State.sendAtomic (s : State) (k : Cmd) (node window offset op : Nat) (operand : List Byte) (why : Purpose) : State :=
  s.handOver node { frame := atomicFrame s node k.ctx k.heat window offset op operand, why := why, pace := 3 }

/-- The remote permission an AtomicOp needs: RemoteRead for LOAD and PROBE, otherwise RemoteAtomic (13, WinPerm). -/
def atomicPerm (op : Nat) : Nat := if op = 0 ∨ op = 15 then 4 else 16

/-- The effect of an operation on a word: the new word (R220). -/
def atomicEffect (op m x y : Nat) : Nat :=
  match op with
  | 1 => (m + x) % 2 ^ 64
  | 2 => m &&& x
  | 3 => m ||| x
  | 4 => m ^^^ x
  | 5 => x
  | 6 => if m = x then y else m
  | 7 => max m x
  | 8 => min m x
  | _ => m

/-- An operation applied at an on-chip address: the response status and the old word (R221). -/
def State.applyAtomic (s : State) (a op : Nat) (operand : List Byte) : Nat × Nat × State :=
  let bad := s.memBad a 8
  let m := leNat (s.memRead a 8)
  let v := atomicEffect op m (leAt operand 0 8) (leAt operand 8 8)
  if bad = 1 then (1, 0, s) else (bad, m, s.memWrite a (leBytes 8 v))

/-- A part that lies on this node, applied through its own window (R418): the part's status. -/
def State.localPart (s : State) (uid i : Nat) (k : Cmd) (p : XferPart) : State :=
  let op := hOp k.header
  let me := s.nodeId
  let fin := fun (s : State) (st : Nat) => s.modPart uid i fun p => { p with left := 0, status := worseStatus p.status st }
  let refused := fin (s.inc Reg.remoteRefusals 0 1) 0x10
  if op = 0x10 then
    match s.xltRemote p.window me 4 p.offset p.len with
    | none => refused
    | some (_, a) =>
      let b := s.memBad a p.len
      fin (s.putResult uid p.at_ (s.memRead a p.len)) (if b = 1 then 0x10 else if b = 2 then 0x18 else 0)
  else if op = 0x11 then
    match s.xltRemote p.window me 8 p.offset p.len with
    | none => refused
    | some (_, a) => if s.memBad a p.len = 1 then fin s 0x10 else fin (s.memWrite a (slice k.payload p.at_ p.len)) 0
  else
    let aop := hAtomicOp k.header
    let n := if aop = 15 then leAt k.payload 0 4 else 8
    match s.xltRemote p.window me (atomicPerm aop) p.offset n with
    | none => refused
    | some (_, a) =>
      if aop = 15 then
        let d := s.drawBytes 8
        fin (d.2.putResult uid 0 d.1) 0
      else
        let r := s.applyAtomic a aop k.payload
        fin (r.2.2.putResult uid 0 (leBytes 8 r.2.1)) (if r.1 = 1 then 0x10 else if r.1 = 2 then 0x18 else 0)

/-- The requests of a part of an RLD or RAT. -/
def State.sendRequests (s : State) (uid i : Nat) (k : Cmd) (p : XferPart) : State :=
  if hOp k.header = 0x10 then
    let n := ceilDiv p.len 4096
    let s := s.modPart uid i fun p => { p with left := n }
    (List.range n).foldl (fun s j =>
      s.sendAtomic k p.node p.window (p.offset + j * 4096) (min 4096 (p.len - j * 4096) - 1) [] (.load uid i (p.at_ + j * 4096))) s
  else
    let aop := hAtomicOp k.header
    let operand := if aop = 0 then [] else slice k.payload 0 (if aop = 6 then 16 else if aop = 15 then 4 else 8)
    (s.modPart uid i fun p => { p with left := 1 }).sendAtomic k p.node p.window p.offset
      (aop * 2 ^ 12 + (if aop = 0 then 7 else 0)) operand (.rat uid i)

/-- The data of an RST go out once every PROBE has replied OK; after a refusal none does (R222, R418). -/
def State.storeAfterProbe (s : State) (uid : Nat) : State :=
  match s.cmd uid with
  | none => s
  | some k =>
    let ps := s.parts uid
    if ps.all fun p => p.left == 0 && p.probed then
      if ps.all fun p => p.status == 0 then
        let s := ps.zipIdx.foldl (fun s p =>
          if p.1.node = s.nodeId then s.localPart uid p.2 k p.1 else s.sendStores uid p.2 k p.1) s
        s.xferReady uid
      else s.xferReady uid
    else s

/-- A PROBE of a part of an RST, or the same check on this node's window. -/
def State.probePart (s : State) (uid i : Nat) (k : Cmd) (p : XferPart) : State :=
  if p.node = s.nodeId then
    let ok := (s.xltRemote p.window p.node 8 p.offset p.len).isSome
    s.modPart uid i fun p => { p with left := 0, probed := true, status := if ok then 0 else 0x10 }
  else
    (s.modPart uid i fun p => { p with left := 1 }).sendAtomic k p.node p.window p.offset (15 * 2 ^ 12) (leBytes 4 p.len) (.probe uid i)

/-- An RLD, RST or RAT starts on its parts (R222, R223, R418). -/
def State.startParts (s : State) (uid : Nat) (ps : List XferPart) : State :=
  match s.cmd uid with
  | none => s
  | some k =>
    let s := { s with xfers := Tab.put s.xfers uid ps }
    let frames := ps.foldl (fun n p => n + ceilDiv p.len 8192) 0
    let ix := ps.zipIdx
    if hOp k.header = 0x11 ∧ 1 < frames then (ix.foldl (fun s p => s.probePart uid p.2 k p.1) s).storeAfterProbe uid
    else
      (ix.foldl (fun s p =>
        if p.1.node = s.nodeId then s.localPart uid p.2 k p.1
        else if hOp k.header = 0x11 then s.sendStores uid p.2 k p.1 else s.sendRequests uid p.2 k p.1) s).xferReady uid

/-! ## Owner tables (R417, R419) -/

def ownerKey (t n : Nat) : Nat := t * 2 ^ 16 + n

/-- Entry n of owner table t: from the cache, or read over the network and cached, in a place of 1,024 that the spec leaves open; a status other than 0 when the read fails (R419). -/
def State.ownerEntry (s : State) (host t n : Nat) : Nat × Nat × State :=
  match Tab.find s.owners (ownerKey t n) with
  | some e => (0, e, s)
  | none =>
    let s := s.inc Reg.ownerMisses 0 1
    let r := s.hostRead host (s.rd Reg.ownerTableAddr t + 16 * n) 16
    let s := r.2.2
    if r.1 = 1 then (0x10, 0, s)
    else if r.1 = 2 then (0x18, 0, s)
    else
      let e := leNat r.2.1
      if s.owners.length < 1024 then (0, e, { s with owners := Tab.put s.owners (ownerKey t n) e })
      else
        let d := s.draw
        (0, e, { d.2 with owners := Tab.put (s.owners.eraseIdx (d.1 % s.owners.length)) (ownerKey t n) e })

/-- The parts of a request through an owner table: split at every shard boundary (R417). -/
def State.ownerParts (s : State) (host t : Nat) : Nat → Nat → Nat → Nat → Nat × List XferPart × State
  | 0, _, _, _ => (0, [], s)
  | fuel + 1, off, at_, len =>
    if len = 0 then (0, [], s)
    else
      let sh := s.rd Reg.shardLog2 t
      let n := off / 2 ^ sh
      if s.rd Reg.ownerEntries t ≤ n then (0x10, [], s)
      else
        let here := min len (2 ^ sh - off % 2 ^ sh)
        let e := s.ownerEntry host t n
        if e.1 ≠ 0 then (e.1, [], e.2.2)
        else
          let rest := e.2.2.ownerParts host t fuel (off + here) (at_ + here) (len - here)
          let p : XferPart := { node := bits e.2.1 127 108, window := bits e.2.1 107 92
                                offset := (bits e.2.1 47 0 + off % 2 ^ sh) % 2 ^ 48, at_ := at_, len := here }
          (rest.1, p :: rest.2.1, rest.2.2)

/-- An admitted RLD, RST or RAT starts (R220 to R223, R417). -/
def State.startXfer (s : State) (uid : Nat) : State :=
  match s.cmd uid with
  | none => s
  | some k =>
    let h := k.header
    if hNode h = 0 then
      let r := s.ownerParts k.host (hWindow h) (hLength h + 1) (hOffset h) 0 (hLength h)
      if r.1 ≠ 0 then (r.2.2.modCmd uid fun k => { k with resultBytes := 0 }).makeReady uid r.1
      else r.2.2.startParts uid r.2.1
    else s.startParts uid [{ node := hNode h, window := hWindow h, offset := hOffset h, at_ := 0, len := hLength h }]

/-! ## What the end of a frame means (R186, R216, R217, R227, R247, R293, R306) -/

/-- The end of an ATOMIC request: 0 OK with its data, 1 ACCESS, 2 outcome unknown, 3 unreachable, not applied. -/
def State.requestEnd (s : State) (why : Purpose) (outcome : Nat) (data : List Byte) : State :=
  match why with
  | .rat uid i =>
    let d := if data.length = 8 then (data, s) else s.drawBytes 8
    let s := if outcome = 0 then d.2.putResult uid 0 d.1 else s
    (s.partEnd uid i (if outcome = 0 then 0 else if outcome = 1 then 0x10 else if outcome = 2 then 0x11 else 0x12)).xferReady uid
  | .load uid i off =>
    let s := if outcome = 0 then s.putResult uid off data else s
    (s.partEnd uid i (if outcome = 0 then 0 else if outcome = 1 then 0x10 else 0x12)).xferReady uid
  | .probe uid i =>
    let s := s.partEnd uid i (if outcome = 0 then 0 else if outcome = 1 then 0x10 else 0x12)
    (s.modPart uid i fun p => { p with probed := true }).storeAfterProbe uid
  | .borrow uid ix => s.borrowReply uid ix (if outcome = 0 then some (leNat data) else none)
  | _ => s

/-- The routed rank of a copy is lost, in the block of its own DISPATCH (R306). -/
def State.loseCopy (s : State) (uid : Nat) (item : Nat × Nat) : State :=
  match s.cmd uid with
  | none => s
  | some k => match s.block k.ctx with
    | some b => if b.uid = uid then s.loseRank k.ctx item.1 item.2 false else s
    | none => s

/-- A sequenced frame ends: 0 settled with effect, 1 to 3 refused with that reason, 4 abandoned with its Dead peer (R216, R217, R247). -/
def State.frameEnd (s : State) (r : SendRec) (outcome : Nat) : State :=
  match r.why with
  | .copies uid items _ =>
    let s := s.modDisp uid fun d => { d with unacked := d.unacked - 1 }
    if outcome = 0 then s
    else if outcome = 1 then s.endCommand uid 0x10 2
    else items.foldl (fun s it => s.loseCopy uid it) s
  | .close uid =>
    let s := s.modDisp uid fun d => { d with unacked := d.unacked - 1 }
    if outcome = 1 then s.endCommand uid 0x10 2 else s
  | .answers key _ _ => s.modFlask key fun f => { f with answersLeft := f.answersLeft - 1 }
  | .store uid i => (s.partEnd uid i (if outcome = 0 then 0 else if outcome = 4 then 0x12 else 0x10)).xferReady uid
  | .rat _ _ => s.requestEnd r.why (if 0 < r.sends then 2 else 3) []
  | .load _ _ _ => s.requestEnd r.why 3 []
  | .probe _ _ => s.requestEnd r.why 3 []
  | .borrow _ _ => s.requestEnd r.why 2 []
  | .coll _ => s
  | .plain => s

/-- ATOMIC frames that wait for a Live peer which granted no credit end unsent (R225). -/
def State.endUncredited (s : State) (node : Nat) : State :=
  let p := s.peer node
  if p.state = 2 ∧ p.credits = 0 then
    let gone := p.waiting.filter fun r => r.frame.cls == 1
    let s := s.modPeer node fun p => { p with waiting := p.waiting.filter fun r => r.frame.cls != 1 }
    gone.foldl (fun s r => s.frameEnd r 4) s
  else s

/-- The nodes an unready transfer or borrow waits on that granted no credit. -/
def State.sweepUncredited (s : State) : State :=
  (s.peers.map (·.1)).foldl (fun s n => s.endUncredited n) s

/-! ## Replies (R225, R227) -/

/-- A request is over: its frame leaves the flow, and its credit frees after the retention. -/
def State.dropRequest (s : State) (q : AtomReq) : State :=
  let s := s.modPeer q.dst fun p =>
    let k := p.atomic.count q.seq
    { p with atomic := { p.atomic with sent := Tab.drop p.atomic.sent k }, creditsOut := p.creditsOut - 1
             creditEnds := p.creditEnds ++ [s.tick] }
  (({ s with atomReqs := Tab.drop s.atomReqs (reqKey q.dst q.seq) }.leaveEpoch q.dst 1 (· == q.seq))).flush q.dst

/-- A request is abandoned: its outcome is unknown (R227). -/
def State.abandon (s : State) (q : AtomReq) : State :=
  ((s.dropRequest q).inc Reg.outcomeUnknown 0 1).requestEnd q.why 2 []

/-- A request resent with Retry, or abandoned after AtomicRetryLimit retries (R227). -/
def State.retryRequest (s : State) (q : AtomReq) : State :=
  if q.tries < s.rd Reg.atomicRetryLimit 0 then
    let k := (s.peer q.dst).atomic.count q.seq
    match Tab.find (s.peer q.dst).atomic.sent k with
    | none => s
    | some r =>
      let s := (s.resend q.dst 1 k r).2
      { s with atomReqs := Tab.modify s.atomReqs (reqKey q.dst q.seq) fun q => { q with tries := q.tries + 1, tick := s.tick } }
  else s.abandon q

/-- A REPLY to a request (R227). -/
def State.takeReply (s : State) (f : RFrame) : State :=
  match Tab.find s.atomReqs (reqKey f.src f.seq) with
  | none => s
  | some q =>
    match f.op / 2 ^ 8 with
    | 0 => (s.dropRequest q).requestEnd q.why 0 f.payload
    | 1 => s.abandon q
    | 2 => s.retryRequest q
    | _ => (s.dropRequest q).requestEnd q.why 1 []

/-! ## The target (R204, R224, R226, R285, R329, R415) -/

/-- Whether a tally lies in the range of the host that owns a window slot (R329). -/
def State.windowTally (s : State) (slot t : Nat) : Bool := decide (slot < 3840) && s.tallyOwned (slot / 240) t

/-- A remote store frame that is FRESH (R204, R207, R329, R415). -/
def State.landStore (s : State) (rx : Rx) (f : RFrame) : State :=
  let tallied := bit f.aux 29
  let t := bits f.aux 28 12
  let refuse := (s.inc Reg.remoteRefusals 0 1).settleFrame f 1
  match s.xltRemote f.window f.src (if tallied then 8 + 32 else 8) f.offset f.length with
  | none => refuse
  | some (w, a) =>
    if tallied && !s.windowTally w t then refuse
    else
      let tr := s.arriveTrailer rx f
      if !tr.1 then tr.2
      else if tr.2.memBad a f.length = 1 then tr.2.settleFrame f 1
      else
        let s := tr.2.memWrite a f.payload
        (if tallied then (s.tallyAdd t 1).inc Reg.remoteIncrements 0 1 else s).settleFrame f 0

/-- Reply-cache entries of a source still retained. -/
def State.cacheUsed (s : State) (src : Nat) : Nat :=
  (s.replyCache.filter fun e => e.src == src && !s.elapsed e.tick (s.rd Reg.replyRetentionTicks 0)).length

/-- LOAD and PROBE at the target: a ReplyStatus and the bytes (R220, R226). -/
def State.serveRead (s : State) (f : RFrame) : Nat × List Byte :=
  let op := f.op / 2 ^ 12
  let n := if op = 15 then leAt f.payload 0 4 else f.op % 2 ^ 12 + 1
  if op = 0 ∧ 4096 < n then (3, [])
  else match s.xltRemote f.window f.src 4 f.offset n with
    | none => (3, [])
    | some (_, a) => if op = 15 then (0, []) else if s.memBad a n = 1 then (3, []) else (0, s.memRead a n)

/-- A number of the ATOMIC flow received. -/
def State.takeAtomic (s : State) (f : RFrame) : State :=
  s.modPeer f.src fun p => { p with ratomic := p.ratomic.receive f.seq }

/-- An applied operation kept in the reply cache (R224). -/
def State.remember (s : State) (f : RFrame) (old : Nat) : State :=
  let e : CacheEntry := { src := f.src, inc := f.aux / 2 ^ 14, seq := f.seq, tick := s.tick, status := 0, old := old }
  { s with replyCache := s.replyCache ++ [e] }

/-- A FRESH frame of an operation other than LOAD and PROBE (R226, R285). -/
def State.applyFresh (s : State) (f : RFrame) : State :=
  let op := f.op / 2 ^ 12
  let host := s.landingHost f.window
  let addr := s.xltRemote f.window f.src 16 f.offset 8
  if host.isNone && addr.isNone then ((s.takeAtomic f).inc Reg.remoteRefusals 0 1).reply f 3 []
  else if (s.peer f.src).granted ≤ s.cacheUsed f.src then (s.inc Reg.atomicBusy 0 1).reply f 2 []
  else
    let r := match host, addr with
      | some h, _ => if op = 1 then s.poolAdd h f (leAt f.payload 0 8) else (3, 0, s)
      | none, some (_, a) =>
        let r := s.applyAtomic a op f.payload
        (if r.1 = 1 then 3 else 0, r.2.1, r.2.2)
      | none, none => (3, 0, s)
    let s := r.2.2
    if r.1 = 2 then (s.inc Reg.atomicBusy 0 1).reply f 2 []
    else if r.1 = 3 then (s.takeAtomic f).reply f 3 []
    else (((s.takeAtomic f).remember f r.2.1).inc Reg.atomicsApplied 0 1).reply f 0 (leBytes 8 r.2.1)

/-- An OLD or DUPLICATE frame of such an operation: the cached reply, or STALE (R226). -/
def State.answerOld (s : State) (f : RFrame) : State :=
  let s := s.inc Reg.duplicates 0 1
  match s.replyCache.find? fun e => e.src == f.src && e.inc == f.aux / 2 ^ 14 && e.seq == f.seq with
  | some e => (s.inc Reg.atomicCachedReplies 0 1).reply f e.status (leBytes 8 e.old)
  | none => (s.inc Reg.atomicStale 0 1).reply f 1 []

/-- A LOAD or PROBE answered, FRESH or not (R226). -/
def State.answerRead (s : State) (f : RFrame) (fresh : Bool) : State :=
  let r := s.serveRead f
  let s := if fresh then s.takeAtomic f else s.inc Reg.duplicates 0 1
  (s.inc Reg.remoteRefusals 0 (b2n (r.1 == 3))).reply f r.1 r.2

/-- An ATOMIC frame whose peer is Live (R226). -/
def State.serveAtomic (s : State) (rx : Rx) (f : RFrame) : State :=
  let op := f.op / 2 ^ 12
  if f.aux % 2 ^ 14 ≠ s.rd Reg.incarnation 0 % 2 ^ 14 then (s.inc Reg.atomicStale 0 1).reply f 1 []
  else
    let c := (s.peer f.src).ratomic.check f.seq
    let tr := s.arriveTrailer rx f
    if !tr.1 then tr.2
    else
      let s := (tr.2.inc Reg.expired 0 c.2.1).modPeer f.src fun p => { p with ratomic := c.2.2 }
      if op == 0 || op == 15 then s.answerRead f (c.1 == 0)
      else if c.1 = 0 then s.applyFresh f
      else s.answerOld f

end Sys2Proof.Machine
end

