-- ==== Sys2Proof/Machine/Coll.lean ====
section
/-! DEFINITION. COL and the balance loop: groups, trees and rings, segments, the decision, the watchdog, rounds, epochs and a late bias (R333 to R356). -/

set_option Elab.async false

set_option linter.unusedVariables false

namespace Sys2Proof.Machine

/-! ## Positions and transfers (R338 to R340) -/

/-- The lowest set bit of a tree position, as a power of two; 256 for position 0. -/
def lowBit (q : Nat) : Nat := if q = 0 then 256 else ((List.range 8).map (2 ^ ·)).find? (fun b => q / b % 2 == 1) |>.getD 256
/-- The parent of a tree position above 0. -/
def treeParent (q : Nat) : Nat := q - lowBit q
/-- The children of a position as (j, position), j ascending. -/
def treeChildren (n q : Nat) : List (Nat × Nat) :=
  ((List.range 8).map fun j => (j, q + 2 ^ j)).filter fun c => decide (2 ^ c.1 < lowBit q) && decide (c.2 < n)
/-- A position and its ancestors up to position 0, itself left out. -/
def treePath : Nat → Nat → List Nat
  | 0, _ => []
  | fuel + 1, q => if q = 0 then [] else treeParent q :: treePath fuel (treeParent q)

def Group.size (g : Group) : Nat := g.members.length
def State.group (s : State) (g : Nat) : Group := Tab.get {} s.groups g
def State.modColl (s : State) (g : Nat) (f : Group → Group) : State := { s with groups := Tab.set {} s.groups g (f (s.group g)) }
def State.modRun (s : State) (g : Nat) (f : Coll → Coll) : State := s.modColl g fun x => { x with running := x.running.map f }

def Coll.reduction (c : Coll) : Bool := decide (c.op ≤ 1)
/-- Elements of a reduction (R336). -/
def Coll.elems (c : Coll) : Nat := c.operandBytes * 8 / elemBits c.fmt
/-- Bytes of the data vector on the wire of a group of n (R341, R343). -/
def Coll.wireBytes (c : Coll) (n : Nat) : Nat :=
  if c.reduction then 4 * c.elems else if c.op = 2 then n * c.operandBytes else c.operandBytes
/-- The result size R (R336). -/
def Coll.resultSize (c : Coll) (n : Nat) : Nat :=
  if c.reduction then roundUp (c.elems * elemBits c.resultFmt / 8) 64 else c.wireBytes n

/-- The position of a rank, and the rank of a position (R338). -/
def Coll.position (c : Coll) (n rank : Nat) : Nat := (rank + n - c.root) % max 1 n
def Coll.rankAt (c : Coll) (n q : Nat) : Nat := (q + c.root) % max 1 n

/-- The wire bytes of ring chunk c: from and to (R339). -/
def Coll.chunk (c : Coll) (n i : Nat) : Nat × Nat :=
  if c.op = 2 then (i * c.operandBytes, (i + 1) * c.operandBytes) else (4 * (i * c.elems / n), 4 * ((i + 1) * c.elems / n))

/-- The ring steps of a collective: reduce-scatter and all-gather of an ALLREDUCE, all-gather of an ALLGATHER (R339). -/
def Coll.ringSteps (c : Coll) (n : Nat) : Nat := if c.op = 2 then n - 1 else 2 * (n - 1)
/-- The chunk that a member sends in a ring step. -/
def Coll.ringSend (c : Coll) (n me s : Nat) : Nat :=
  if c.op = 2 then (me + n - s) % n else if s < n - 1 then (me + n - s) % n else (me + 1 + n - (s - (n - 1))) % n

/-- The wire bytes that the subtree of position q covers in an ALLGATHER, or the whole vector. -/
def Coll.subtree (c : Coll) (n q : Nat) : Nat × Nat :=
  if c.op = 2 then (q * c.operandBytes, min n (q + lowBit q) * c.operandBytes) else (0, c.wireBytes n)

/-- The bytes that a send or receive of a number carries at a position; me is the sender's rank. -/
def Coll.span (c : Coll) (n id q sender : Nat) : Nat × Nat :=
  if 32 ≤ id then c.chunk n (c.ringSend n sender (id - 32)) else if id = 16 then (0, c.wireBytes n) else c.subtree n q

/-- The segments of a span. -/
def segsOf (p : Nat × Nat) : Nat := ceilDiv (p.2 - p.1) 8192

/-! ## Arithmetic (R341, R342) -/

/-- a ⊕ b of widened elements: float sums by one rounding, integer sums saturated, MAX and MIN with NaN canonical and +0 above −0. -/
def collCombine (fmt reduce a b : Nat) : Nat :=
  if fmt = 11 then
    let x := toSigned 32 a
    let y := toSigned 32 b
    ofSigned 32 (if reduce = 0 then clampInt (-(2 ^ 31)) (2 ^ 31 - 1) (x + y) else if reduce = 1 then max x y else min x y)
  else if reduce = 0 then addF32 a b
  else
    let va := valF32 a
    let vb := valF32 b
    if va.isNan || vb.isNan then 0x7FC00000
    else
      let lt := if va.numEq vb then bit a 31 && !bit b 31 else va.lt vb
      if reduce = 1 then (if lt then b else a) else (if lt then a else b)

/-- An operand widened to FP32 or INT32 elements. -/
def Coll.widen (c : Coll) (l : List Byte) : List Nat :=
  let codes := unpackElems (elemBits c.fmt) c.elems l
  if c.fmt = 11 then codes else codes.map fun x => roundF32 (decodeElem c.fmt x)

/-- The result bytes in ResultFormat, and the NaN conversions. -/
def Coll.resultBytes (c : Coll) : List Byte × Nat :=
  if c.reduction then
    if c.fmt = 11 then (c.work.flatMap (leBytes 4), 0)
    else
      let vs := c.work.map valF32
      (encodeVec c.resultFmt vs, countNan vs)
  else (c.work.map (BitVec.ofNat 8), 0)

/-- The payload of a run of wire bytes of the working area. -/
def Coll.wire (c : Coll) (lo hi : Nat) : List Byte :=
  if c.reduction then ((c.work.drop (lo / 4)).take ((hi - lo) / 4)).flatMap (leBytes 4) else ((c.work.drop lo).take (hi - lo)).map (BitVec.ofNat 8)

/-- A list with a run replaced from an index on. -/
def splice {α : Type} (l : List α) (i : Nat) (new : List α) : List α := l.take i ++ new ++ l.drop (i + new.length)

/-- A consumed payload at a wire offset: added into the working area, or copied there (R344). -/
def Coll.take (c : Coll) (off : Nat) (add : Bool) (payload : List Byte) : Coll :=
  if c.reduction then
    let new := (chunks 4 payload.length payload).map leNat
    let old := (c.work.drop (off / 4)).take new.length
    { c with work := splice c.work (off / 4) (if add then (old.zip new).map fun p => collCombine c.fmt c.reduce p.1 p.2 else new) }
  else { c with work := splice c.work off (payload.map (·.toNat)) }

/-! ## Sending (R343, R344) -/

/-- Segments of a group to a neighbour that are not settled: outstanding, or waiting for the peer. -/
def State.unsettled (s : State) (g node : Nat) : Nat :=
  let p := s.peer node
  let mine := fun (r : SendRec) => r.why == .coll g && r.frame.op / 2 ^ 12 == 0
  ((p.coll.sent.map (·.2) ++ p.waiting).filter mine).length

/-- A COLL frame of a collective. -/
def State.collFrame (s : State) (g number node kind ix level off : Nat) (payload : List Byte) : RFrame :=
  { cls := 4, src := s.nodeId, dst := node, op := kind * 2 ^ 12 + ix, aux := s.rd Reg.groupKey g * 2 ^ 14 + number % 2 ^ 14
    window := level, offset := off, payload := payload }

def State.sendColl (s : State) (g node : Nat) (f : RFrame) : State := s.handOver node { frame := f, why := .coll g, pace := 2 }

/-- Waiting segments of a group go while their neighbour has fewer than CollDepth unsettled. -/
def State.collPump (s : State) (g : Nat) : State :=
  (s.group g).outgoing.foldl (fun s x =>
    if s.unsettled g x.1 < s.rd Reg.collDepth g then s.sendColl g x.1 x.2
    else s.modColl g fun y => { y with outgoing := y.outgoing ++ [x] }) (s.modColl g fun y => { y with outgoing := [] })

/-- The segments of one send queued for a neighbour. -/
def State.sendSpan (s : State) (g : Nat) (c : Coll) (node level : Nat) (span : Nat × Nat) : State :=
  let segs := (List.range (segsOf span)).map fun k =>
    let lo := span.1 + 8192 * k
    (node, s.collFrame g c.number node 0 k level lo (c.wire lo (min span.2 (lo + 8192))))
  (s.modColl g fun y => { y with outgoing := y.outgoing ++ segs }).collPump g

/-- A report, commit or abort. -/
def State.sendKind (s : State) (g number node kind : Nat) : State := s.sendColl g node (s.collFrame g number node kind 0 0 0 [])

/-- A member's node by rank. -/
def Group.node (g : Group) (rank : Nat) : Nat := g.members.getD rank 0

/-- A frame of a kind sent to every child of position q. -/
def State.sendChildren (s : State) (g : Nat) (c : Coll) (q kind : Nat) : State :=
  let x := s.group g
  (treeChildren x.size q).foldl (fun s ch => s.sendKind g c.number (x.node (c.rankAt x.size ch.2)) kind) s

def State.myRank (s : State) (g : Nat) : Nat := s.rd Reg.myRank g
def State.collPos (s : State) (g : Nat) (c : Coll) : Nat := c.position (s.group g).size (s.myRank g)

/-! ## The balance loop's tables (R349 to R355) -/

def State.balanceLayers (s : State) (b : Nat) : List Nat :=
  (List.range (s.rd Reg.lastLayer b + 1 - s.rd Reg.firstLayer b)).map (· + s.rd Reg.firstLayer b)

def padTo64 (l : List Byte) : List Byte := slice l 0 (roundUp l.length 64)

/-- The experts of a layer of a plan. -/
def State.layerE (s : State) (p l : Nat) : Nat := match s.plan p with
  | some q => ((q.layers[l]?).map (·.e)).getD 0
  | none => 0

/-- A layer's load counts moved to the snapshot, and set to 0 (R350, R356). -/
def State.takeLoads (s : State) (p l : Nat) : List Nat × State :=
  let v := (s.layerState p l).loads (s.layerE p l)
  (v, s.modLayer p l fun ls => { ls with load := [] })

/-- The biases in force at a layer: a pending table under which a DISPATCH has scored is in force (R352). -/
def LayerState.inForce (ls : LayerState) : Tab Nat := if ls.pendBias.isSome && ls.pendUsed then biasTab (ls.pendBias.getD []) else ls.bias

/-- New biases of one layer (R351). -/
def State.newBiases (s : State) (b : Nat) (masked : Nat → Bool) (old : Nat → Int) (loads : List Int) : List Int :=
  let un := loads.zipIdx.filter fun x => !masked x.2
  let total : Int := un.foldl (fun t x => t + x.1) 0
  let eu : Int := un.length
  let gain : Int := s.rd Reg.gain b
  let step : Int := s.rd Reg.maxStep b
  loads.zipIdx.map fun x =>
    if masked x.2 || total == 0 then old x.2
    else
      let d := clampInt (-step) step (Int.tdiv (gain * (total - eu * x.1)) total)
      clampInt (s.rdInt Reg.biasMin b) (s.rdInt Reg.biasMax b) (old x.2 + d)

/-- The epoch that rank 0 broadcasts: header and tables (R351, R352). -/
def State.epochBytes (s : State) (b : Nat) (r : Round) (sums : List Nat) : List Byte :=
  let p := s.rd Reg.balancePlan b
  match s.plan p with
  | none => []
  | some pl =>
    let apply := (r.step + 1 + s.rd Reg.applyDelay b) % 2 ^ 32
    let head := leBytes 64 ((s.rd Reg.epochInForce b + 1) % 2 ^ 32 * 2 ^ 480 + apply * 2 ^ 448 + r.step % 2 ^ 32 * 2 ^ 416 + pl.crc * 2 ^ 384 +
      p * 2 ^ 368 + s.rd Reg.firstLayer b * 2 ^ 360 + s.rd Reg.lastLayer b * 2 ^ 352)
    let go := fun (acc : List Nat × List Byte) (l : Nat) =>
      let e := s.layerE p l
      let ls := s.layerState p l
      let old := fun (i : Nat) => toSigned 16 (Tab.get 0 ls.inForce i)
      let masked := fun (i : Nat) => match pl.layers[l]? with
        | some ly => pl.masked ly r.mask i
        | none => false
      let new := s.newBiases b masked old ((acc.1.take e).map (toSigned 32))
      (acc.1.drop (roundUp (4 * e) 64 / 4), acc.2 ++ padTo64 (new.flatMap fun v => leBytes 2 (ofSigned 16 v)))
    head ++ ((s.balanceLayers b).foldl go (sums, [])).2

/-- The bytes of an epoch. -/
def State.epochSize (s : State) (b : Nat) : Nat :=
  64 + ((s.balanceLayers b).map fun l => roundUp (2 * s.layerE (s.rd Reg.balancePlan b) l) 64).foldl (· + ·) 0

/-- The ticks a late window has held DISPATCHes counted, and the hold over (R354). -/
def State.endHeld (s : State) (b : Nat) : State :=
  match (s.balance b).holdTick with
  | none => s
  | some t => (s.modBalance b fun g => { g with holdTick := none }).inc Reg.biasHeldTicks 0 (s.since t)

/-- A committed epoch armed or ignored (R352, R354, R355). -/
def State.takeEpoch (s : State) (b : Nat) (l : List Byte) : State :=
  let h := leAt l 0 64
  let number := bits h 511 480
  let apply := bits h 479 448
  let p := s.rd Reg.balancePlan b
  let crcOk := match s.plan p with
    | some q => q.crc == bits h 415 384
    | none => false
  let now := match s.ctx (s.rd Reg.balanceContext b) with
    | some c => c.step
    | none => 0
  let st := s.rd Reg.balanceState b
  let ok := if st = 1 then crcOk && number == (s.rd Reg.epochInForce b + 1) % 2 ^ 32
    else st == 3 && crcOk && (s.balance b).rejoinStep.isNone && stepAbove apply now
  if !ok then s.inc Reg.epochsIgnored 0 1
  else
    let arm := fun (acc : Nat × State) (ly : Nat) =>
      let e := s.layerE p ly
      let table := (List.range e).map fun i => leAt l (acc.1 + 2 * i) 2
      (acc.1 + roundUp (2 * e) 64, acc.2.modLayer p ly fun ls => ls.arm table apply number)
    let s := ((s.balanceLayers b).foldl arm (64, s)).2
    let s := (s.inc Reg.epochsArmed 0 1).wr Reg.pendingApplyStep b apply
    let s := s.endHeld b
    s.modBalance b fun g => { g with expect := none, rejoinStep := if st = 3 then some apply else g.rejoinStep }

/-! ## Launch (R334, R337, R348) -/

/-- Whether a group runs collectives (R333). -/
def State.groupReady (s : State) (g : Nat) : Bool := s.rb Reg.groupEnable g && (s.rd Reg.groupStatus g == 2 || s.rd Reg.groupStatus g == 3)

/-- A collective issued to its group: it takes the next number (R334). -/
def State.issueColl (s : State) (g : Nat) (c : Coll) : State :=
  s.modColl g fun x => { x with issued := x.issued + 1, queue := x.queue ++ [{ c with number := x.issued }] }

/-- Whether an algorithm is the ring (R340). -/
def State.usesRing (s : State) (g : Nat) (c : Coll) : Bool :=
  if c.op = 1 ∨ c.op = 3 then false
  else
    let a := s.rd Reg.algorithm g
    a == 0 || (a == 2 && decide (s.rd Reg.treeMaxBytes g < c.resultSize (s.group g).size))

/-- The COLL command of a descriptor (R335, R336). -/
def collOf (uid : Nat) (payload : List Byte) : Coll :=
  let d := leAt payload 0 64
  { uid := some uid, op := bits d 343 340, reduce := bits d 339 338, root := bits d 337 330, fmt := bits d 351 348, resultFmt := bits d 347 344
    operandAddr := bits d 511 448, operandBytes := bits d 383 352, resultAddr := bits d 447 384
    operand := if bits d 511 448 = 0 then slice payload 64 (bits d 383 352) else [] }

/-- An admitted COLL goes to its group (R78, R347). -/
def State.startColl (s : State) (uid : Nat) : State :=
  match s.cmd uid with
  | none => s
  | some k => s.issueColl (fld k.header 271 256) (collOf uid k.payload)

/-! ## Consuming (R344) -/

/-- What a segment is to the running collective of a member: its receive, whether it is added, its span; none when it is no part of it. -/
def State.segmentOfFrame (s : State) (g : Nat) (c : Coll) (f : RFrame) : Option (Nat × Bool × (Nat × Nat)) :=
  let x := s.group g
  let n := x.size
  let me := s.myRank g
  let q := s.collPos g c
  match x.members.findIdx? (· == f.src) with
  | none => none
  | some r =>
    if c.ring then
      if r = (me + n - 1) % n ∧ f.window < c.ringSteps n then
        some (32 + f.window, c.op == 0 && decide (f.window < n - 1), c.span n (32 + f.window) q r)
      else none
    else
      let p := c.position n r
      match (treeChildren n q).find? fun ch => ch.2 == p with
      | some ch => if c.op = 3 then none else some (ch.1, c.reduction, c.span n ch.1 p r)
      | none => if q ≠ 0 ∧ treeParent q = p ∧ c.op ≠ 1 then some (16, false, c.span n 16 q r) else none

/-- Whether a receive is complete. -/
def Coll.gotAll (c : Coll) (id : Nat) (span : Nat × Nat) : Bool := (List.range (segsOf span)).all fun k => c.got.contains (id, k)

/-- Whether a segment can be consumed now: an up segment after the same one of every earlier child (R338). -/
def State.consumable (s : State) (g : Nat) (c : Coll) (id k : Nat) : Bool :=
  if c.reduction ∧ !c.ring ∧ id < 15 then
    (treeChildren (s.group g).size (s.collPos g c)).all fun ch => decide (id ≤ ch.1) || c.got.contains (ch.1, k)
  else true

/-- A COLL frame that is kept settles, and counts as stale where it belongs to an ended collective (R344). -/
def State.staleColl (s : State) (f : RFrame) : State := (s.inc Reg.collStale 0 (b2n (f.op / 2 ^ 12 != 3))).settleKept f 0

/-- The record of a residue event of a group's collective (R342). -/
def collEv (src g number k status : Nat) : Ev := { src := src, status := status, a := g * 2 ^ 32 + number, b := k }

/-- A member wants an abort: position 0 decides it, another sends it toward position 0 once (R346). Whether it is decided here. -/
def State.wantAbort (s : State) (g : Nat) : Bool × State :=
  match (s.group g).running with
  | none => (false, s)
  | some c =>
    let x := s.group g
    let q := s.collPos g c
    if q = 0 then (true, s)
    else if c.abortSent then (false, s)
    else (false, (s.modRun g fun c => { c with abortSent := true }).sendKind g c.number (x.node (c.rankAt x.size (treeParent q))) 3)

/-- One segment consumed: whether its residue failed for good (R342, R344). -/
def State.consume (s : State) (g : Nat) (c : Coll) (f : RFrame) (id : Nat) (add : Bool) : Bool × State :=
  let k := f.op % 2 ^ 12
  let m := if add then s.residueOutcome 0x0B01 else 0
  let s := s.settleKept f 0
  if m = 2 then
    (true, ((s.injected 0x0B02).inc Reg.collResidueFailures 0 1).raise (collEv 0x0B02 g c.number k 0x14))
  else
    let s := if m = 1 then ((s.injected 0x0B01).inc Reg.collResidueRetries 0 1).raise (collEv 0x0B01 g c.number k 0) else s
    (false, s.modRun g fun c => { c.take f.offset add f.payload with got := (id, k) :: c.got })

/-! ## Ends (R336, R345 to R347, R353) -/

/-- The next round of a balance group starts its REDUCE (R350). -/
def State.issueReduce (s : State) (b : Nat) (r : Round) : State :=
  let g := s.rd Reg.collGroup b
  let s := s.modBalance b fun x => { x with round := some r }
  s.issueColl g { bal := some b, op := 1, operandBytes := r.operand.length, operand := r.operand }

/-- A round is over; one whose snapshot waits begins. -/
def State.endRound (s : State) (b : Nat) : State :=
  match (s.balance b).later with
  | r :: rest => (s.modBalance b fun x => { x with later := rest }).issueReduce b r
  | [] => s.modBalance b fun x => { x with round := none }

/-- A collective of a balance round has ended (R351 to R353). -/
def State.roundStep (s : State) (b : Nat) (c : Coll) (ok : Bool) : State :=
  let g := s.rd Reg.collGroup b
  let tally := fun (s : State) => if s.rb Reg.completionTallyEnable g then s.tallyAdd (s.rd Reg.completionTally g % 2 ^ 17) 1 else s
  if !ok then
    let s := (s.endHeld b).modBalance b fun x => { x with expect := none }
    tally ((s.inc Reg.abortedRounds 0 1).endRound b)
  else if c.op = 1 then
    match (s.balance b).round with
    | none => s
    | some r =>
      s.issueColl g { bal := some b, op := 3, operandBytes := s.epochSize b, operand := if s.myRank g = 0 then s.epochBytes b r c.work else [] }
  else tally ((s.takeEpoch b (c.work.map (BitVec.ofNat 8))).endRound b)

/-- The collective of a group leaves it: counters, what is left of its frames (R344, R347). -/
def State.leaveColl (s : State) (g : Nat) (c : Coll) (ok : Bool) : State :=
  let mine := fun (f : RFrame) => f.aux % 2 ^ 14 == c.number % 2 ^ 14
  let old := (s.group g).stash.filter mine
  let s := s.modColl g fun x => { x with
    running := none, stash := x.stash.filter fun f => !mine f, outgoing := if ok then x.outgoing else x.outgoing.filter fun y => !mine y.2 }
  let s := old.foldl (fun s f => s.staleColl f) s
  ((s.inc Reg.collNumber g 1).wr Reg.groupStatus g 2).inc (if ok then Reg.collCommitted else Reg.collAborted) 0 1

/-- The result of a COLL command written, and the command ready (R336, R337, R341). -/
def State.finishColl (s : State) (g uid : Nat) (c : Coll) (st : Nat) : State :=
  match s.cmd uid with
  | none => s
  | some k =>
    let st := if k.marked ≠ 0 then k.marked else st
    let s := if s.rb Reg.completionTallyEnable g then s.tallyCredit k.ctx k.heat (s.rd Reg.completionTally g % 2 ^ 17) 1 else s
    if st ≠ 0 then (s.modCmd uid fun k => { k with resultBytes := 0 }).makeReady uid st
    else
      let r := c.resultBytes
      let s := s.modCmd uid fun k => { k with numExc := min 0xFFFF (k.numExc + r.2) }
      let bytes := slice r.1 0 (c.resultSize (s.group g).size)
      if c.resultAddr = 0 then (s.setResult uid bytes).makeReady uid 0
      else
        let w := s.hostWrite k.host c.resultAddr bytes
        w.2.makeReady uid (if w.1 = 1 then 0x10 else 0)

/-- A collective ends on this member: OK, or COLL_ABORT with the status of a failed check in its place. -/
def State.endColl (s : State) (g : Nat) (ok : Bool) : State :=
  match (s.group g).running with
  | none => s
  | some c =>
    let s := s.leaveColl g c ok
    match c.uid, c.bal with
    | some uid, _ => s.finishColl g uid c (if ok then 0 else if c.failed ≠ 0 then c.failed else 0x14)
    | none, some b => s.roundStep b c ok
    | none, none => s

/-- An abort decided or received from the parent: passed down, and the collective ends (R345). -/
def State.abortDown (s : State) (g : Nat) : State :=
  match (s.group g).running with
  | none => s
  | some c => (s.sendChildren g c (s.collPos g c) 3).endColl g false

/-- A commit decided or received: passed down, and the collective ends OK (R345). -/
def State.commitDown (s : State) (g : Nat) : State :=
  match (s.group g).running with
  | none => s
  | some c => (s.sendChildren g c (s.collPos g c) 2).endColl g true

/-- A member asks for an abort, and position 0 decides it at once (R346). -/
def State.askAbort (s : State) (g : Nat) : State :=
  let r := s.wantAbort g
  if r.1 then r.2.abortDown g else r.2

/-! ## The data phase (R338, R339, R345) -/

/-- A send of the running collective begun once. -/
def State.beginSend (s : State) (g : Nat) (c : Coll) (id : Nat) (dests : List (Nat × Nat × (Nat × Nat))) : State :=
  let s := s.modRun g fun c => { c with sentTo := id :: c.sentTo, stepTick := s.tick }
  dests.foldl (fun s x => s.sendSpan g c x.1 x.2.1 x.2.2) s

/-- The next send that what has been received allows. -/
def State.nextSend (s : State) (g : Nat) (c : Coll) : Option (Nat × List (Nat × Nat × (Nat × Nat))) :=
  let x := s.group g
  let n := x.size
  let me := s.myRank g
  let q := s.collPos g c
  if c.ring then
    let ok := fun (i : Nat) => !c.sentTo.contains (32 + i) &&
      (i == 0 || c.gotAll (31 + i) (c.span n (31 + i) q ((me + n - 1) % n)))
    ((List.range (c.ringSteps n)).find? ok).map fun i => (32 + i, [(x.node ((me + 1) % n), i, c.span n (32 + i) q me)])
  else
    let kids := treeChildren n q
    let up := c.op == 3 || kids.all fun ch => c.gotAll ch.1 (c.span n ch.1 ch.2 0)
    let full := if q = 0 then up else c.gotAll 16 (c.span n 16 q 0)
    if c.op ≠ 3 ∧ q ≠ 0 ∧ up ∧ !c.sentTo.contains 15 then
      some (15, [(x.node (c.rankAt n (treeParent q)), Nat.log2 (lowBit q), c.subtree n q)])
    else if c.op ≠ 1 ∧ full ∧ !c.sentTo.contains 16 then
      some (16, kids.map fun ch => (x.node (c.rankAt n ch.2), ch.1, c.span n 16 q 0))
    else none

/-- Whether the data phase of a member is over: everything received, everything it sends begun. -/
def State.dataOver (s : State) (g : Nat) (c : Coll) : Bool :=
  let n := (s.group g).size
  let q := s.collPos g c
  if c.ring then (List.range (c.ringSteps n)).all fun i =>
      c.sentTo.contains (32 + i) && c.gotAll (32 + i) (c.span n (32 + i) q ((s.myRank g + n - 1) % n))
  else if c.op = 1 then (if q = 0 then (treeChildren n q).all fun ch => c.gotAll ch.1 (c.span n ch.1 ch.2 0) else c.sentTo.contains 15)
  else c.sentTo.contains 16

/-- What a member does once its data phase is over: the tree ALLREDUCE ends, others report or decide (R345). -/
def State.afterData (s : State) (g : Nat) (c : Coll) : State :=
  let x := s.group g
  let q := s.collPos g c
  let kids := treeChildren x.size q
  if c.op = 0 ∧ !c.ring then s.endColl g true
  else if c.op = 1 then (if q = 0 then s.commitDown g else s)
  else if kids.all fun ch => c.reports.contains ch.2 then
    if q = 0 then s.commitDown g
    else if c.reported then s
    else (s.modRun g fun c => { c with reported := true }).sendKind g c.number (x.node (c.rankAt x.size (treeParent q))) 1
  else s

/-- The first stashed frame of the running collective that can be taken now. -/
def State.nextStashed (s : State) (g : Nat) (c : Coll) : Option RFrame :=
  (s.group g).stash.find? fun f => f.aux % 2 ^ 14 == c.number % 2 ^ 14 &&
    (f.op / 2 ^ 12 != 0 || match s.segmentOfFrame g c f with
      | some r => s.consumable g c r.1 (f.op % 2 ^ 12) || c.got.contains (r.1, f.op % 2 ^ 12)
      | none => true)

/-- One frame of the running collective taken: a segment consumed, a report noted, a commit or abort obeyed (R344 to R346). -/
def State.takeFrame (s : State) (g : Nat) (c : Coll) (f : RFrame) : State :=
  let x := s.group g
  let n := x.size
  let q := s.collPos g c
  let s := s.modColl g fun y => { y with stash := y.stash.erase f }
  let from_ := match x.members.findIdx? (· == f.src) with
    | some r => c.position n r
    | none => n
  let parent := q ≠ 0 ∧ from_ = treeParent q
  match f.op / 2 ^ 12 with
  | 0 =>
    match s.segmentOfFrame g c f with
    | none => s.settleKept f 0
    | some r =>
      let k := f.op % 2 ^ 12
      let lo := r.2.2.1 + 8192 * k
      if c.got.contains (r.1, k) || decide (segsOf r.2.2 ≤ k) || f.offset != lo || f.length != min r.2.2.2 (lo + 8192) - lo then s.settleKept f 0
      else
        let o := s.consume g c f r.1 r.2.1
        if o.1 then o.2.askAbort g else o.2
  | 1 => (s.settleKept f 0).modRun g fun c => { c with reports := from_ :: c.reports }
  | 2 => if parent then (s.settleKept f 0).commitDown g else s.settleKept f 0
  | _ => if parent then (s.settleKept f 0).abortDown g else (s.settleKept f 0).askAbort g

/-- One turn of a running collective: a stashed frame, a send, or the end of its data phase; none when nothing is left to do. -/
def State.collTurn (s : State) (g : Nat) : Option State :=
  match (s.group g).running with
  | none => none
  | some c =>
    match s.nextStashed g c with
    | some f => some (s.takeFrame g c f)
    | none =>
      if c.failed ≠ 0 then none
      else
        match s.nextSend g c with
        | some (id, dests) => some (s.beginSend g c id dests)
        | none =>
          if s.dataOver g c then
            let s' := (if c.dataDone then s else s.modRun g fun c => { c with dataDone := true })
            let s' := s'.afterData g { c with dataDone := true }
            if s' = s then none else some s'
          else none

/-- A collective runs as far as it can. -/
def State.collGo : Nat → State → Nat → State
  | 0, s, _ => s
  | fuel + 1, s, g => match s.collTurn g with
    | none => s
    | some s => State.collGo fuel s g

def State.collRun (s : State) (g : Nat) : State := State.collGo 40000 s g

/-- Collectives running over all groups (11, The collective unit). -/
def State.collsRunning (s : State) : Nat := (s.groups.filter fun g => g.2.running.isSome).length

/-- The operand of a collective at its launch, and the status of its checks (R337, R348, R414, R541). -/
def State.operandOf (s : State) (g : Nat) (c : Coll) : Nat × List Byte × State :=
  match c.uid with
  | none => (0, c.operand, s)
  | some uid =>
    match s.cmd uid with
    | none => (0, [], s)
    | some k =>
      let out := c.resultAddr == 0 || (s.xlt k.host c.resultAddr (c.resultSize (s.group g).size) true).isSome
      if !out then (0x10, [], s.inc Reg.localRefusals 0 1)
      else if c.op = 3 ∧ s.collPos g c ≠ 0 then (0, [], s)
      else if c.operandAddr = 0 then (0, c.operand, s)
      else
        let r := s.hostRead k.host c.operandAddr c.operandBytes
        (if r.1 = 1 then 0x10 else if r.1 = 2 then 0x18 else 0, r.2.1, r.2.2)

/-- The working area at launch (R337, R341). -/
def Coll.prepare (c : Coll) (n me : Nat) (l : List Byte) : Coll :=
  if c.reduction then { c with work := c.widen l }
  else
    let w := List.replicate (c.wireBytes n) 0
    { c with work := splice w (if c.op = 2 then me * c.operandBytes else 0) (l.map (·.toNat)) |>.take w.length }

/-- The result area at ResultAddr is undefined from the launch on (R337). -/
def State.spoilResult (s : State) (g : Nat) (c : Coll) : State :=
  match c.uid with
  | none => s
  | some uid => match s.cmd uid with
    | none => s
    | some k =>
      if c.resultAddr = 0 then s
      else
        let d := s.drawBytes (c.resultSize (s.group g).size)
        (d.2.hostWrite k.host c.resultAddr d.1).2

/-- COL launches the first queued collective of a free group, at most 8 at once (R348). -/
def State.collLaunch (s : State) (g : Nat) : State :=
  let x := s.group g
  match x.running, x.queue with
  | none, c :: rest =>
    if s.works 11 && s.groupReady g && decide (s.collsRunning < 8) then
      let c := { c with ring := s.usesRing g c, stepTick := s.tick }
      let r := s.operandOf g c
      let c := { c.prepare x.size (s.myRank g) r.2.1 with failed := r.1 }
      let s := (r.2.2.modColl g fun y => { y with running := some c, queue := rest }).inc Reg.collStarted 0 1
      let s := s.wr Reg.groupStatus g 3
      if c.failed ≠ 0 then (s.askAbort g).collRun g else (s.spoilResult g c).collRun g
    else s
  | _, _ => s

/-! ## Arriving frames (R343 to R346) -/

/-- The enabled group of a GroupKey. -/
def State.groupOfKey (s : State) (key : Nat) : Option Nat := (List.range 64).find? fun g => s.groupReady g && s.rd Reg.groupKey g == key

/-- The number of a group's collective in progress, or of the next. -/
def Group.current (x : Group) : Nat := match x.running, x.queue with
  | some c, _ => c.number
  | none, c :: _ => c.number
  | none, [] => x.issued

/-- A COLL frame of a kind arrives: an ended number settles at once, a later one waits (R344). -/
def State.collArrive (s : State) (rx : Rx) (f : RFrame) (kind : Nat) : State :=
  if f.cls ≠ 4 ∨ f.op / 2 ^ 12 ≠ kind then s
  else
    let a := s.arrive rx f
    if !a.1 then a.2
    else
      let s := a.2
      match s.groupOfKey (bits f.aux 29 14) with
      | none => s.settleFrame f 2
      | some g =>
        let tr := s.arriveTrailer rx f
        if !tr.1 then tr.2
        else
          let s := tr.2
          let x := s.group g
          let d := toSigned 14 ((f.aux % 2 ^ 14 + 2 ^ 14 - x.current % 2 ^ 14) % 2 ^ 14)
          let s := s.keepFrame f
          if d < 0 then s.staleColl f
          else
            let s := s.modColl g fun y => { y with stash := y.stash ++ [f] }
            let s := match x.running with
              | some c => if kind = 0 ∧ d = 0 ∧ !c.dataDone then s.modRun g fun c => { c with stepTick := s.tick } else s
              | none => s
            s.collRun g

/-- A step watchdog expires (R346). -/
def State.collWatchdog (s : State) (g : Nat) : State :=
  match (s.group g).running with
  | none => s
  | some c =>
    let q := s.collPos g c
    if s.works 11 ∧ s.elapsed c.stepTick (s.rd Reg.collStepTicks g) ∧ (!c.dataDone ∨ q = 0) ∧ !c.abortSent then
      ((s.inc Reg.collWatchdogFires 0 1).askAbort g).collRun g
    else s

/-- Position 0, or a node of a member's path to it, has been declared Dead: the member completes COLL_ABORT (R346). -/
def State.collDead (s : State) (node : Nat) : State :=
  (s.groups.map (·.1)).foldl (fun s g =>
    match (s.group g).running with
    | none => s
    | some c =>
      let x := s.group g
      if (treePath 9 (s.collPos g c)).any fun p => x.node (c.rankAt x.size p) == node then s.endColl g false else s) s

/-! ## Groups (R333) -/

/-- Whether a node id may be assigned to an engine (R50). -/
def assignable (n : Nat) : Bool := decide (0 < n) && decide (n < 0xFFFF0)

/-- n buffers of a class taken from LDL for a unit, or none of them. -/
def State.takeBuffers (s : State) (r c : Nat) : Nat → List Nat → Option (List Nat) × State
  | 0, got => (some got, s)
  | n + 1, got =>
    let a := s.request r c
    match a.1 with
    | some h => a.2.takeBuffers r c n (got ++ [h])
    | none => (none, got.foldl (fun s h => s.freeBuffer h r) a.2)

/-- The read of a group's member list ends (R333). -/
def State.groupRead (s : State) (g : Nat) : State :=
  if s.rb Reg.groupEnable g ∧ s.rd Reg.groupStatus g = 1 ∧ s.works 11 then
    let n := s.rd Reg.memberCount g
    let r := s.hostRead (s.rd Reg.groupHost g) (s.rd Reg.memberListAddr g) (4 * n)
    let s := r.2.2
    let ids := (List.range n).map fun i => leAt r.2.1 (4 * i) 4
    if r.1 ≠ 0 then s.wr Reg.groupStatus g 0x10
    else if !(ids.all assignable) || decide (ids.eraseDups.length ≠ n) then s.wr Reg.groupStatus g 0x11
    else
      match ids.findIdx? (· == s.nodeId) with
      | none => s.wr Reg.groupStatus g 0x12
      | some me =>
        let t := s.takeBuffers 11 3 (4 * s.rd Reg.collDepth g) []
        match t.1 with
        | none => t.2.wr Reg.groupStatus g 0x13
        | some bufs =>
          (((t.2.modColl g fun _ => { members := ids, bufs := bufs }).wr Reg.myRank g me).wr Reg.collNumber g 0).wr Reg.groupStatus g 2
  else s

/-- A group disabled: what runs or waits on it ends COLL_ABORT, and its buffers return (log entry 41). -/
def State.groupOff (s : State) (g : Nat) : State :=
  let x := s.group g
  let s := s.endColl g false
  let s := x.queue.foldl (fun s c => match c.uid, c.bal with
    | some uid, _ => s.finishColl g uid c 0x14
    | none, some b => s.roundStep b c false
    | none, none => s) s
  let s := (s.group g).stash.foldl (fun s f => s.settleKept f 2) s
  let s := x.bufs.foldl (fun s h => s.freeBuffer h 11) s
  (({ s with groups := Tab.drop s.groups g }.wr Reg.groupStatus g 0).wr Reg.groupEnable g 0).wr Reg.myRank g 0

/-! ## Rounds and commands of the balance loop (R349, R350, R354 to R356) -/

/-- Whether BalanceEnable 1 is refused (R349). -/
def State.balanceRefused (s : State) (b : Nat) : Bool :=
  let p := s.rd Reg.balancePlan b
  let lo := s.rd Reg.firstLayer b
  let hi := s.rd Reg.lastLayer b
  decide (s.rd Reg.period b ≤ s.rd Reg.applyDelay b) || decide (s.rdInt Reg.biasMax b < s.rdInt Reg.biasMin b) || decide (hi < lo) ||
    (match s.plan p with
      | some q => !(q.state == 2 && q.host == s.rd Reg.groupHost (s.rd Reg.collGroup b)) || decide (q.layers.length ≤ hi)
      | none => true) ||
    (List.range 16).any fun o => o != b && s.rb Reg.balanceEnable o && s.rd Reg.balancePlan o == p &&
      decide (s.rd Reg.firstLayer o ≤ hi) && decide (lo ≤ s.rd Reg.lastLayer o)

/-- A balance group in force: its member is In (R349, R354). -/
def State.balanceOn (s : State) (b : Nat) : State :=
  let ls := s.layerState (s.rd Reg.balancePlan b) (s.rd Reg.firstLayer b)
  ((({ s with balances := Tab.drop s.balances b }.wr Reg.balanceEnable b 1).wr Reg.balanceState b 1).wr Reg.epochInForce b
    (if ls.pendUsed then ls.pendEpoch else ls.epoch)).wr Reg.pendingApplyStep b 0

/-- A balance group out of force (log entry 42). -/
def State.balanceOff (s : State) (b : Nat) : State :=
  ((({ (s.endHeld b) with balances := Tab.drop s.balances b }.wr Reg.balanceEnable b 0).wr Reg.balanceState b 0).wr Reg.epochInForce b 0).wr
    Reg.pendingApplyStep b 0

/-- A round begins with a snapshot when a DISPATCH of the balance context at step s has become ready (R350). -/
def State.beginRound (s : State) (b step : Nat) : State :=
  let p := s.rd Reg.balancePlan b
  let take := fun (acc : List Byte × State) (l : Nat) =>
    let t := acc.2.takeLoads p l
    (acc.1 ++ padTo64 (t.1.flatMap (leBytes 4)), t.2)
  let r := (s.balanceLayers b).foldl take ([], s)
  let st := s.rd Reg.balanceState b
  let op := if st = 2 then List.replicate r.1.length 0 else r.1
  let m := (s.maskState p).atStep step
  let round : Round := { step := step, operand := op, mask := m.inForce }
  let s := r.2.inc Reg.balanceRounds 0 1
  if !s.groupReady (s.rd Reg.collGroup b) then s.inc Reg.abortedRounds 0 1
  else
    let s := if st = 1 then s.modBalance b fun x => { x with expect := some ((step + 1 + s.rd Reg.applyDelay b) % 2 ^ 32) } else s
    if (s.balance b).round.isSome then s.modBalance b fun x => { x with later := x.later ++ [round] } else s.issueReduce b round

/-- The balance groups whose round a DISPATCH of context x at a step begins (R350). -/
def State.boundary (s : State) (x step : Nat) : State :=
  (List.range 16).foldl (fun s b =>
    if s.rb Reg.balanceEnable b ∧ s.rd Reg.balanceContext b = x ∧
        (step + 1) % max 1 (s.rd Reg.period b) = 0 then s.beginRound b step else s) s

/-- A held DISPATCH whose epoch is not armed in time: the member becomes Left (R354). -/
def State.biasLate (s : State) (b : Nat) : State :=
  match (s.balance b).holdTick, (s.balance b).expect with
  | some t, some a =>
    if s.rd Reg.balanceState b = 1 ∧ s.works 12 ∧ s.elapsed t (s.rd Reg.biasLateTicks b) then
      let s := s.raise { src := 0x0C01, host := s.rd Reg.groupHost (s.rd Reg.collGroup b), a := b, b := a }
      let s := ((s.endHeld b).modBalance b fun x => { x with expect := none }).wr Reg.balanceState b 2
      s.inc Reg.biasLateEvents 0 1
    else s
  | _, _ => s

/-- A Left member becomes Rejoining (R355). -/
def State.rejoin (s : State) (b : Nat) : State :=
  if s.rd Reg.balanceState b = 2 then s.wr Reg.balanceState b 3 else s

/-- SnapshotGo: a layer's loads become its LoadSnapshot (R356). -/
def State.snapshotLoads (s : State) (p l : Nat) : State :=
  let t := s.takeLoads p l
  t.2.modLayer p l fun ls => { ls with snapshot := t.1 }

/-- An admitted BIAS_SET: its biases pend (R352, R356). -/
def State.biasSet (s : State) (uid : Nat) : State :=
  match s.cmd uid with
  | none => s
  | some k =>
    let p := fld k.header 271 256
    let l := fld k.header 279 272
    let table := (List.range (k.payload.length / 2)).map fun i => leAt k.payload (2 * i) 2
    (s.modLayer p l fun ls => ls.arm table (fld k.header 311 280) ((ls.epoch + 1) % 2 ^ 32)).makeReady uid 0

end Sys2Proof.Machine
end

