-- ==== Sys2Proof/Machine/Peers.lean ====
section
/-! DEFINITION. Peers: joins, leaves, sleep, death, acknowledgements and the transport's timers (R212 to R216, R224, R225, R227, R235, R243 to R250, R493 to R495). -/

set_option Elab.async false

set_option linter.unusedVariables false

namespace Sys2Proof.Machine

/-! ## A peer is declared Dead (R186, R247, R287, R306) -/

/-- POR sends a Dead node nothing more: its bins go, and their copies are lost (R186). -/
def State.dropBins (s : State) (node : Nat) : State :=
  (s.disps.map (·.1)).foldl (fun s uid =>
    match s.disp uid with
    | none => s
    | some d =>
      let ix := match s.plan d.plan with
        | some p => p.dests.findIdx? fun (x : Dest) => x.node == node
        | none => none
      s.modDisp uid fun d => { d with
        gone := node :: d.gone, bins := match ix with
          | some i => d.bins.filter fun b => b.1 % 2 ^ 13 != i
          | none => d.bins }) s

/-- Every rank poured to the node whose answer is not complete is lost (R306). -/
def State.loseNode (s : State) (node : Nat) : State :=
  s.blocks.foldl (fun s q =>
    if q.2.state ≠ 0 ∧ q.2.state ≠ 3 then s
    else
      let ix : Option Nat := match s.disp q.2.uid with
        | none => none
        | some d => match s.plan d.plan with
          | some p => p.dests.findIdx? fun (x : Dest) => x.node == node
          | none => none
      match ix with
      | none => s
      | some i => q.2.slots.foldl (fun s sl =>
          (sl.2.rankDest.filter fun r => r.2 == i).foldl (fun s r => s.loseRank q.1 sl.1 r.1 false) s) s) s

/-- A Filling flask treats the source as closed, its uncommitted segments and held frames discarded (R287). -/
def State.closeSource (s : State) (key node : Nat) : State :=
  match s.hosted key with
  | none => s
  | some (p, h) =>
    match (p.listOf h).sources.findIdx? (fun (x : Source) => x.node == node), (p.listOf h).sources.find? (fun (x : Source) => x.node == node) with
    | some ix, some x =>
      if (s.flask key).state = 1 then
        (s.modFlask key fun f =>
          let f := f.modSrc ix fun u => { u with ended := true }
          { f with segs := f.segs.filter fun g => (Tab.find f.tags g.1).isSome || !x.ownsSlot h.drag g.1 }).tryClose key
      else s
    | _, _ => s

/-- The held frames of a node discarded, their buffers freed (R287). -/
def State.dropHeld (s : State) (node : Nat) : State :=
  let mine := s.heldFrames.filter fun x => x.frame.src == node
  mine.foldl (fun s x => match x.buf with
    | some b => s.freeBuffer b 8
    | none => s) { s with heldFrames := s.heldFrames.filter fun x => x.frame.src != node }

/-- RTT declares a peer Dead (R215, R247). -/
def State.declareDead (s : State) (node : Nat) : State :=
  let r := s.dropPeer node
  let s := (r.1.dropBins node).dropHeld node
  let s := r.2.foldl (fun s x => s.frameEnd x 4) s
  let s := s.loseNode node
  let s := (s.flasks.map (·.1)).foldl (fun s k => s.closeSource k node) s
  let s := { s with heldFrames := s.heldFrames, fetchHeld := s.fetchHeld.filter fun x => x.1 != node }
  s.collDead node

/-! ## Joins (R244 to R246) -/

/-- The join payload taken apart. -/
structure JoinInfo where
  inc : Nat
  peerInc : Nat
  valid : Bool
  dataBase : Nat
  atomicBase : Nat
  collBase : Nat
  credits : Nat
  wakeTol : Nat
  caps : Nat

def RFrame.joinInfo (f : RFrame) : JoinInfo :=
  let v := beAt f.payload 0 64
  { inc := bits v 511 496, peerInc := bits v 495 480, valid := bit v 479, dataBase := bits v 471 440, atomicBase := bits v 439 408
    collBase := bits v 407 376, credits := bits v 375 360, wakeTol := bits v 359 328, caps := bits v 327 325 }

/-- The entry becomes Live with what the join says of the sender. -/
def Peer.live (p : Peer) (j : JoinInfo) (now : Nat) : Peer :=
  { p with state := 2, inc := j.inc, incKnown := true, caps := j.caps, wakeTol := j.wakeTol, credits := j.credits, creditsOut := 0, creditEnds := []
           rdata := { base := j.dataBase }, ratomic := { base := j.atomicBase }, rcoll := { base := j.collBase }
           asleep := false, waking := false, mgmtSends := 0, mgmtTick := now, wantJoin := false }

/-- Frames held for a peer that has become Live go (R225, R245). -/
def State.peerLive (s : State) (node : Nat) : State := (s.endUncredited node).flush node

/-- A JOIN answered: bases taken, JOIN_ACK sent, the entry Live (R245). -/
def State.answerJoin (s : State) (node : Nat) (j : JoinInfo) (own : Bool) : State :=
  let s := if own then s else s.announce node
  ((s.modPeer node fun p => p.live j s.tick).sendMgmt node 2).peerLive node

/-- Whether the entry matches a join payload: the incarnation, and the current positions of its incoming flows (R245, R246). -/
def Peer.joinMatches (p : Peer) (j : JoinInfo) : Bool :=
  p.incKnown && p.inc == j.inc && p.rdata.base == j.dataBase && p.ratomic.base == j.atomicBase && p.rcoll.base == j.collBase

/-- An arriving JOIN (R245, R246). -/
def State.takeJoin (s : State) (node : Nat) (j : JoinInfo) : State :=
  let p := s.peer node
  if p.state = 0 then s.answerJoin node j false
  else if p.state = 1 then s.answerJoin node j true
  else if p.state = 2 then
    if p.joinMatches j then ((s.modPeer node fun p => { p with wakeTol := j.wakeTol, caps := j.caps }).sendMgmt node 2).flush node
    else (s.declareDead node).answerJoin node j false
  else if p.state = 4 ∧ s.elapsed p.deadTick (s.rd Reg.maxFrameLifeTicks 0) then s.answerJoin node j false
  else s

/-- An arriving JOIN_ACK: it makes a Joining entry Live when it echoes this incarnation (R245). -/
def State.takeJoinAck (s : State) (node : Nat) (j : JoinInfo) : State :=
  if (s.peer node).state = 1 ∧ j.valid ∧ j.peerInc = s.rd Reg.incarnation 0 then (s.modPeer node fun p => p.live j s.tick).peerLive node else s

/-- Whether nothing is outstanding in either direction (R248). -/
def Peer.quiet (p : Peer) : Bool := p.drained && p.rdata.held.isEmpty && p.rcoll.held.isEmpty

/-- An entry that becomes Unknown keeps its flows' numbers, for the bases of the next join (R246). -/
def Peer.forget (p : Peer) : Peer :=
  { p with state := 0, asleep := false, waking := false, sleepSent := false, sleepAcked := false, mgmtSends := 0
           rdata := {}, ratomic := {}, rcoll := {}, credits := 0, creditsOut := 0, creditEnds := [] }

/-- An arriving LEAVE (R248). -/
def State.takeLeave (s : State) (node : Nat) : State :=
  if (s.peer node).quiet then (s.sendMgmt node 4).modPeer node Peer.forget else s

/-- An arriving LEAVE_ACK (R248). -/
def State.takeLeaveAck (s : State) (node : Nat) : State := s.modPeer node fun p => if p.state = 3 then p.forget else p

/-- PeerCommand 1 (R245). -/
def State.commandJoin (s : State) (node : Nat) : State :=
  let p := s.peer node
  if p.state = 0 ∨ p.state = 4 then s.needPeer node else s

/-- PeerCommand 2 (R248). -/
def State.commandLeave (s : State) (node : Nat) : State :=
  let p := s.peer node
  if p.state = 2 ∧ p.quiet then (s.modPeer node fun p => { p with state := 3, mgmtSends := 1, mgmtTick := s.tick }).sendMgmt node 3 else s

/-- PeerCommand 3 (R215). -/
def State.commandDead (s : State) (node : Nat) : State :=
  let p := s.peer node
  if p.state = 0 ∨ p.state = 4 then s else s.declareDead node

/-- Every Live peer is sent a JOIN that carries the new tolerance (R493). -/
def State.announceTolerance (s : State) : State :=
  ((s.peers.filter fun p => p.2.state == 2).map (·.1)).foldl (fun s n => s.sendMgmt n 1) s

/-! ## Sleep (R494, R495) -/

def State.takeSleep (s : State) (node : Nat) : State :=
  (s.modPeer node fun p => { p with asleep := true, asleepTick := s.tick }).sendMgmt node 6

def State.takeSleepAck (s : State) (node : Nat) : State := s.modPeer node fun p => if p.sleepSent then { p with sleepAcked := true } else p

/-- An arriving AWAKE: an Asleep mark ends, any other entry refuses (R494, R495). -/
def State.takeAwake (s : State) (node : Nat) : State :=
  let p := s.peer node
  if p.state = 2 ∧ p.asleep then ((s.modPeer node fun p => { p with asleep := false }).sendMgmt node 8).flush node
  else s.sendMgmt node 9

def State.takeAwakeAck (s : State) (node : Nat) : State :=
  if (s.peer node).waking then (s.modPeer node fun p => { p with waking := false, mgmtSends := 0 }).flush node else s

/-- The restored entry is discarded and the peer joined afresh (R495). -/
def State.rejoinPeer (s : State) (node : Nat) : State := (s.modPeer node Peer.forget).startJoin node

def State.takeAwakeRefused (s : State) (node : Nat) : State := if (s.peer node).waking then s.rejoinPeer node else s

/-- A peer Asleep for PeerSleepHoldTicks is declared Dead (R494). -/
def State.sleepHoldOver (s : State) (node : Nat) : State :=
  let p := s.peer node
  if p.asleep ∧ s.elapsed p.asleepTick (s.rd Reg.peerSleepHoldTicks 0) then s.declareDead node else s

/-! ## Arriving MGMT, ACK and REPLY frames (R203, R216, R227, R239) -/

/-- Checks 1 to 8 of an unsequenced frame of a class. -/
def State.arrivePlain (s : State) (rx : Rx) (f : RFrame) : Bool × State :=
  let a := s.arriveHeader rx f
  if !a.1 then a
  else
    let b := a.2.arrivePeer rx f
    if !b.1 then b else b.2.arriveTrailer rx f

/-- A MGMT frame of an operation: its effect on this node. -/
def State.arriveMgmt (s : State) (rx : Rx) (f : RFrame) (op : Nat) : State :=
  if f.cls ≠ 5 ∨ f.op ≠ op then s
  else
    let a := s.arrivePlain rx f
    if !a.1 then a.2
    else
      let s := a.2
      match op with
      | 1 => s.takeJoin f.src f.joinInfo
      | 2 => s.takeJoinAck f.src f.joinInfo
      | 3 => s.takeLeave f.src
      | 4 => s.takeLeaveAck f.src
      | 5 => s.takeSleep f.src
      | 6 => s.takeSleepAck f.src
      | 7 => s.takeAwake f.src
      | 8 => s.takeAwakeAck f.src
      | 9 => s.takeAwakeRefused f.src
      | _ => s

/-- Frames that an ACK ended, in order, and the collectives whose segments may go now (R216, R344). -/
def State.endFrames (s : State) (l : List (SendRec × Nat)) : State :=
  l.foldl (fun s r => match r.1.why with
    | .coll g => (s.frameEnd r.1 r.2).collPump g
    | _ => s.frameEnd r.1 r.2) s

/-- An arriving ACK frame: its blocks in order (R211, R216). -/
def State.arriveAck (s : State) (rx : Rx) (f : RFrame) : State :=
  if f.cls ≠ 3 ∨ f.op = 0 then s
  else
    let a := s.arrivePlain rx f
    if !a.1 then a.2
    else
      (List.range (f.op / 2 ^ 8)).foldl (fun s i =>
        let r := s.takeBlock f.src (beAt f.payload (64 * i) 64)
        r.1.endFrames r.2) a.2

/-- An arriving REPLY (R227). -/
def State.arriveReply (s : State) (rx : Rx) (f : RFrame) : State :=
  if f.cls ≠ 2 then s
  else
    let a := s.arrivePlain rx f
    if !a.1 then a.2 else a.2.takeReply f

/-- An arriving ATOMIC frame (R203, R226). -/
def State.arriveAtomic (s : State) (rx : Rx) (f : RFrame) : State :=
  if f.cls ≠ 1 then s
  else
    let a := s.arriveHeader rx f
    if !a.1 then a.2
    else
      let b := a.2.arrivePeer rx f
      if !b.1 then b.2 else b.2.serveAtomic rx f

/-- An arriving hop credit frame, taken into its port's link credits (R239). -/
def State.arriveCredit (s : State) (rx : Rx) (f : RFrame) : State :=
  if !f.hopCredit then s
  else
    let a := s.arriveHeader rx f
    if !a.1 then a.2
    else
      let t := a.2.arriveTrailer rx f
      if !t.1 then t.2
      else t.2.modPort rx.port fun q => { q with
        creditSeen := (List.range 8).foldl (fun m i => Tab.set 0 m i (f.payload.getD i 0).toNat) q.creditSeen }

/-- An arriving frame of class DATA of a kind, after checks 1 to 6. -/
def State.arriveData (s : State) (rx : Rx) (f : RFrame) (is : Bool) (land : State → State) : State :=
  if f.cls ≠ 0 ∨ !is then s
  else
    let a := s.arrive rx f
    if a.1 then land a.2 else a.2

/-- An arriving raw frame for another node (R237). -/
def State.arriveTransit (s : State) (rx : Rx) (f : RFrame) : State :=
  if f.dst = s.nodeId ∨ f.hopCredit then s else (s.arriveHeader rx f).2

/-! ## The survey's frames (R264) -/

/-- A probe that reaches this node is answered with the same UDP source port. -/
def State.arriveProbe (s : State) (rx : Rx) (f : RFrame) : State :=
  if f.cls ≠ 5 ∨ f.op ≠ 0x20 then s
  else
    let a := s.arrivePlain rx f
    if !a.1 then a.2
    else
      let s := a.2
      let o := s.nextOrd
      { o.2 with control := o.2.control ++ [{
          frame := { cls := 5, src := s.nodeId, dst := f.src, op := 0x21 }, why := .plain, pace := 4, route := some { port := rx.port, path := 0 }
          firstTick := s.tick, lastTick := s.tick, ord := o.1, udpSrc := some (rx.udpSrc, s.rd Reg.hopLimit 0) }] }

def State.arriveSurveyReply (s : State) (rx : Rx) (f : RFrame) : State :=
  if f.cls ≠ 5 ∨ f.op ≠ 0x21 then s
  else
    let a := s.arrivePlain rx f
    if !a.1 then a.2 else a.2.surveyRecord rx.ipSrc rx.udpSrc 0xFF

/-- A Time Exceeded that quotes a probe's source port and hop limit. -/
def State.timeExceeded (s : State) (port ipSrc udpSrc hop : Nat) : State :=
  if s.receives port then s.wake.surveyRecord ipSrc udpSrc hop else s

/-! ## Timers (R212 to R215, R224, R225, R227, R235, R243) -/

/-- An ACK that waits for its 32 cycles goes: one block for each flow with settlements to report (R211, R212). -/
def State.ackDue (s : State) (node : Nat) : State :=
  let p := s.peer node
  let due := [0, 4].filter fun c => decide (0 < (p.rflow c).unacked) || !(p.rflow c).report.isEmpty
  if due.isEmpty ∨ !s.works 6 then s
  else
    let blocks := due.flatMap fun c => (p.rflow c).blocks c
    let s := (chunks 2 blocks.length blocks).foldl (fun s b => s.sendBlocks node b) s
    s.modPeer node fun p => due.foldl (fun p c => p.modRflow c RecvFlow.acked) p

/-- A frame received and unsettled for AckHoldTicks is reported received (R212). -/
def State.ackHold (s : State) (node c seq : Nat) : State :=
  let f := (s.peer node).rflow c
  match f.held.find? fun h => h.1 == seq && !h.2.2 with
  | none => s
  | some h =>
    if (c = 0 ∨ c = 4) ∧ s.works 6 ∧ s.elapsed h.2.1 (s.rd Reg.ackHoldTicks 0) then
      (s.modPeer node fun p => p.modRflow c fun f => { f with held := f.held.map fun x => if x.1 = seq then (x.1, x.2.1, true) else x }).ackFlow node c
    else s

/-- The handshake frame that a peer entry repeats, if any: its MgmtOp (R245, R248, R494). -/
def Peer.handshake (p : Peer) : Option Nat :=
  if p.state = 1 then some 1 else if p.state = 3 then some 3 else if p.waking then some 7
  else if p.sleepSent && !p.sleepAcked && p.state == 2 then some 5 else none

/-- The outstanding frame of a flow with a number, by its count from the base. -/
def State.outstanding (s : State) (node c seq : Nat) : Option (Nat × SendRec) :=
  if c ≠ 0 ∧ c ≠ 1 ∧ c ≠ 4 then none
  else
    let f := (s.peer node).flow c
    let k := f.count seq
    if f.num k = seq then (Tab.find f.sent k).map fun r => (k, r) else none

/-- RetransmitTicks have passed since the last send of a frame, or of a handshake (class 5): it is sent again (R213, R245, R494). -/
def State.retransmit (s : State) (node c seq : Nat) : State :=
  let p := s.peer node
  let t := s.rd Reg.retransmitTicks 0
  let n := s.rd Reg.retransmitLimit 0 + 1
  if !s.works 6 then s
  else if c = 5 then
    match p.handshake with
    | none => s
    | some op =>
      if s.elapsed p.mgmtTick t ∧ p.mgmtSends < n then
        (s.modPeer node fun p => { p with mgmtSends := p.mgmtSends + 1, mgmtTick := s.tick }).sendMgmt node op
      else s
  else if c = 1 then s
  else
    match s.outstanding node c seq with
    | none => s
    | some (k, r) =>
      if !r.due ∧ (decide ((p.flow c).cumReceived ≤ k) ∨ r.unsure) ∧ s.elapsed r.lastTick t ∧ r.sends < n ∧ !p.asleep then (s.resend node c k r).2
      else s

/-- Whether a frame has reached a limit of R215. -/
def State.pastLimit (s : State) (p : Peer) (c k : Nat) (r : SendRec) : Bool :=
  let f := p.flow c
  let received := decide (k < f.cumReceived)
  let gw := s.rd Reg.gatewaySettleLimitTicks 0
  let limit := if received then (if p.gateway then max (s.rd Reg.receivedSettleLimitTicks 0) gw else s.rd Reg.receivedSettleLimitTicks 0)
    else if p.gateway then gw else s.rd Reg.settleLimitTicks 0
  s.elapsed r.firstTick limit ||
    (c != 1 && !r.due && (!received || r.unsure) && decide (s.rd Reg.retransmitLimit 0 < r.sends) && s.elapsed r.lastTick (s.rd Reg.retransmitTicks 0))

/-- A limit of R215 or R494 is reached for a frame or a handshake. -/
def State.settleLimit (s : State) (node c seq : Nat) : State :=
  let p := s.peer node
  if !s.works 6 then s
  else if c = 5 then
    match p.handshake with
    | none => s
    | some op =>
      if s.rd Reg.retransmitLimit 0 < p.mgmtSends ∧ s.elapsed p.mgmtTick (s.rd Reg.retransmitTicks 0) then
        if op = 7 then s.rejoinPeer node
        else if op = 5 then s.modPeer node Peer.forget
        else s.declareDead node
      else s
  else
    match s.outstanding node c seq with
    | none => s
    | some (k, r) => if s.pastLimit p c k r ∧ !p.asleep then s.declareDead node else s

/-- AtomicRetryTicks have passed since a request was last sent (R227). -/
def State.atomicTimeout (s : State) (node seq : Nat) : State :=
  match Tab.find s.atomReqs (reqKey node seq), s.outstanding node 1 seq with
  | some q, some (_, r) => if s.works 6 ∧ !r.due ∧ s.elapsed q.tick (s.rd Reg.atomicRetryTicks 0) then s.retryRequest q else s
  | _, _ => s

/-- A held credit frees ReplyRetentionTicks after its REPLY (R225). -/
def State.creditRelease (s : State) (node : Nat) : State :=
  let t := s.rd Reg.replyRetentionTicks 0
  match (s.peer node).creditEnds.find? fun x => s.elapsed x t with
  | none => s
  | some x => (s.modPeer node fun p => { p with creditEnds := p.creditEnds.erase x }).flush node

/-- The oldest reply-cache entry past its retention ends (R224). -/
def State.cacheExpiry (s : State) : State :=
  match s.replyCache.findIdx? fun e => s.elapsed e.tick (s.rd Reg.replyRetentionTicks 0) with
  | none => s
  | some i => { s with replyCache := s.replyCache.eraseIdx i }

/-- Frames that started MaxFrameLifeTicks ago leave a port's epoch counts (R235). -/
def State.frameLife (s : State) (port : Nat) : State :=
  s.modPort port fun q => { q with inFlight := q.inFlight.filter fun e => !s.elapsed e.2.1 (s.rd Reg.maxFrameLifeTicks 0) }

/-- A new incarnation may send frames other than JOIN (R243). -/
def State.quietEnd (s : State) : State :=
  match s.firstUp with
  | none => s
  | some t => if s.elapsed t (s.rd Reg.maxFrameLifeTicks 0) then { s with quiet := false } else s

/-- Pour frames without a runner take the next eligible one (R188). -/
def State.routeWaiting (s : State) : State :=
  let want := s.peers.flatMap fun p => (p.2.data.sent.filter fun e => e.2.due && e.2.route.isNone).map fun e => (p.1, e.1, e.2)
  want.foldl (fun s x => (s.resend x.1 0 x.2.1 x.2.2).2) s

/-- One turn of a port's transmit arbiter (R188, R189, R234). -/
def State.frameTurn (s : State) (port : Nat) : State := (s.routeWaiting).frameStart port

end Sys2Proof.Machine
end

