-- ==== Sys2Proof/Machine/Mould.lean ====
section
/-! DEFINITION. MLD and CKU: mould descriptors, their checks, the phases of a COPY, and the check channels (R379, R401 to R412, R420 to R422). -/

set_option Elab.async false

set_option linter.unusedVariables false

namespace Sys2Proof.Machine

/-! ## Descriptors (R401 to R404) -/

/-- The mould descriptor of 128 bytes (R401). -/
def mdescOf (l : List Byte) : MDesc :=
  let x := leAt l 0 128
  let five := fun (base w step : Nat) => (List.range 5).map fun d => bits x (base + step * d + w - 1) (base + step * d)
  { src := bits x 1023 960, dst := bits x 959 896, ext := five 776 24 24, srcStr := (five 576 40 40).map (toSigned 40)
    dstStr := (five 376 40 40).map (toSigned 40), padLo := five 268 12 24, padHi := five 256 12 24, padValue := bits x 255 128
    kind := bits x 127 125, eltLog2 := bits x 124 122, srcSw := bit x 121, dstSw := bit x 120, padCheck := bit x 119
    check := bits x 118 115, rsvd := bits x 114 0 }

/-- The element size. -/
def MDesc.e (d : MDesc) : Nat := 2 ^ d.eltLog2
/-- The valid box, and the box of all positions, as start and count by dimension (R402). -/
def MDesc.valid (d : MDesc) : List (Int × Nat) := d.ext.map fun n => (0, n)
def MDesc.all (d : MDesc) : List (Int × Nat) :=
  (List.range 5).map fun i => (-((d.padLo.getD i 0 : Nat) : Int), d.padLo.getD i 0 + d.ext.getD i 0 + d.padHi.getD i 0)
def MDesc.padded (d : MDesc) : Bool := d.padLo.any (· != 0) || d.padHi.any (· != 0)

/-- The positions of a box in loop order, i0 fastest. -/
def boxPositions : List (Int × Nat) → List (List Int)
  | [] => [[]]
  | (a, n) :: rest => (boxPositions rest).flatMap fun t => (List.range n).map fun (k : Nat) => (a + (k : Int)) :: t

def dotInt : List Int → List Int → Int
  | i :: is, s :: ss => i * s + dotInt is ss
  | _, _ => 0

def MDesc.isValid (d : MDesc) (p : List Int) : Bool := (p.zip d.ext).all fun x => decide (0 ≤ x.1) && decide (x.1 < (x.2 : Nat))

/-- The offset at which the byte at offset o of a swizzled side is placed (R404). -/
def swizzle (o : Int) : Int :=
  let m := (o % 2048).toNat
  o - m + ((m ^^^ (((m >>> 7) &&& 7) <<< 4) : Nat) : Int)

/-- The runs of bytes of an element at an offset: whole, or byte by byte on a swizzled side. -/
def placeBytes (sw : Bool) (o : Int) (e : Nat) : List (Int × Nat) :=
  if sw then (List.range e).map fun (k : Nat) => (swizzle (o + (k : Int)), 1) else [(o, e)]

/-! ## Spans (13, Spans, checks and order) -/

/-- The lowest offset and the offset past the highest byte of a box. -/
def boxSpan (box : List (Int × Nat)) (str : List Int) (e : Nat) : Int × Int :=
  let ends := (box.zip str).map fun x => (x.1.1 * x.2, (x.1.1 + ((x.1.2 : Nat) : Int) - 1) * x.2)
  (ends.foldl (fun a x => a + min x.1 x.2) 0, ends.foldl (fun a x => a + max x.1 x.2) 0 + (e : Nat))

def spanAt (base : Nat) (sw : Bool) (s : Int × Int) : Int × Int :=
  let lo := (base : Int) + s.1
  let hi := (base : Int) + s.2
  if sw then (lo - lo % 128, hi + (-hi) % 128) else (lo, hi)

def MDesc.srcSpan (d : MDesc) : Int × Int := spanAt d.src d.srcSw (boxSpan d.valid d.srcStr d.e)
def MDesc.dstSpan (d : MDesc) : Int × Int := spanAt d.dst d.dstSw (boxSpan d.all d.dstStr d.e)
def MDesc.validSpan (d : MDesc) : Int × Int := spanAt d.dst d.dstSw (boxSpan d.valid d.dstStr d.e)

/-- The boxes that cover the pad positions: one side of one dimension each. -/
def MDesc.padBoxes (d : MDesc) : List (List (Int × Nat)) :=
  (List.range 5).flatMap fun i =>
    let set := fun (b : Int × Nat) => d.all.zipIdx.map fun x => if x.2 = i then b else x.1
    let lo := d.padLo.getD i 0
    let hi := d.padHi.getD i 0
    (if lo = 0 then [] else [set (-(lo : Int), lo)]) ++ (if hi = 0 then [] else [set (((d.ext.getD i 0 : Nat) : Int), hi)])

/-- The pad span, if there are pads. -/
def MDesc.padSpan (d : MDesc) : Option (Int × Int) :=
  match d.padBoxes.map fun b => boxSpan b d.dstStr d.e with
  | [] => none
  | s :: rest => some (spanAt d.dst d.dstSw (rest.foldl (fun a x => (min a.1 x.1, max a.2 x.2)) s))

def spansMeet (a b : Int × Int) : Bool := decide (a.1 < b.2) && decide (b.1 < a.2)

/-! ## Checks (R403, R405 to R407) -/

/-- Whether a TRANSPOSE keeps R403. -/
def MDesc.transposeOk (d : MDesc) : Bool :=
  let e : Int := (d.e : Nat)
  let x := fun i => d.ext.getD i 0
  let a := fun i => d.srcStr.getD i 0
  let b := fun i => d.dstStr.getD i 0
  x 2 == 1 && x 3 == 1 && x 4 == 1 && [2, 3, 4].all (fun i => a i == 0 && b i == 0) && !d.padded && !d.padCheck &&
    b 0 == e && a 1 == e && decide (((x 0 : Nat) : Int) * e ≤ b 1) && decide (((x 1 : Nat) : Int) * e ≤ a 0) && b 1 % 64 == 0 && a 0 % 64 == 0

/-- Whether a descriptor that overlaps itself may run in place (R407). -/
def MDesc.inPlace (d : MDesc) : Bool :=
  let e : Int := (d.e : Nat)
  d.src == d.dst && d.ext.getD 0 0 == d.ext.getD 1 0 && d.ext.getD 2 0 == 1 && d.ext.getD 3 0 == 1 && d.ext.getD 4 0 == 1 && !d.padded &&
    d.dstStr.getD 0 0 == e && d.srcStr.getD 1 0 == e && d.srcStr.getD 0 0 == d.dstStr.getD 1 0 && d.srcSw == d.dstSw

def MDesc.overlaps (d : MDesc) : Bool := spansMeet d.srcSpan d.dstSpan
def MDesc.staged (d : MDesc) : Bool := d.overlaps && !d.inPlace

/-- Who issues a COPY: host, ring, command, and for a slot its context, sequencer, and whether it is a RUN. -/
structure CopyFrom where
  uid : Nat
  host : Nat
  ring : Nat
  heat : Nat
  slot : Option (Nat × Nat × Bool × Nat) := none
  payloadBytes : Nat := 0

/-- Where a span lies: in one window with the permission, or for a slot in an address space of R369 (R405, R414, log entry 43). -/
def State.sideLoc (s : State) (w : CopyFrom) (sp : Int × Int) (write : Bool) : Option MLoc :=
  if sp.1 < 0 ∨ sp.2 ≤ sp.1 ∨ 2 ^ 64 < sp.2 then none
  else
    let a := sp.1.toNat
    let n := (sp.2 - sp.1).toNat
    let o := a % 2 ^ 62
    match a / 2 ^ 62, w.slot with
    | 0, _ => (s.xlt w.host a n write).map .loc
    | 1, some (_, seq, true, _) => if o + n ≤ 2 ^ 20 then some (.scratch (seq * 2 ^ 20 + o)) else none
    | 2, some _ => if !write && decide (o + n ≤ w.payloadBytes) then some (.payload w.uid o) else none
    | 3, some (_, _, true, r) => if o + n ≤ r then some (.result w.uid o) else none
    | _, _ => none

/-- The first failing check of descriptor k of a COPY, or how it runs (R405). -/
def State.checkDesc (s : State) (w : CopyFrom) (ds : List MDesc) (k : Nat) (d : MDesc) : Nat × Option MRun :=
  let src := d.srcSpan
  let dst := d.dstSpan
  let stagedBytes := (ds.filter MDesc.staged).foldl (fun (n : Int) x => n + (x.srcSpan.2 - x.srcSpan.1)) 0
  let others := (ds.zipIdx.filter fun x => x.2 != k).map (·.1)
  if d.rsvd ≠ 0 ∨ (d.eltLog2 ≤ 4 ∧ 2 ^ (8 * d.e) ≤ d.padValue) then (3, none)
  else if 1 < d.kind ∨ 4 < d.eltLog2 ∨ d.ext.any (· == 0) ∨ (d.kind = 1 ∧ !d.transposeOk) ∨ 2 ^ 40 ≤ src.2 - src.1 ∨ 2 ^ 40 ≤ dst.2 - dst.1 then
    (0x0C, none)
  else if (d.srcSw ∧ d.src % 2048 ≠ 0) ∨ (d.dstSw ∧ d.dst % 2048 ≠ 0) then (8, none)
  else if (d.kind = 0 ∧ s.variant.mouldGeneral = 0) ∨
      (d.check ≠ 0 ∧ (8 < d.check ∨ !s.rb Reg.checkEnable (8 * w.host + d.check - 1))) then (2, none)
  else
    match s.sideLoc w src false, s.sideLoc w dst true with
    | some a, some b =>
      if d.staged ∧ (s.rd Reg.mouldBufferBytes 0 : Int) < stagedBytes then (0x15, none)
      else if d.padCheck && (match d.padSpan with
          | some p => others.any fun x => spansMeet p x.validSpan
          | none => false) then (0x16, none)
      else
        (0, some { desc := d, how := if !d.overlaps then 0 else if d.inPlace then 1 else 2
                   srcLo := src.1, srcHi := src.2, dstLo := dst.1, dstHi := dst.2, srcLoc := a, dstLoc := b })
    | _, _ => (0x10, none)

/-- The checks of a COPY, descriptor by descriptor: the first failure, or its runs. -/
def State.checkCopyDescs (s : State) (w : CopyFrom) (ds : List MDesc) : Nat × List MRun :=
  ds.zipIdx.foldl (fun acc d =>
    if acc.1 ≠ 0 then acc
    else match s.checkDesc w ds d.2 d.1 with
      | (0, some r) => (0, acc.2 ++ [r])
      | (st, _) => (st, [])) (0, [])

/-! ## The check unit (R420 to R422) -/

/-- A run of a channel begins: its register (R420). -/
def State.checkBegin (s : State) (i : Nat) : Nat × State :=
  let p := s.rd Reg.checkPoly i
  let m := s.rd Reg.checkSeedMode i
  if m = 1 then
    let fold := beBytes 8 (s.rd Reg.foldAddr i) ++ beBytes 4 (s.rd Reg.foldSeq i) ++ beBytes 2 (s.rd Reg.foldContext i)
    let seed := checkFinish p (checkRun p (checkInit p) fold)
    (checkRun p (checkInit p) (beBytes (checkWidth p / 8) seed), s)
  else if m = 2 then
    match (Tab.get ({} : CheckChan) s.checkChans i).reg with
    | some r => (r % 2 ^ checkWidth p, s)
    | none => let d := s.draw
              (d.1 % 2 ^ checkWidth p, d.2)
  else (checkInit p, s)

/-- A run of a channel over bytes ends: RunningValue, and the compare (R420, R422). -/
def State.checkOver (s : State) (i : Nat) (l : List Byte) : State :=
  let b := s.checkBegin i
  let p := s.rd Reg.checkPoly i
  let reg := checkRun p b.1 l
  let v := checkFinish p reg
  let s := { b.2 with checkChans := Tab.put b.2.checkChans i { reg := some reg }, checkMismatch := clearBit b.2.checkMismatch i }
  let s := (s.wr Reg.runningValue i v).inc Reg.checkRuns 0 1
  if !s.rb Reg.compareEnable i then s.wr Reg.checkStatus i 4
  else if v = s.rd Reg.expected i % 2 ^ checkWidth p then s.wr Reg.checkStatus i 2
  else ({ s with checkMismatch := setBit s.checkMismatch i }.inc Reg.checkMismatches 0 1).wr Reg.checkStatus i 3

/-- CheckGo 1 on an idle channel: the run begins, or is refused for its window (R421). -/
def State.checkGo (s : State) (i : Nat) : State :=
  match s.xlt (i / 8) (s.rd Reg.checkAddr i) (s.rd Reg.checkBytes i) false with
  | some _ => s.wr Reg.checkStatus i 1
  | none => ((s.inc Reg.localRefusals 0 1).inc Reg.checkRuns 0 1).wr Reg.checkStatus i 0x10

/-- A standalone run ends (R421, R422); a read that fails on the way refuses it. -/
def State.checkRunEnd (s : State) (i : Nat) : State :=
  if s.rd Reg.checkStatus i ≠ 1 ∨ !s.works 16 then s
  else
    let r := s.hostRead (i / 8) (s.rd Reg.checkAddr i) (s.rd Reg.checkBytes i)
    if r.1 = 0 then r.2.2.checkOver i r.2.1 else (r.2.2.inc Reg.checkRuns 0 1).wr Reg.checkStatus i 0x10

/-! ## Moving bytes (R402, R408) -/

/-- Bytes read at an offset of a side. -/
def State.readM (s : State) (l : MLoc) (off n : Nat) : Nat × List Byte × State :=
  match l with
  | .loc a => s.readLoc (a.plus off) n
  | .scratch a =>
    let r := s.storeRead (scratchNo (a / 2 ^ 20)) (a % 2 ^ 20 + off) n { src := 0, status := 0x18 }
    (if r.1 then 2 else 0, Tab.readBytes 0 s.scratch (a + off) n, r.2)
  | .payload uid o => (0, match s.cmd uid with
    | some k => slice k.payload (o + off) n
    | none => List.replicate n 0, s)
  | .result uid o => (0, match s.cmd uid with
    | some k => (List.range n).map fun j => Tab.get 0 k.result (o + off + j)
    | none => List.replicate n 0, s)

/-- The host address of a byte of a command's reserved result space (R88): the slots after its record, wrapping in the ring. -/
def State.resultAddr (s : State) (k : Cmd) (off : Nat) : Nat :=
  let size := 2 ^ s.rd Reg.completionSizeLog2 k.ring
  s.rd Reg.completionBase k.ring + ((k.slot + 1 + off / 32) % size) * 32 + off % 32

/-- Bytes of a result space written to the ring, in parts that do not wrap. -/
def State.writeResult (s : State) (k : Cmd) (off : Nat) (l : List Byte) : Nat × State :=
  let head := 32 - off % 32
  let parts : List (Nat × List Byte) := (0, l.take head) :: (chunks 32 (l.length + 1) (l.drop head)).zipIdx.map fun p => (head + 32 * p.2, p.1)
  parts.foldl (fun acc p =>
    if p.2.isEmpty then acc
    else
      let r := acc.2.hostWrite k.host (acc.2.resultAddr k (off + p.1)) p.2
      (worse acc.1 r.1, r.2)) (0, s)

/-- Bytes written at an offset of a side. -/
def State.writeM (s : State) (l : MLoc) (off : Nat) (bytes : List Byte) : Nat × State :=
  match l with
  | .loc a => s.writeLoc (a.plus off) bytes
  | .scratch a =>
    let s := { s with scratch := bytes.zipIdx.foldl (fun t (p : Byte × Nat) => Tab.put t (a + off + p.2) p.1) s.scratch }
    (0, s.storeWrite (scratchNo (a / 2 ^ 20)) (a % 2 ^ 20 + off) bytes.length)
  | .payload _ _ => (1, s)
  | .result uid o =>
    match s.cmd uid with
    | none => (1, s)
    | some k =>
      let r := s.writeResult k (o + off) bytes
      if r.1 = 1 then r
      else (r.1, r.2.modCmd uid fun k => { k with result := bytes.zipIdx.foldl (fun t p => Tab.put t (o + off + p.2) p.1) k.result })

/-- The element at a source offset. -/
def State.readElem (s : State) (r : MRun) (o : Int) : Nat × List Byte × State :=
  (placeBytes r.desc.srcSw o r.desc.e).foldl (fun acc p =>
    let x := acc.2.2.readM r.srcLoc ((r.desc.src : Int) + p.1 - r.srcLo).toNat p.2
    (worse acc.1 x.1, acc.2.1 ++ x.2.1, x.2.2)) (0, [], s)

/-- An element written at a destination offset. -/
def State.writeElem (s : State) (r : MRun) (o : Int) (l : List Byte) : Nat × State :=
  ((placeBytes r.desc.dstSw o r.desc.e).foldl (fun acc p =>
    let x := acc.2.2.writeM r.dstLoc ((r.desc.dst : Int) + p.1 - r.dstLo).toNat (l.drop acc.1 |>.take p.2)
    (acc.1 + p.2, worse acc.2.1 x.1, x.2)) (0, 0, s)).2

/-- Every valid source element of a descriptor, in loop order. -/
def State.readRun (s : State) (r : MRun) : List (Nat × List Byte) × State :=
  (boxPositions r.desc.valid).foldl (fun acc p =>
    let x := acc.2.readElem r (dotInt p r.desc.srcStr)
    (acc.1 ++ [(x.1, x.2.1)], x.2.2)) ([], s)

/-- Writes of a list of elements at destination offsets, at most a limit of them: what is left of the limit, the worst status, the state. -/
def State.writeList (s : State) (r : MRun) (limit : Nat) (items : List (Int × Nat × List Byte)) : Nat × Nat × State :=
  items.foldl (fun acc it =>
    if acc.1 = 0 then acc
    else if it.2.1 ≠ 0 then (acc.1 - 1, worse acc.2.1 it.2.1, acc.2.2)
    else
      let x := acc.2.2.writeElem r it.1 it.2.2
      (acc.1 - 1, worse acc.2.1 x.1, x.2.inc Reg.mouldBytes 0 r.desc.e)) (limit, 0, s)

/-- The pad positions of a descriptor, in loop order. -/
def MDesc.pads (d : MDesc) : List Int := ((boxPositions d.all).filter fun p => !d.isValid p).map fun p => dotInt p d.dstStr

/-- Phase 2 of one descriptor: its pads (R408). -/
def State.padRun (s : State) (r : MRun) (limit : Nat) : Nat × Nat × State :=
  s.writeList r limit (r.desc.pads.map fun o => (o, 0, leBytes r.desc.e r.desc.padValue))

/-- Phase 3 of one descriptor: its valid positions, the later in loop order winning, and its check channel (R402, R421). -/
def State.moveRun (s : State) (host : Nat) (r : MRun) (limit : Nat) (whole : Bool) : Nat × Nat × State :=
  let src := if r.how = 2 then (r.staged, s) else s.readRun r
  let items := ((boxPositions r.desc.valid).zip src.1).map fun x => (dotInt x.1 r.desc.dstStr, x.2.1, x.2.2)
  let w := src.2.writeList r limit items
  let s := w.2.2
  let s := if whole ∧ r.desc.check ≠ 0 then s.checkOver (8 * host + r.desc.check - 1) (src.1.flatMap (·.2)) else s
  (w.1, w.2.1, s)

/-- Whether consecutive offsets form runs that start and end on 64-byte boundaries (R411). -/
def alignedRuns (base : Nat) (e : Nat) (l : List Int) : Bool :=
  match l with
  | [] => true
  | first :: _ =>
    let r := l.foldl (fun (acc : Bool × Int) o =>
      if o = acc.2 then (acc.1, o + (e : Nat))
      else (acc.1 && ((base : Int) + acc.2) % 64 == 0 && ((base : Int) + o) % 64 == 0, o + (e : Nat))) (((base : Int) + first) % 64 == 0, first)
    r.1 && ((base : Int) + r.2) % 64 == 0

def MDesc.aligned (d : MDesc) : Bool :=
  alignedRuns d.src d.e ((boxPositions d.valid).map fun p => dotInt p d.srcStr) &&
    alignedRuns d.dst d.e ((boxPositions d.all).map fun p => dotInt p d.dstStr)

/-! ## COPYs (R379, R408 to R410, R412) -/

def MCopy.spans (c : MCopy) : List (Int × Int) := c.runs.flatMap fun r => [(r.srcLo, r.srcHi), (r.dstLo, r.dstHi)]
def MCopy.stagedAny (c : MCopy) : Bool := c.runs.any fun r => r.how == 2
def MCopy.padAny (c : MCopy) : Bool := c.runs.any fun r => r.desc.padded
/-- Whether two COPYs are in one program order (R409). -/
def MCopy.ordered (a b : MCopy) : Bool := match a.slotCtx, b.slotCtx with
  | none, none => a.ring == b.ring
  | some x, some y => x == y
  | _, _ => false
def MCopy.firstPhase (c : MCopy) : Nat := if c.stagedAny then 1 else if c.padAny then 2 else 3
def MLoc.isScratch : MLoc → Bool
  | .scratch _ => true
  | _ => false
def MCopy.usesScratch (c : MCopy) : Bool := c.runs.any fun r => r.srcLoc.isScratch || r.dstLoc.isScratch

/-- Whether copies of a command that use scratch are still outstanding (R380). -/
def State.scratchCopies (s : State) (uid : Nat) : Bool := s.copies.any fun c => c.2.uid == uid && c.2.usesScratch

/-- Whether a COPY that waits may begin: earlier ones of its order that meet its spans have ended, and the mould buffer is free for it (R409, R410). -/
def State.copyMayStart (s : State) (id : Nat) (c : MCopy) : Bool :=
  (s.copies.all fun q => decide (id ≤ q.1) || !q.2.ordered c || !(q.2.spans.any fun a => c.spans.any fun b => spansMeet a b)) &&
    (!c.stagedAny || s.mouldUser.isNone)

/-- Every waiting COPY that may begin does. -/
def State.startCopies (s : State) : State :=
  (s.copies.map (·.1)).foldl (fun s id =>
    match Tab.find s.copies id with
    | none => s
    | some c =>
      if c.phase = 0 ∧ !c.killed ∧ s.copyMayStart id c then
        { s with copies := Tab.put s.copies id { c with phase := c.firstPhase }, mouldUser := if c.stagedAny then some id else s.mouldUser }
      else s) s

/-- A COPY with its runs in MLD. -/
def State.addCopy (s : State) (w : CopyFrom) (runs : List MRun) (done : Option Nat) : State :=
  let c : MCopy := { uid := w.uid, slotCtx := w.slot.map (·.1), host := w.host, ring := w.ring, runs := runs, phase := 0, doneTally := done, heat := w.heat }
  { s with copies := Tab.put s.copies s.nextCopy c, nextCopy := s.nextCopy + 1 }.startCopies

/-- An admitted COPY command (R401, R405). -/
def State.startCopy (s : State) (uid : Nat) : State :=
  match s.cmd uid with
  | none => s
  | some k =>
    let ds := (chunks 128 (k.payload.length + 1) k.payload).map mdescOf
    let w : CopyFrom := { uid := uid, host := k.host, ring := k.ring, heat := k.heat }
    let r := s.checkCopyDescs w ds
    if r.1 ≠ 0 then (s.inc Reg.copyRefusals 0 1).makeReady uid r.1 else s.addCopy w r.2 none

/-- The COPY of a slot, its descriptors read (R379). -/
def State.startSlotCopy (s : State) (x uid status : Nat) (descs : List Byte) (count : Nat) (done : Option Nat) : State :=
  match s.cmd uid, s.ctx x with
  | some k, some c =>
    if status ≠ 0 then s.endCommand uid (if status = 1 then 0x10 else 0x18) 2
    else
      let ds := (List.range count).map fun i => mdescOf (slice descs (128 * i) 128)
      let w : CopyFrom := { uid := uid, host := k.host, ring := k.ring, heat := k.heat, slot := some (x, c.seq, hOp k.header == 1, k.resultBytes)
                            payloadBytes := hPayloadBytes k.header }
      let r := s.checkCopyDescs w ds
      if r.1 ≠ 0 then (s.inc Reg.copyRefusals 0 1).endCommand uid r.1 2
      else (s.modCmd uid fun k => { k with copies := k.copies + 1 }).addCopy w r.2 done
  | _, _ => s

/-- A COPY ends with a status: its command is ready, or the slot's tally is incremented and its command may end (R379, R412). -/
def State.endCopy (s : State) (id : Nat) (c : MCopy) (st : Nat) : State :=
  let s := { s with copies := Tab.drop s.copies id, mouldUser := if s.mouldUser = some id then none else s.mouldUser }
  let s := s.startCopies
  match c.slotCtx with
  | none => match s.cmd c.uid with
    | some k => s.makeReady c.uid (if k.marked ≠ 0 then k.marked else st)
    | none => s
  | some x =>
    let s := s.modCmd c.uid fun k => { k with copies := k.copies - 1 }
    let s := match c.doneTally with
      | some t => if st = 0 then s.tallyCredit x c.heat t 1 else s
      | none => s
    if st = 0 then s.tryEnd c.uid else (s.endCommand c.uid st 2).tryEnd c.uid

/-- The elements a phase writes, for the point at which a kill stopped it. -/
def MCopy.phaseWrites (c : MCopy) : Nat :=
  let count := fun (b : List (Int × Nat)) => b.foldl (fun n x => n * x.2) 1
  if c.phase = 2 then c.runs.foldl (fun n r => n + (count r.desc.all - count r.desc.valid)) 0
  else if c.phase = 3 then c.runs.foldl (fun n r => n + count r.desc.valid) 0
  else 0

/-- The order in which descriptors write their pads, which the spec leaves open: by free values (R408). -/
def State.padOrder (s : State) (runs : List MRun) : List MRun :=
  (sortBy (fun (a b : Nat × MRun) => decide (a.1 < b.1)) (runs.zipIdx.map fun r => (Config.freeValue (s.free + r.2), r.1))).map (·.2)

/-- The transfers of the phase in progress, up to a limit of writes: the worst status and the state (R408). -/
def State.runPhase (s : State) (id : Nat) (c : MCopy) (limit : Nat) (whole : Bool) : Nat × State :=
  let step := fun (go : State → MRun → Nat → Nat × Nat × State) (acc : Nat × Nat × State) (r : MRun) =>
    let x := go acc.2.2 r acc.1
    (x.1, worse acc.2.1 x.2.1, x.2.2)
  if c.phase = 1 then
    let r := c.runs.foldl (fun (acc : List MRun × Nat × State) m =>
      if m.how = 2 then
        let x := acc.2.2.readRun m
        (acc.1 ++ [{ m with staged := x.1 }], x.1.foldl (fun a e => worse a e.1) acc.2.1, x.2)
      else (acc.1 ++ [m], acc.2)) ([], 0, s)
    (r.2.1, { r.2.2 with copies := Tab.modify r.2.2.copies id fun c => { c with runs := r.1 } })
  else if c.phase = 2 then
    let order := s.padOrder c.runs
    let r := order.foldl (step fun s m l => s.padRun m l) (limit, 0, { s with free := s.free + c.runs.length })
    (r.2.1, r.2.2)
  else
    let r := c.runs.foldl (step fun s m l => s.moveRun c.host m l whole) (limit, 0, s)
    (r.2.1, r.2.2)

/-- Whether a check channel that a COPY's third phase drives is in a run of its own (R421). -/
def State.channelBusy (s : State) (c : MCopy) : Bool :=
  c.phase == 3 && c.runs.any fun r => r.desc.check != 0 && s.rd Reg.checkStatus (8 * c.host + r.desc.check - 1) == 1

/-- Every write of a COPY's phase has its response: the next phase begins, or the COPY ends (R408, R412). -/
def State.phaseDone (s : State) (id : Nat) : State :=
  match Tab.find s.copies id with
  | none => s
  | some c =>
    if !s.works 14 ∨ (c.phase = 0 ∧ !c.killed) ∨ (!c.killed && s.channelBusy c) then s
    else if c.killed then
      let d := s.draw
      let r := if c.phase ≤ 1 then (0, s) else d.2.runPhase id c (d.1 % (c.phaseWrites + 1)) false
      r.2.endCopy id c 0x17
    else
      let r := s.runPhase id c (c.phaseWrites + 1) true
      let s := r.2
      if r.1 ≠ 0 then s.endCopy id c (if r.1 = 1 then 0x10 else 0x18)
      else if c.phase = 3 then
        let n := fun (p : MRun → Bool) => (c.runs.filter p).length
        let s := (s.inc Reg.descriptorsDone 0 c.runs.length).inc Reg.stagedDescriptors 0 (n fun r => r.how == 2)
        let s := (s.inc Reg.inPlaceTransposes 0 (n fun r => r.how == 1)).inc Reg.misalignedDescriptors 0 (n fun r => !r.desc.aligned)
        s.endCopy id c 0
      else { s with copies := Tab.modify s.copies id fun c => { c with phase := if c.phase = 1 ∧ c.padAny then 2 else 3 } }

/-- MLD takes the mould buffer's buffers at start-up: as many of 16 as the pool grants (R410). -/
def State.takeMould (s : State) : State :=
  let r := (List.range 16).foldl (fun (acc : List Nat × State) _ =>
    let a := acc.2.request 14 5
    match a.1 with
    | some h => (acc.1 ++ [h], a.2)
    | none => (acc.1, a.2)) ([], s)
  { r.2 with mouldBufs := r.1 }.wr Reg.mouldBufferBytes 0 (r.1.length * 262144)

end Sys2Proof.Machine
end

