-- ==== Sys2Proof/Machine/Pattern.lean ====
section
/-! DEFINITION. PSQ: the issue of one instruction word, its checks, effects, rest points and exceptions (R358 to R386). -/

set_option Elab.async false

set_option linter.unusedVariables false

namespace Sys2Proof.Machine

/-! ## The attempt that issues -/

/-- A word about to issue: its sequencer, context, command and pattern as they stand at the start of the word (R367). -/
structure Issue where
  n : Nat
  x : Nat
  c : Ctx
  uid : Nat
  k : Cmd
  p : Pattern
  w : PWord

/-- The pattern that a command runs (R364). -/
def State.patternOf (s : State) (c : Ctx) (k : Cmd) : Option Pattern :=
  Tab.find s.patterns (if hOp k.header = 1 then fld k.header 271 256 else c.pattern)

/-- Whether a command's SCORE slot is in issue and waits: for its block, another pour or a late bias (R146, R299, R354). -/
def State.scoreWaits (s : State) (uid : Nat) : Bool := match s.disp uid with
  | some d => d.phase == 0
  | none => false

/-- What sequencer n would issue next, if it runs a context. -/
def State.issueOf (s : State) (n : Nat) : Option Issue :=
  match s.running n with
  | none => none
  | some (x, c) =>
    if c.state ≠ 3 ∨ !s.works 1 then none
    else match c.cmd with
      | none => none
      | some u => if s.scoreWaits u then none else match s.cmd u with
        | none => none
        | some k => match s.patternOf c k with
          | none => none
          | some p => match p.words[c.pc]? with
            | none => none
            | some w => some { n := n, x := x, c := c, uid := u, k := k, p := p, w := decodeWord w }

def Issue.run (i : Issue) : Bool := hOp i.k.header == 1
def Issue.reg (i : Issue) (r : Nat) : Word64 := i.c.greg r
def Issue.tallyReg (i : Issue) (r : Nat) : Nat := bits (i.reg r).toNat 16 0
def Issue.exec (i : Issue) (guard : Nat) : Bool := guardTrue guard i.c.preds
def Issue.place (i : Issue) (write : Bool) (a n : Nat) : Option Place :=
  placeOf i.run (hPayloadBytes i.k.header) i.p.runResultBytes write a n

/-! ## Issue checks (R367 step 2) -/

def excAlign : Nat := 1
def excAccess : Nat := 2
def excTallyRange : Nat := 3
def excSlotOrder : Nat := 4
def excSlotArgument : Nat := 5
def excReturnStack : Nat := 6
def excPcRange : Nat := 7
def excRestWatchdog : Nat := 8
def excTrap : Nat := 9
def excEndIncomplete : Nat := 0xA
def excReplayDiverged : Nat := 0xB

/-- The address of an LDM or STM. -/
def Issue.memAddr (i : Issue) (sl : ScalarSlot) : Nat := (i.reg sl.ra + sextImm sl.imm).toNat

/-- The issue check of a scalar slot. -/
def State.checkScalar (s : State) (i : Issue) (sl : ScalarSlot) : Option Nat :=
  if !i.exec sl.guard then none
  else if sl.op = 0x31 then (if s.tallyOwned i.k.host (i.tallyReg sl.ra) then none else some excTallyRange)
  else if sl.op = 0x38 ∨ sl.op = 0x39 then
    if i.memAddr sl % 8 ≠ 0 then some excAlign
    else if (i.place (sl.op == 0x39) (i.memAddr sl) 8).isNone then some excAccess
    else none
  else none

/-- The issue check of the STITCH slot (R373, R377). -/
def State.checkStitch (s : State) (i : Issue) : Option Nat :=
  let sl := i.w.stitch
  if !i.exec sl.guard then none
  else if sl.op = 1 then
    if bit i.c.wide 0 || bit i.c.wide 3 then some excSlotOrder
    else if s.tallyOwned i.k.host (i.tallyReg sl.reg) then none else some excTallyRange
  else if !bit i.c.wide 3 then some excSlotOrder
  else
    let a := (i.reg sl.reg).toNat
    if a % 32 ≠ 0 then some excSlotArgument
    else match i.place false a 32 with
      | some (.mem _) => none
      | _ => some excAccess

/-- The issue check of the SELECT slot (R373, R375). -/
def Issue.checkSelect (i : Issue) : Option Nat :=
  let sl := i.w.select
  if !i.exec sl.guard then none
  else if bit i.c.wide 1 || bit i.c.wide 3 then some excSlotOrder
  else if sl.op = 2 ∧ (hMaxFallback i.k.header < sl.level ∨ sl.level = 0 ∨ sl.level = 3) then some excSlotArgument
  else none

/-- The issue check of the POUR slot (R373, R376). -/
def State.checkPour (s : State) (i : Issue) : Option Nat :=
  let sl := i.w.pour
  if !i.exec sl.guard then none
  else if bit i.c.wide 2 || bit i.c.wide 3 then some excSlotOrder
  else if sl.tallyEnable = 1 ∧ !s.tallyOwned i.k.host (i.tallyReg sl.tallyReg) then some excTallyRange
  else none

/-- The issue check of the SCORE slot: OPEN, SELECT and ARM issued in an earlier word or in this one (R373, R374). -/
def State.checkScore (s : State) (i : Issue) : Option Nat :=
  let sl := i.w.score
  if !i.exec sl.guard then none
  else if bit i.c.wide 3 ||
      !(bit i.c.wide 0 || (i.exec i.w.stitch.guard && i.w.stitch.op == 1)) ||
      !(bit i.c.wide 1 || i.exec i.w.select.guard) || !(bit i.c.wide 2 || i.exec i.w.pour.guard) then some excSlotOrder
  else if sl.tallyEnable = 1 ∧ !s.tallyOwned i.k.host (i.tallyReg sl.tallyReg) then some excTallyRange
  else none

/-- The issue check of the COPY slot (R379). -/
def State.checkCopy (s : State) (i : Issue) : Option Nat :=
  let sl := i.w.copy
  if !i.exec sl.guard then none
  else if !(match i.place false (i.reg sl.descReg).toNat (128 * (sl.countM1 + 1)) with
      | none => false
      | some (.mem a) => (s.xlt i.k.host a (128 * (sl.countM1 + 1)) false).isSome
      | some _ => true) then some excAccess
  else if sl.doneEnable = 1 ∧ !s.tallyOwned i.k.host (i.tallyReg sl.doneReg) then some excTallyRange
  else none

/-- The issue check of the TALLY slot (R378). -/
def State.checkTallySlot (s : State) (i : Issue) : Option Nat :=
  let sl := i.w.tally
  if i.exec sl.guard && !s.tallyOwned i.k.host (i.tallyReg sl.tallyReg) then some excTallyRange else none

/-- Whether the word takes a branch. -/
def Issue.branches (i : Issue) : Bool := i.exec i.w.control.guard && (1 ≤ i.w.control.cop && i.w.control.cop ≤ 3)

/-- The issue check of the control slot (R370 to R372). -/
def State.checkControl (s : State) (i : Issue) : Option Nat :=
  let sl := i.w.control
  let on := i.exec sl.guard
  let named := fun b r => bit sl.combine b && !s.tallyOwned i.k.host (i.tallyReg r)
  if on ∧ sl.cop = 2 ∧ 16 ≤ i.c.stack.length then some excReturnStack
  else if on ∧ sl.cop = 3 ∧ i.c.stack = [] then some excReturnStack
  else if on ∧ sl.cop = 4 ∧ ((sl.combine ≠ 0 ∧ !s.tallyOwned i.k.host (i.tallyReg sl.tallyA)) ∨
      (2 ≤ sl.combine ∧ !s.tallyOwned i.k.host (i.tallyReg sl.tallyB))) then some excTallyRange
  else if on ∧ sl.cop = 5 ∧ !i.run ∧ !(bit i.c.wide 3 || i.exec i.w.score.guard) then some excEndIncomplete
  else if on ∧ sl.cop = 6 then some excTrap
  else if !i.branches ∧ !(on && sl.cop == 5) ∧ i.p.words.length ≤ i.c.pc + 1 then some excPcRange
  else none

/-- The first failing check in the order of R367 step 4, a pending watchdog or divergence before all (R381, R383). -/
def State.checkWord (s : State) (i : Issue) : Option Nat :=
  if i.c.watchdog then some excRestWatchdog
  else if i.c.diverged then some excReplayDiverged
  else
    [s.checkScalar i i.w.a, s.checkScalar i i.w.b, s.checkStitch i, i.checkSelect, s.checkPour i, s.checkScore i,
      s.checkCopy i, s.checkTallySlot i, s.checkControl i].findSome? id

/-! ## Exceptions (R384) -/

/-- The running context stops at the word in issue with an exception. -/
def State.patternException (s : State) (i : Issue) (code : Nat) : State :=
  let r : ExcRec := { stopped := true, tick := s.tick, ctx := i.x, code := code, pc := i.c.pc
                      word := match i.p.words[i.c.pc]? with | some w => w.toNat | none => 0 }
  let s := { s with excs := Tab.put s.excs i.n r }
  let s := s.modCtx i.x fun c => { c with state := 6, watchdog := false }
  let s := (s.inc Reg.patternExceptions i.n 1).inc Reg.restWatchdogFires i.n (b2n (code == excRestWatchdog))
  s.raise { src := 0x0107, ctx := some (i.x, i.c.heat), host := i.k.host, status := 0x17, a := i.c.pc, b := code }

/-! ## Scalar memory (R369, R380) -/

/-- The bytes of an 8-byte read at a place, its response status and the state after. -/
def State.readPlace (s : State) (i : Issue) (pl : Place) (n : Nat) : Nat × List Byte × State :=
  match pl with
  | .mem a => s.hostRead i.k.host a n
  | .scratch off =>
    let r := s.storeRead (scratchNo i.n) off n { src := 0, ctx := some (i.x, i.c.heat), host := i.k.host, status := 0x18 }
    (if r.1 then 2 else 0, Tab.readBytes 0 s.scratch (i.n * 2 ^ 20 + off) n, r.2)
  | .payload off =>
    let part := (i.k.payload.drop off).take n
    let extra := s.drawBytes (n - part.length)
    (0, part ++ extra.1, extra.2)
  | .result off => (0, (List.range n).map fun j => Tab.get 0 i.k.result (off + j), s)

/-- An 8-byte store at a place: its response status and the state after. -/
def State.writePlace (s : State) (i : Issue) (pl : Place) (l : List Byte) : Nat × State :=
  match pl with
  | .mem a => s.hostWrite i.k.host a l
  | .scratch off =>
    let s := { s with scratch := l.zipIdx.foldl (fun t (p : Byte × Nat) => Tab.put t (i.n * 2 ^ 20 + off + p.2) p.1) s.scratch }
    (0, s.storeWrite (scratchNo i.n) off l.length)
  | .payload _ => (1, s)
  | .result off =>
    let r := s.writeResult i.k off l
    if r.1 = 1 then r
    else (r.1, r.2.modCmd i.uid fun k => { k with result := l.zipIdx.foldl (fun t (p : Byte × Nat) => Tab.put t (off + p.2) p.1) k.result })

/-! ## Effects and their suppression (R383) -/

/-- One effect of a pattern counted and folded: whether it acts, and the state after. -/
def State.patternEffect (s : State) (i : Issue) (kind op a v : Nat) : Bool × State :=
  match s.ctx i.x with
  | none => (false, s)
  | some c =>
    let act := decide (c.suppress ≤ c.effectCount)
    let n := c.effectCount + 1
    let crc := crc32cMore c.effectCrc (leBytes 4 kind ++ leBytes 4 op ++ leBytes 8 a ++ leBytes 8 v)
    let s := s.modCtx i.x fun c => { c with
      effectCount := n % 2 ^ 16, effectCrc := crc
      diverged := c.diverged || (!act && n == c.suppress && crc != c.suppressCrc) }
    (act, if act then s else s.inc Reg.effectsSuppressed i.n 1)

/-! ## Slots -/

/-- A special value of RDS (R367). -/
def State.specialValue (s : State) (i : Issue) (sel : Nat) : Word64 :=
  BitVec.ofNat 64 <|
    if sel = 0 then i.c.step
    else if sel = 1 then i.c.heat
    else if sel = 2 then i.x
    else if sel = 3 then i.n
    else if sel = 4 then s.tick
    else if sel = 5 then hPayloadBytes i.k.header
    else if sel = 6 then hCommandId i.k.header
    else if sel = 7 then (if hDeadlineEnable i.k.header then hDeadline i.k.header else 0)
    else i.k.host

/-- What a word's scalar memory access or tally load gave: a response status and a value. -/
def State.scalarAccess (s : State) (i : Issue) (sl : ScalarSlot) : Nat × Word64 × State :=
  if !i.exec sl.guard then (0, 0, s)
  else if sl.op = 0x31 then
    let t := i.tallyReg sl.ra
    let s := s.tallyCheck t
    (if s.tallyBad.contains t then 2 else 0, BitVec.ofNat 64 (s.tally t), s)
  else if sl.op = 0x38 then
    match i.place false (i.memAddr sl) 8 with
    | none => (1, 0, s)
    | some pl =>
      let r := s.readPlace i pl 8
      (r.1, BitVec.ofNat 64 (leNat r.2.1), r.2.2)
  else if sl.op = 0x39 then
    match i.place true (i.memAddr sl) 8 with
    | none => (1, 0, s)
    | some pl =>
      let e := s.patternEffect i 2 0x39 (i.memAddr sl) (i.reg sl.rb).toNat
      if e.1 then
        let r := e.2.writePlace i pl (leBytes 8 (i.reg sl.rb).toNat)
        (r.1, 0, if r.1 = 1 then s else r.2)
      else (0, 0, e.2)
  else (0, if sl.op = 0x30 then s.specialValue i (sl.imm % 16) else 0, s)

/-- The register and predicate a scalar slot writes at the end of the word. -/
def Issue.writeback (i : Issue) (sl : ScalarSlot) (special : Word64) (c : Ctx) : Ctx :=
  if !i.exec sl.guard then c
  else
    let ga := i.reg sl.ra
    let gb := i.reg sl.rb
    match scalarValue sl.op ga gb sl.imm special with
    | some v => c.setReg sl.rd v
    | none => match predValue sl.op ga gb sl.imm i.c.preds sl.ra sl.rb with
      | some b => c.setPred sl.pd b
      | none => c

/-- STITCH OPEN, SELECT and POUR ARM name what SCORE takes (R375 to R377). -/
def Issue.armWide (i : Issue) (c : Ctx) : Ctx :=
  let c := if i.exec i.w.stitch.guard && i.w.stitch.op == 1 then
      { c with wide := setBit c.wide 0, stitchTally := i.tallyReg i.w.stitch.reg } else c
  let c := if i.exec i.w.select.guard then
      { c with wide := setBit c.wide 1, armLevel := if i.w.select.op = 2 then i.w.select.level else 0 } else c
  let c := if i.exec i.w.pour.guard then
      { c with wide := setBit c.wide 2
               pourTally := if i.w.pour.tallyEnable = 1 then some (i.tallyReg i.w.pour.tallyReg) else none } else c
  if i.exec i.w.score.guard then
    { c with wide := setBit c.wide 3
             scoreTally := if i.w.score.tallyEnable = 1 then some (i.tallyReg i.w.score.tallyReg) else none } else c

/-- The COPY slot handed to MLD (R379). -/
def State.issueCopySlot (s : State) (i : Issue) : State :=
  let sl := i.w.copy
  if !i.exec sl.guard then s
  else
    let a := (i.reg sl.descReg).toNat
    let n := sl.countM1 + 1
    let e := s.patternEffect i 3 sl.op a n
    if !e.1 then e.2
    else match i.place false a (128 * n) with
      | none => e.2
      | some pl =>
        let r := e.2.readPlace i pl (128 * n)
        let done := if sl.doneEnable = 1 then some (i.tallyReg sl.doneReg) else none
        r.2.2.startSlotCopy i.x i.uid r.1 r.2.1 n done

/-- The TALLY slot's update (R378). -/
def State.issueTallySlot (s : State) (i : Issue) : State :=
  let sl := i.w.tally
  if !i.exec sl.guard then s
  else
    let t := i.tallyReg sl.tallyReg
    let v := if sl.op = 3 then sl.imm else bits (i.reg sl.valueReg).toNat 47 0
    let e := s.patternEffect i 1 sl.op t v
    if !e.1 then e.2
    else if !e.2.credits i.x i.c.heat then e.2
    else if sl.op = 2 then e.2.tallySet t v
    else e.2.tallyAdd t v

/-! ## Rest points and the end (R371, R372, R380) -/

/-- Whether a WAIT's condition holds now (R371). -/
def State.restMet (s : State) (r : RestWait) : Bool :=
  let a := s.tallyMeets r.tallyA r.threshA
  let b := s.tallyMeets r.tallyB r.threshB
  if r.combine = 0 then true else if r.combine = 1 then a else if r.combine = 2 then a && b else a || b

/-- Whether a WAIT names a poisoned tally (R330). -/
def State.restBad (s : State) (r : RestWait) : Bool :=
  (r.combine != 0 && s.tallyBad.contains r.tallyA) || (2 ≤ r.combine && s.tallyBad.contains r.tallyB)

/-- The waits of an unsatisfied WAIT made in TLY (R326). -/
def State.makeRest (s : State) (x : Nat) (r : RestWait) : State :=
  let s := if r.combine ≠ 0 ∧ !s.tallyMeets r.tallyA r.threshA then
      s.makeWait { tally := r.tallyA, thresh := r.threshA, who := .context x 0 } else s
  if 2 ≤ r.combine ∧ !s.tallyMeets r.tallyB r.threshB then
    s.makeWait { tally := r.tallyB, thresh := r.threshB, who := .context x 1 } else s

/-- A WAIT takes its turn: scratch dies; the context goes on, or rests until its condition holds or a take lets it leave (R371, R380, R382). -/
def State.restNow (s : State) (x : Nat) (r : RestWait) : State :=
  match s.ctx x with
  | none => s
  | some c =>
    let s := s.clearScratch c.seq
    let s := if r.combine ≠ 0 then s.tallyCheck r.tallyA else s
    let s := if 2 ≤ r.combine then s.tallyCheck r.tallyB else s
    if s.restBad r then
      match c.cmd with
      | some u => s.endCommand u 0x18 2
      | none => s
    else if s.restMet r then
      if c.take then (s.modCtx x fun c => { c with state := 4, hold := 1, rest := none, watchOn := false }).leaveIfFree x
      else s.modCtx x fun c => { c with state := 3, hold := 0, rest := none, runTick := s.tick, watchOn := true }
    else
      ((s.modCtx x fun c => { c with state := 4, hold := 1, rest := some r, watchOn := false }).makeRest x r).leaveIfFree x

/-- An END takes its turn: scratch dies, the command may become ready, and the context leaves once nothing holds it (R372). -/
def State.endNow (s : State) (x : Nat) : State :=
  match s.ctx x with
  | none => s
  | some c =>
    let s := s.clearScratch c.seq
    let s := (s.modCtx x fun c => { c with state := 4, hold := 2, rest := none, watchOn := false }).leaveIfFree x
    match c.cmd with
    | some u => (s.modCmd u fun k => { k with ended := true }).tryEnd u
    | none => s

/-- The control slot, evaluated last: where the context goes next (R370 to R372). -/
def State.issueControl (s : State) (i : Issue) : State :=
  let sl := i.w.control
  let next := fun (s : State) => s.modCtx i.x fun c => { c with pc := i.c.pc + 1 }
  if !i.exec sl.guard ∨ sl.cop = 0 then next s
  else if sl.cop = 1 then s.modCtx i.x fun c => { c with pc := sl.target }
  else if sl.cop = 2 then s.modCtx i.x fun c => { c with pc := sl.target, stack := (i.c.pc + 1) :: c.stack }
  else if sl.cop = 3 then s.modCtx i.x fun c => { c with pc := c.stack.headD 0, stack := c.stack.drop 1 }
  else
    let busy := s.scratchCopies i.uid
    if sl.cop = 4 then
      let r : RestWait := { combine := sl.combine, tallyA := i.tallyReg sl.tallyA, threshA := bits (i.reg sl.threshA).toNat 47 0
                            tallyB := i.tallyReg sl.tallyB, threshB := bits (i.reg sl.threshB).toNat 47 0 }
      let s := (next s).inc Reg.waitsIssued i.n 1
      if busy then s.modCtx i.x fun c => { c with state := 4, hold := 3, rest := some r, watchOn := false }
      else s.restNow i.x r
    else if busy then (next s).modCtx i.x fun c => { c with state := 4, hold := 4, rest := none, watchOn := false }
    else (next s).endNow i.x

/-- A WAIT or END that waited for copies using scratch takes its turn once they have ended (R380). -/
def State.scratchFree (s : State) (uid : Nat) : State :=
  match s.cmd uid with
  | none => s
  | some k => match s.ctx k.ctx with
    | none => s
    | some c =>
      if c.cmd ≠ some uid ∨ c.state ≠ 4 ∨ s.scratchCopies uid then s
      else if c.hold = 3 then (match c.rest with
        | some r => s.restNow k.ctx r
        | none => s)
      else if c.hold = 4 then s.endNow k.ctx
      else s

/-! ## The word (R367) -/

/-- A word whose checks and accesses have passed: slots in order, scalar results at the end, the control slot last. -/
def State.issueSlots (s : State) (i : Issue) (va vb : Word64) (shared : Option (List Byte)) : State :=
  let s := match shared with
    | some d => s.startShared i.x i.uid d
    | none => s
  let s := s.modCtx i.x i.armWide
  let s := if i.exec i.w.score.guard then s.startScore i.uid else s
  let s := (s.issueCopySlot i).inc Reg.wordsIssued i.n 1
  let s := s.modCtx i.x fun c => i.writeback i.w.b vb (i.writeback i.w.a va c)
  let s := s.issueTallySlot i
  match s.ctx i.x with
  | none => s
  | some c => if c.cmd = some i.uid ∧ c.state = 3 then s.issueControl i else s

/-- The word at the running context's pc issues as a whole (R367), or stops the context with an exception, or ends its command on poison (R67). -/
def State.issueWord (s : State) (i : Issue) : State :=
  let w := s.storeRead planCacheNo (i.p.base + 64 + 64 * i.c.pc) 64 { src := 0, ctx := some (i.x, i.c.heat), host := i.k.host }
  if w.1 then w.2
  else
  let s := w.2
  match s.checkWord i with
  | some code => s.patternException i code
  | none =>
    let sharing := i.exec i.w.stitch.guard && i.w.stitch.op == 2
    let d := if sharing then s.hostRead i.k.host (i.reg i.w.stitch.reg).toNat 32 else (0, [], s)
    if d.1 = 1 then d.2.2.patternException i excAccess
    else if d.1 ≠ 0 then d.2.2.endCommand i.uid 0x18 2
    else if sharing && d.2.2.sharedRefused i.x i.uid d.2.1 then d.2.2.patternException i excSlotArgument
    else
      let a := d.2.2.scalarAccess i i.w.a
      if a.1 = 1 then a.2.2.patternException i excAccess
      else if a.1 ≠ 0 then a.2.2.endCommand i.uid 0x18 2
      else
        let b := a.2.2.scalarAccess i i.w.b
        if b.1 ≠ 0 then b.2.2.endCommand i.uid 0x18 2
        else b.2.2.issueSlots i a.2.1 b.2.1 (if sharing then some d.2.1 else none)

/-- The responses of a COPY's phase have all come; a WAIT or END that its end lets go on does (R380, R408). -/
def State.mouldPhase (s : State) (id : Nat) : State :=
  match Tab.find s.copies id with
  | none => s
  | some c => (s.phaseDone id).scratchFree c.uid

end Sys2Proof.Machine
end

