-- ==== Sys2Proof/Machine/Rings.lean ====
section
/-! DEFINITION. CMD: rings, fetch, admission, the start of each command, CANCEL, and posting (R68 to R99, R451, R453). -/

set_option Elab.async false

set_option linter.unusedVariables false

namespace Sys2Proof.Machine

/-! ## Rings (R69 to R76) -/

/-- The host of a ring: the owner of its channel (R426). -/
def State.ringHost (s : State) (i : Nat) : Option Nat := s.channelOwner (i / 64)

def State.submitSlots (s : State) (i : Nat) : Nat := 2 ^ s.rd Reg.submitSizeLog2 i
def State.complSlots (s : State) (i : Nat) : Nat := 2 ^ s.rd Reg.completionSizeLog2 i

/-- Written submission slots not yet consumed (R72). -/
def Ring.written (r : Ring) : Nat := (r.submitTail + 2 ^ 32 - r.submitHead) % 2 ^ 32

/-- Posted completion slots not yet consumed (R72). -/
def Ring.unread (r : Ring) : Nat := (r.complTail + 2 ^ 32 - r.complHead) % 2 ^ 32

/-- The result bytes a completion carries: none when it did not end OK (R79, R88). -/
def Cmd.resultNow (k : Cmd) : Nat := if k.ready && k.status != 0 then 0 else k.resultBytes

/-- Completion slots of a number of result bytes (R76). -/
def complSlotsOf (n : Nat) : Nat := 1 + ceilDiv n 32

/-- Completion slots reserved by the commands in flight of a ring (R76). -/
def State.reservedSlots (s : State) (i : Nat) : Nat :=
  (s.ring i).rob.foldl (fun n u => match s.cmd u with
    | some k => n + complSlotsOf k.resultNow
    | none => n) 0

/-- A ring in State 2 with its fault (R74). -/
def State.overrun (s : State) (i : Nat) : State :=
  let s := s.modRing i fun r => { r with state := 2, complWait := false }
  s.raise { src := 0x0001, host := (s.ringHost i).getD 0, a := i / 64 * 2 ^ 32 + i % 64, b := (s.ring i).submitTail }

/-- CMD samples a doorbell (R73, R74). -/
def State.doorbell (s : State) (i v : Nat) : State :=
  let s := s.modRing i fun r => { r with submitTail := v }
  if (s.ring i).state = 1 ∧ s.submitSlots i < (s.ring i).written then s.overrun i else s

/-- A CompletionHead write (R72, R74). -/
def State.headWrite (s : State) (i v : Nat) : State :=
  let s := s.modRing i fun r => { r with complHead := v }
  if (s.ring i).state = 1 ∧ s.complSlots i < (s.ring i).unread then s.overrun i else s

/-- RingEnable 1 with a base unaligned or a size outside 6 to 20 (R69). -/
def State.ringBad (s : State) (i : Nat) : Bool :=
  let z := s.rd Reg.submitSizeLog2 i
  let c := s.rd Reg.completionSizeLog2 i
  decide (z < 6) || decide (20 < z) || decide (c < 6) || decide (20 < c) || s.rd Reg.submitBase i % 64 != 0 ||
    s.rd Reg.completionBase i % 64 != 0 || s.rd Reg.notifyAddr i % 8 != 0

/-- A ring enabled: indices zero, phase 1, State 1 (R69). -/
def State.ringOn (s : State) (i : Nat) : State :=
  { ((s.wr Reg.ringEnable i 1).wr Reg.completionsPosted i 0) with rings := Tab.put s.rings i { state := 1 } }

/-- A ring whose last command has posted after its disable enters State 0 (R70). -/
def State.ringDrained (s : State) (i : Nat) : State :=
  if (s.ring i).closing && (s.ring i).rob.isEmpty then s.modRing i fun r => { r with closing := false, state := 0 } else s

/-- A ring disabled: fetching stops, its TALLY waits end CANCELLED, the rest runs out (R70, R328); a halted ring's commands are gone (R99). -/
def State.ringOff (s : State) (i : Nat) : State :=
  let s := (s.wr Reg.ringEnable i 0).modRing i fun r => { r with closing := true, complWait := false }
  if (s.ring i).state = 3 then
    ({ s with cmds := s.cmds.filter fun p => p.2.ring != i }.modRing i fun r => { r with rob := [] }).ringDrained i
  else
    let waits := (s.ring i).rob.filter fun u => match s.cmd u with
      | some k => hOp k.header == 6 && fld k.header 258 256 == 3 && !k.ready
      | none => false
    (waits.foldl (fun s u => s.makeReady u 1) s).ringDrained i

/-- RingStatus as a page read gives it. -/
def Ring.statusWord (r : Ring) : Nat :=
  r.rob.length * 2 ^ 16 + r.lastRefusal * 2 ^ 8 + b2n r.complWait * 8 + b2n r.fenceWait * 4 + r.state

/-- Whether CMD may fetch from a ring: enabled, in State 1, fewer than 16 in flight, no FENCE, something written (R70, R74, R75, R93). -/
def State.fetches (s : State) (i : Nat) : Bool :=
  s.works 0 && decide (i < 1024) && s.rb Reg.ringEnable i && (s.ring i).state == 1 && !(s.ring i).closing &&
    decide ((s.ring i).rob.length < 16) && !(s.ring i).fenceWait && decide (0 < (s.ring i).written) && (s.ringHost i).isSome

/-- The memory of a ring, read from an entry on with wrap: worst status and bytes. -/
def State.ringRead (s : State) (host base size slotBytes from_ n : Nat) : Nat × List Byte × State :=
  let start := (from_ % size) * slotBytes
  let first := min n (size * slotBytes - start)
  let a := s.hostRead host (base + start) first
  if first = n then a
  else
    let b := a.2.2.hostRead host base (n - first)
    (worse a.1 b.1, a.2.1 ++ b.2.1, b.2.2)

/-! ## Result sizes (R76, R86) -/

def acceptedResult (f : Nat) : Bool := [0, 1, 2, 3, 4, 8].contains f

/-- The result bytes CMD takes from the header or from what it names (R76). -/
def State.resultBytesOf (s : State) (h : Word512) : Nat :=
  let op := hOp h
  if op = 2 then
    (if acceptedResult (hResultFmt h) then roundUp (8 * hRows h) 64 + hRows h * rowBytes64 (hResultFmt h) (hHiddenDim h) else 0)
  else if op = 1 then (match Tab.find s.patterns (fld h 271 256) with
    | some p => if p.kind = 0 then p.runResultBytes else 0
    | none => 0)
  else if op = 0x10 then hLength h
  else if op = 0x12 then 8
  else if op = 6 then (if fld h 258 256 = 0 then 8 else 0)
  else if op = 7 then fld h 303 272
  else if op = 9 then hPayloadBytes h
  else 0

/-! ## Admission (R79) -/

def opcodeDefined (op : Nat) : Bool := (1 ≤ op && op ≤ 0xA) || (0x10 ≤ op && op ≤ 0x12)

/-- The argument bits an opcode leaves rsvd are zero; those of an undefined opcode are all rsvd (log entry 44). -/
def argsClear (h : Word512) : Bool :=
  let above := fun n => fld h 511 n == 0
  match hOp h with
  | 0x01 => above 480 && fld h 287 272 == 0
  | 0x02 => above 344 && !fbit h 295
  | 0x03 => above 272
  | 0x06 => above 324
  | 0x07 => above 304
  | 0x08 => above 312
  | 0x0A => above 288
  | 0x10 => above 365 && hAtomicOp h == 0
  | 0x11 => above 365 && hAtomicOp h == 0
  | 0x12 => above 365
  | _ => above 256

/-- Check 1: every rsvd field of the header is zero. -/
def rsvdClear (h : Word512) : Bool :=
  fld h 255 210 == 0 && fld h 191 177 == 0 && fld h 127 96 == 0 && fld h 12 10 == 0 && argsClear h

/-- The opcodes that carry no payload. -/
def noPayload (op : Nat) : Bool := op == 4 || op == 5 || op == 6 || op == 0xA || op == 0x10

/-- Check 3: context defined and not Killed, its home ring this ring, the image table there (R77, R432, R475). -/
def State.contextOk (s : State) (i : Nat) (h : Word512) : Bool := match s.ctx (hContext h) with
  | some c => c.homeRing == i && c.state != 7 && (s.engineWindow (s.rd Reg.contextImageWindow 0)).isSome
  | none => false

/-- Checks 1 to 6: the status, 0 when all pass. -/
def State.checkFirst (s : State) (i : Nat) (h : Word512) : Nat :=
  let op := hOp h
  if !rsvdClear h then 3
  else if !opcodeDefined op then 4
  else if !s.contextOk i h then 5
  else if 0x400000 < hPayloadBytes h ∨ (noPayload op ∧ hPayloadBytes h ≠ 0) then 6
  else if s.complSlots i < complSlotsOf (s.resultBytesOf h) then 0xC
  else if (op = 2 ∧ !hLogits h ∧ !s.variant.scu) ∨ (op = 7 ∧ !s.variant.col) then 2
  else 0

/-- Check 7 for a DISPATCH (R41, R42, R83). -/
def dispatchArgs (h : Word512) : Nat :=
  let d := hHiddenDim h
  if 2 < hInputFmt h ∨ 14 < hHiddenFmt h ∨ !acceptedResult (hResultFmt h) then 9
  else if (isMx (hHiddenFmt h) ∨ isMx (hResultFmt h)) ∧ d % 32 ≠ 0 then 0xA
  else if d = 0 ∨ hRows h = 0 ∨ 4096 < hRows h ∨ 16384 < vecPadded (hHiddenFmt h) d ∨ (hLogits h ∧ hRouterDim h ≠ 0) then 0xC
  else 0

/-- Check 7 for an RLD, RST or RAT (R220, R221, R417; log entry 45 for the order). -/
def State.xferArgs (s : State) (host : Nat) (h : Word512) : Nat :=
  let rat := hOp h == 0x12
  let a := hAtomicOp h
  let len := hLength h
  if rat ∧ 8 < a ∧ a ≠ 15 then 9
  else if rat ∧ len ≠ (if a = 6 then 16 else 8) then 0xC
  else if len = 0 ∨ 0x100000 < len then 0xC
  else if hNode h = 0 ∧ !(hWindow h / 16 == host && s.rb Reg.ownerEnable (hWindow h)) then 0xC
  else if rat ∧ hOffset h % 8 ≠ 0 then 8
  else 0

/-- Check 7 for a COLL (R335). -/
def State.collArgs (s : State) (host : Nat) (h : Word512) : Nat :=
  let g := fld h 271 256
  if 63 < g ∨ !s.groupReady g ∨ (List.range 16).any fun b => s.rb Reg.balanceEnable b && s.rd Reg.collGroup b == g then 0xC
  else if s.rd Reg.groupHost g ≠ host then 0x10
  else 0

/-- Check 7. -/
def State.checkArgs (s : State) (host : Nat) (h : Word512) : Nat :=
  let op := hOp h
  let tallyBad := hDoneTallyEnable h && !s.tallyOwned host (hDoneTally h)
  let own :=
    if op = 2 then dispatchArgs h
    else if op = 3 then (if fld h 271 256 = 0 ∨ 256 < fld h 271 256 then 0xC
      else if hPayloadBytes h ≠ 128 * fld h 271 256 then 6 else 0)
    else if op = 6 then (if 3 < fld h 258 256 ∨ !s.tallyOwned host (fld h 275 259) then 0xC else 0)
    else if op = 7 then s.collArgs host h
    else if 0x10 ≤ op then s.xferArgs host h
    else 0
  if own = 9 ∨ own = 0xA then own else if tallyBad then 0xC else own

/-- A pattern that a command of a host may run: NO_PLAN, PLAN_MISMATCH or 0 (R364). -/
def State.patternCheck (s : State) (host id kind : Nat) : Nat := match Tab.find s.patterns id with
  | some p => if p.state ≠ 2 ∨ p.host ≠ host then 0xD else if p.kind ≠ kind then 0xE else 0
  | none => 0xD

/-- A resident plan of a host. -/
def State.planOf (s : State) (host id : Nat) : Option Plan := match s.plan id with
  | some p => if p.state = 2 ∧ p.host = host then some p else none
  | none => none

/-- Check 8 but for its wait and the block size: the status and the layer found (R83, R126, R172, R356, R364). -/
def State.checkPlan (s : State) (host : Nat) (h : Word512) : Nat × Option Layer :=
  let op := hOp h
  if op = 1 then (s.patternCheck host (fld h 271 256) 0, none)
  else if op = 8 then
    (match s.planOf host (fld h 271 256) with
      | none => (0xD, none)
      | some p => match p.layers[fld h 279 272]? with
        | none => (0xE, none)
        | some ly => if (s.balanceOf (fld h 271 256) (fld h 279 272)).isSome then (0xE, none) else (0, some ly))
  else if op = 2 then
    match s.planOf host (hPlan h) with
    | none => (0xD, none)
    | some p =>
      let pc := s.patternCheck host (match s.ctx (hContext h) with
        | some c => c.pattern
        | none => 0) 1
      if pc ≠ 0 then (pc, none)
      else match p.layers[hLayer h]? with
        | none => (0xE, none)
        | some ly =>
          if (!hLogits h ∧ hRouterDim h ≠ ly.d) ∨ (hLogits h ∧ ly.twoStage) ∨ hHiddenDim h ≠ ly.hiddenDim ∨ hHiddenFmt h ≠ ly.hiddenFmt then
            (0xE, none)
          else (0, some ly)
  else (0, none)

/-- The block of a DISPATCH exceeds its host's stitch ways (R299). -/
def State.blockTooBig (s : State) (host : Nat) (h : Word512) (ly : Layer) : Bool :=
  decide (popCount 32 (s.rd Reg.stitchWays host) * 2 ^ 20 <
    blockBytes (hRows h) ly.sharedCount ly.topK (rowBytes64 ly.answerFmt ly.hiddenDim) (rowBytes64 (hResultFmt h) ly.hiddenDim))

/-- The sections of a DISPATCH payload as (offset, bytes) (R84). -/
def sectionsOf (k : Cmd) (inputElems : Nat) : List (Nat × Nat) :=
  let h := k.header
  let t := hRows h
  [(k.mapOffset, 4 * (k.dir % 2 ^ 32)), (k.inputOffset, (t - 1) * k.inputStride + vecPadded (hInputFmt h) inputElems),
    (k.hiddenOffset, (t - 1) * k.hiddenStride + vecPadded (hHiddenFmt h) (hHiddenDim h))]

/-- Check 9 of a DISPATCH (R56, R84). -/
def dispatchPayload (k : Cmd) (inputElems : Nat) : Nat :=
  let h := k.header
  let n := hPayloadBytes h
  let sec := sectionsOf k inputElems
  if n < 64 then 7
  else if bits k.dir 511 184 ≠ 0 ∨ bits k.dir 127 120 ≠ 0 then 3
  else if [k.mapOffset, k.inputOffset, k.inputStride, k.hiddenOffset, k.hiddenStride].any fun x => x % 64 != 0 then 8
  else if k.inputStride < vecPadded (hInputFmt h) inputElems ∨ k.hiddenStride < vecPadded (hHiddenFmt h) (hHiddenDim h) ∨
      sec.any (fun x => decide (x.1 < 64) || decide (n < x.1 + x.2)) ∨
      sec.zipIdx.any (fun x => sec.zipIdx.any fun y => decide (x.2 < y.2) && rangesMeet x.1.1 x.1.2 y.1.1 y.1.2) then 7
  else if k.dir % 2 ^ 32 ≠ hRows h then 0xB
  else 0

/-- Whether an operation's format codes are those the COLL descriptor allows. -/
def Coll.formatsOk (c : Coll) : Bool :=
  decide (c.op ≤ 3) && (!c.reduction || (decide (c.reduce ≤ 2) &&
    (if c.fmt = 11 then c.resultFmt == 11 else decide (c.fmt ≤ 2) && decide (c.resultFmt ≤ 2))))

/-- Check 9 of a COLL: its descriptor against its header (R336). -/
def State.collPayload (s : State) (h : Word512) (payload : List Byte) : Nat :=
  let c := collOf 0 payload
  let d := leAt payload 0 64
  let n := (s.group (fld h 271 256)).size
  let r := c.resultSize n
  let out := fun x => x < 1024 || 0x1000000 < x
  if hPayloadBytes h < 64 then 6
  else if bits d 329 0 ≠ 0 ∨ ((c.op = 0 ∨ c.op = 2) ∧ c.root ≠ 0) then 3
  else if out c.operandBytes ∨ out r ∨ n ≤ c.root then 0xC
  else if c.operandAddr % 64 ≠ 0 ∨ c.resultAddr % 64 ≠ 0 ∨ c.operandBytes % 64 ≠ 0 then 8
  else if hPayloadBytes h ≠ (if c.operandAddr = 0 then 64 + c.operandBytes else 64) then 6
  else if !c.formatsOk then 9
  else if fld h 303 272 ≠ (if c.resultAddr = 0 then r else 0) then 0xC
  else 0

/-- Check 9 (R79, R87, R356). -/
def State.checkPayload (s : State) (k : Cmd) (ly : Option Layer) : Nat :=
  let h := k.header
  let op := hOp h
  if op = 2 then (match ly with
    | some l => dispatchPayload k (if hLogits h then l.e else l.d)
    | none => 0)
  else if op = 7 then s.collPayload h k.payload
  else if op = 8 then (match ly, s.ctx k.ctx with
    | some l, some c =>
      if hPayloadBytes h ≠ 2 * l.e then 6 else if !stepAbove (fld h 311 280) c.step then 0x13 else 0
    | _, _ => 0)
  else 0

/-- Check 10: the deadline of a DISPATCH under MaxFallback 3 (R452, R453). -/
def State.checkDeadline (s : State) (k : Cmd) (ly : Option Layer) (tick : Nat) : Nat :=
  let h := k.header
  match ly, s.ctx k.ctx with
  | some l, some c =>
    if hOp h = 2 ∧ hDeadlineEnable h ∧ hMaxFallback h = 3 ∧
        ((List.range 3).filter (levelAllowed 3 l.fallbackK)).all (fun v => tickReached (tickAdd tick (c.est v)) (hDeadline h)) then 0xF else 0
  | _, _ => 0

/-! ## The start of a command -/

/-- An operand or data payload shorter than the command needs is followed by undefined bytes (log entry 46). -/
def State.padPayload (s : State) (uid n : Nat) : State :=
  match s.cmd uid with
  | none => s
  | some k =>
    if n ≤ k.payload.length then s
    else
      let d := s.drawBytes (n - k.payload.length)
      d.2.modCmd uid fun k => { k with payload := k.payload ++ d.1 }

/-- A TALLY command executes (R323, R326, R328, R330). -/
def State.startTally (s : State) (uid : Nat) (k : Cmd) : State :=
  let op := fld k.header 258 256
  let t := fld k.header 275 259
  let v := fld k.header 323 276
  if op = 1 then (s.tallySet t v).makeReady uid 0
  else
    let s := s.tallyCheck t
    if s.tallyBad.contains t then s.makeReady uid 0x18
    else if op = 0 then (s.setResult uid (leBytes 8 (s.tally t))).makeReady uid 0
    else if op = 2 then (s.tallyAdd t v).makeReady uid 0
    else if s.tallyMeets t v then s.makeReady uid 0
    else s.makeWait { tally := t, thresh := v, who := .command uid }

/-- PARK: the tolerance set, an idle resident context swapped out (R451). -/
def State.park (s : State) (uid : Nat) (k : Cmd) : State :=
  let s := s.modCtx k.ctx fun c => { c with wakeTol := fld k.header 287 256 }
  let busy := s.cmds.any fun p => p.2.ctx == k.ctx && !p.2.ready && (hOp p.2.header == 1 || hOp p.2.header == 2)
  let s := match s.ctx k.ctx with
    | some c => if !busy ∧ c.residency = 1 ∧ c.state = 1 then s.swapOut k.ctx else s
    | none => s
  s.makeReady uid 0

/-- CANCEL takes effect: the heat advances, the context's earlier DISPATCHes and RUNs end CANCELLED (R52, R95, R97). -/
def State.cancel (s : State) (uid : Nat) (k : Cmd) : State :=
  let s := s.modCtx k.ctx fun c => { c with heat := (c.heat + 1) % 2 ^ 16 }
  let s := match s.ctx k.ctx with
    | some c => s.modCmd uid fun k => { k with heat := c.heat }
    | none => s
  let marked := (s.cmds.filter fun p => p.2.ctx == k.ctx && !p.2.ready && p.1 < uid && (hOp p.2.header == 1 || hOp p.2.header == 2)).map (·.1)
  (marked.foldl (fun s u => s.endCommand u 1 1) s).releaseFences k.ring

/-- An admitted command goes to its unit (R78). DICT is taken up by the dictionary. -/
def State.startCommand (s : State) (uid : Nat) : State :=
  match s.cmd uid with
  | none => s
  | some k =>
    let op := hOp k.header
    if op = 1 ∨ op = 2 then s.offerWork k.ctx
    else if op = 3 then s.startCopy uid
    else if op = 4 then s.releaseFences k.ring
    else if op = 5 then s.cancel uid k
    else if op = 6 then s.startTally uid k
    else if op = 7 then s.startColl uid
    else if op = 8 then s.biasSet uid
    else if op = 0xA then s.park uid k
    else if op = 0x10 then s.startXfer uid
    else if op = 0x11 then (s.padPayload uid (hLength k.header)).startXfer uid
    else if op = 0x12 then
      (s.padPayload uid (if hAtomicOp k.header = 0 then 0 else if hAtomicOp k.header = 15 then 4 else hLength k.header)).startXfer uid
    else s

/-- A command refused at admission: ready at once, without results (R79). -/
def State.refuseCmd (s : State) (uid st : Nat) : State :=
  (s.modCmd uid fun k => { k with denied := true, admitting := false, resultBytes := 0 }).makeReady uid st

/-- Checks 8 to 10 of a command that has passed checks 1 to 7; a DISPATCH waits in check 8 for its layer's keys (R79, R104). -/
def State.admitRest (s : State) (uid : Nat) : State :=
  match s.cmd uid with
  | none => s
  | some k =>
    if k.ready ∨ k.marked ≠ 0 then s
    else
      let c8 := s.checkPlan k.host k.header
      let isDispatch := hOp k.header == 2
      if c8.1 ≠ 0 then s.refuseCmd uid c8.1
      else if isDispatch ∧ !(s.layerState (hPlan k.header) (hLayer k.header)).usable then s.modCmd uid fun k => { k with admitting := true }
      else if isDispatch && c8.2.any (s.blockTooBig k.host k.header) then s.refuseCmd uid 0xC
      else
        let c9 := s.checkPayload k c8.2
        let c10 := if c9 = 0 then s.checkDeadline k c8.2 s.tick else c9
        if c10 ≠ 0 then s.refuseCmd uid c10
        else ((s.modCmd uid fun k => { k with admitting := false, admitTick := s.tick }).trace 0 1 k.ctx k.heat (hCommandId k.header)
          (hOp k.header)).startCommand uid

/-- The DISPATCHes that wait for a plan's keys are checked again (R104). -/
def State.admitWaiting (s : State) (plan : Nat) : State :=
  ((s.cmds.filter fun p => p.2.admitting && hPlan p.2.header == plan).map (·.1)).foldl (fun s u => s.admitRest u) s

/-- A fetched command with the response status of its slots takes its place in the reorder buffer, its completion space and its admission checks (R76, R79, R91; log entry 47 for slots that were refused or poisoned). -/
def State.takeCommand (s : State) (i host : Nat) (h : Word512) (bad : Nat) (payload : List Byte) : State :=
  let first := if bad = 1 then 0x10 else if bad = 2 then 0x18 else
    (let a := s.checkFirst i h
     if a ≠ 0 then a else s.checkArgs host h)
  let rb := if first ≠ 0 then 0 else s.resultBytesOf h
  let need := complSlotsOf rb
  let r := s.ring i
  if s.complSlots i < r.unread + s.reservedSlots i + need then s.modRing i fun r => { r with complWait := true }
  else
    let uid := s.nextUid
    let k : Cmd := { ring := i, host := host, ctx := hContext h, header := h
                     payload := if first ≠ 0 then [] else slice payload 0 (hPayloadBytes h)
                     heat := match s.ctx (hContext h) with
                       | some c => c.heat
                       | none => 0
                     admitTick := s.tick, slot := (r.complTail + s.reservedSlots i) % 2 ^ 32, resultBytes := rb }
    let s := { s with cmds := Tab.put s.cmds uid k, nextUid := uid + 1 }
    let s := s.modRing i fun r => { r with
      submitHead := (r.submitHead + 1 + ceilDiv (hPayloadBytes h) 64) % 2 ^ 32, rob := r.rob ++ [uid], complWait := false }
    if first ≠ 0 then s.refuseCmd uid first else s.admitRest uid

/-- A command with its header known reaches CMD from a ring, once its slots are all written; one larger than the ring overruns it (R73, R74). -/
def State.fetchHeader (s : State) (i : Nat) (h : Word512) (bad : Nat) (payload : State → Nat × List Byte × State) : State :=
  let need := 1 + ceilDiv (hPayloadBytes h) 64
  match s.ringHost i with
  | none => s
  | some host =>
    if s.submitSlots i < need then s.overrun i
    else if (s.ring i).written < need then s
    else
      let p := if bad ≠ 0 ∨ 0x400000 < hPayloadBytes h then (0, [], s) else payload s
      p.2.2.takeCommand i host h (worse bad p.1) p.2.1

/-- CMD fetches the next command of a ring from its memory (R72, R75). -/
def State.fetchNext (s : State) (i : Nat) : State :=
  if s.fetches i then
    match s.ringHost i with
    | none => s
    | some host =>
      let base := s.rd Reg.submitBase i
      let size := s.submitSlots i
      let r := s.ringRead host base size 64 (s.ring i).submitHead 64
      let l := if r.1 = 1 then (r.2.2.drawBytes 64).1 else r.2.1
      let s := if r.1 = 1 then (r.2.2.drawBytes 64).2 else r.2.2
      -- a refused read gives no header: one slot is taken, and the record echoes undefined bytes
      let h : Word512 := BitVec.ofNat 512 (if r.1 = 1 then leNat l / 2 ^ 96 * 2 ^ 96 + leNat l % 2 ^ 64 else leNat l)
      s.fetchHeader i h r.1 fun s => s.ringRead host base size 64 ((s.ring i).submitHead + 1) (hPayloadBytes h)
  else s

/-- The command of a row: its ring may be fetched from, and its slots hold this header and payload. -/
def State.submitted (s : State) (i : Nat) (h : Word512) (payload : List Byte) : State :=
  if s.fetches i then s.fetchHeader i h 0 fun s => (0, payload, s) else s

/-- A header with a field of a row's own value. -/
def withField (h : Word512) (hi lo v : Nat) : Word512 :=
  BitVec.ofNat 512 (h.toNat - bits h.toNat hi lo * 2 ^ lo + v * 2 ^ lo)

def withOp (h : Word512) (op : Nat) : Word512 := withField h 7 0 op

/-- A COLL payload with its CollOp: bits [343:340] of the descriptor, the high half of byte 42. -/
def withCollOp (l : List Byte) (op : Nat) : List Byte :=
  match l[42]? with
  | none => l
  | some b => l.set 42 (BitVec.ofNat 8 (b.toNat % 16 + 16 * op))

/-! ## Posting (R88, R89, R82, R94) -/

/-- The completion record (R88). -/
def Cmd.record (k : Cmd) (phase : Nat) : Nat :=
  let dispatch := hOp k.header == 2
  let fields : List (Nat × Nat) :=
    [(255, phase), (208, if dispatch then min k.skips 0xFFFF else 0), (192, if dispatch then min k.skims 0xFFFF else 0), (176, k.heat)] ++
    [(128, k.readyTick), (112, if dispatch then k.modes else k.modes &&& 2 ^ 9), (96, min k.numExc 0xFFFF), (64, k.resultNow)] ++
    [(32, hCommandId k.header), (16, k.ctx), (8, k.status), (0, hOp k.header)]
  fields.foldl (fun n f => n + f.2 * 2 ^ f.1) 0

/-- The result payload written at the tail: all of it where the command has not written it there already, padded with zeros (R88, R89). -/
def State.writeResults (s : State) (k : Cmd) : Nat × State :=
  let n := k.resultNow
  if n = 0 then (0, s)
  else
    let listed := k.result.filter fun p => p.1 < n
    let pads := (List.range (roundUp n 32 - n)).map fun j => (n + j, (0 : Byte))
    let whole := (List.range n).all fun j => (Tab.find k.result j).isSome
    if whole then s.writeResult k 0 ((List.range n).map (fun j => Tab.get 0 k.result j) ++ pads.map (·.2))
    else (listed ++ pads).foldl (fun a p =>
      let r := a.2.writeResult k p.1 [p.2]
      (worse a.1 r.1, r.2)) (0, s)

/-- What follows a record: DoneTally, the notification, and the ring's end (R70, R79, R82, R94, R331; log entry 48). -/
def State.afterPost (s : State) (i : Nat) (k : Cmd) : State :=
  let h := k.header
  let s := if hDoneTallyEnable h && !k.denied && !isRefusal k.status && s.tallyOwned k.host (hDoneTally h) then s.tallyAdd (hDoneTally h) 1 else s
  let s := if hNotify h then
      (s.hostWrite k.host (s.rd Reg.notifyAddr i) (leBytes 8 (hCommandId h * 2 ^ 32 + i / 64 * 2 ^ 6 + i % 64))).2
    else s
  s.ringDrained i

/-- The oldest command of a ring posts once it is ready: payload, record, CompletionTail (R89, R91). -/
def State.postNext (s : State) (i : Nat) : State :=
  match (s.ring i).rob with
  | [] => s
  | u :: rest =>
    match s.cmd u with
    | none => s
    | some k =>
      if !k.ready ∨ !s.works 0 ∨ (s.ring i).state = 3 then s
      else
        let tail := (s.ring i).complTail
        let moved := k.slot != tail || !(hOp k.header == 1 || hOp k.header == 2)
        let k := { k with slot := tail }
        let w := if moved then s.writeResults k else (0, s)
        let s := w.2
        let k := if w.1 = 0 then k else { k with status := if w.1 = 1 then 0x10 else 0x18 }
        let size := s.complSlots i
        let rec_ := k.record (1 - tail / size % 2)
        let s := (s.hostWrite k.host (s.rd Reg.completionBase i + tail % size * 32) (leBytes 32 rec_)).2
        let s := { s with cmds := Tab.drop s.cmds u }
        let s := s.modRing i fun r => { r with rob := rest, complTail := (tail + complSlotsOf k.resultNow) % 2 ^ 32 }
        ((s.inc Reg.completionsPosted i 1).trace 0 2 k.ctx k.heat (hCommandId k.header) k.status).afterPost i k

end Sys2Proof.Machine
end

