-- ==== Sys2Proof/Machine/Plans.lean ====
section
/-! DEFINITION. The load and unload of pour plans, with every check of R171, and the key load (R100 to R105, R133, R134, R163 to R173, R190, R274 to R276, R294). -/

set_option Elab.async false

set_option linter.unusedVariables false

namespace Sys2Proof.Machine

/-! ## The plan image (R165 to R170, R274) -/

/-- A section of an image: byte offset and entry count of entry k of the directory (R166). -/
def sectionAt (img : List Byte) (k : Nat) : Nat × Nat :=
  let d := leAt img (64 + 8 * k) 8
  (bits d 63 32, bits d 31 0)

/-- Entry size of each section (R166). -/
def sectionEntry (k : Nat) : Nat := ([256, 4, 16, 16, 8, 8, 16, 32, 16] : List Nat).getD k 16

/-- The entries of a section as numbers, those that the image holds. -/
def entriesOf (img : List Byte) (k : Nat) : List Nat :=
  let s := sectionAt img k
  let z := sectionEntry k
  (List.range (min s.2 ((img.length - s.1) / z))).map fun i => leAt img (s.1 + i * z) z

/-- A layer of the layer table: its score, selection and pour descriptors (R100, R133, R167). -/
def layerOf (x : Nat) : Layer :=
  let d := bits x 511 0
  let e := bits x 1023 512
  let p := bits x 1535 1024
  { keySource := bits d 511 448, scoreScale := bits d 447 416, e := bits d 415 400 + 1, g := bits d 399 392 + 1, kg := bits d 391 387
    d := bits d 386 376, keyFmt := bits d 375 372, affinity := bits d 371 370, twoStage := bit d 369, earlyAllowed := bit d 368
    streamed := bit d 367, slot := bits d 363 362, slotOff := bits d 361 344
    skipThreshold := bits e 511 480, routedScale := bits e 479 448, borrowLimit := bits e 447 432, gl := bits e 431 424 + 1
    kl := bits e 423 419, limitScore := bit e 418, groupLimited := bit e 417, borrow := bit e 416, skipEnable := bit e 415
    normalize := bit e 414, sharedCount := bits e 413 411, fallbackK := bits e 410 406, topK := bits e 405 401
    dispatchPour := bits p 511 496, returnPour := bits p 495 480, expertBase := bits p 479 456, hiddenDim := bits p 455 440
    hiddenFmt := bits p 439 436, answerFmt := bits p 435 432, copyStride := (bits p 431 423 + 1) * 64, splitMin := bits p 422 410
    rsvd := bits d 366 364 + bits d 343 0 + bits e 400 0 + bits p 409 0 + bits x 2047 1536 }

def replicaOf (x : Nat) : Replica :=
  { node := bits x 127 108, domain := bits x 107 100, quota := bits x 99 88, pool := bits x 87 76, flask := bits x 75 60
    regionWord := bits x 59 30, poolWord := bits x 29 0 }

def destOf (x : Nat) : Dest :=
  { node := bits x 127 108, window := bits x 107 92, runners := bits x 91 89 + 1, firstRunner := bits x 88 68, rsvd := bits x 67 0 }

def runnerOf (x : Nat) : Runner := { port := bits x 63 58, path := bits x 57 42, bucket := bits x 41 30 }

def hostedOf (x : Nat) : Hosted :=
  { expert := bits x 255 240, layer := bits x 239 232, drag := bit x 231, inHbm := bit x 230, hbmWindow := bits x 229 214
    baseWord := bits x 213 184, capacity := bits x 183 171, pool := bits x 170 159, stride := (bits x 158 150 + 1) * 64
    sourceList := bits x 149 126, answerWindow := bits x 125 110, answerWord := bits x 109 80, answerStride := (bits x 79 71 + 1) * 64
    returnTally := bits x 70 54, rsvd := bits x 53 0 }

def sourceOf (x : Nat) : Source := { node := bits x 127 108, firstSlot := bits x 107 96, slots := bits x 95 84, rsvd := bits x 83 0 }

/-- The source list whose head is entry i of section 8 (R274). -/
def sourceListAt (es : List Nat) (i : Nat) : SourceList :=
  let h := es.getD i 0
  { tiled := bit h 115, tagWord := bits h 114 85, rsvd := bits h 84 0, sources := ((es.drop (i + 1)).take (bits h 127 116 + 1)).map sourceOf }

/-- The plan that an image spells, for host h, at a place of the plan cache. -/
def planImage (img : List Byte) (h base : Nat) : Plan :=
  let hd := leAt img 0 64
  let flasks := (entriesOf img 7).map hostedOf
  let lists := entriesOf img 8
  { host := h, state := 2, bytes := img.length, base := base, crc := bits hd 511 480, stamp := bits hd 383 352, window := bits hd 403 388
    layers := (entriesOf img 0).map layerOf, experts := (entriesOf img 1).map fun x => (bits x 31 28, bits x 23 0)
    replicas := (entriesOf img 2).map replicaOf, dests := (entriesOf img 3).map destOf, runners := (entriesOf img 4).map runnerOf
    buckets := (entriesOf img 5).map fun x => bits x 63 32, budgets := (entriesOf img 6).map fun x => (bits x 127 96, bits x 95 64)
    flasks := flasks
    sources := flasks.foldl (fun t f => Tab.put t f.sourceList (sourceListAt lists f.sourceList)) [] }

/-! ## Checks 0x10 to 0x17 (R171) -/

/-- CRC-32C of an image with its 4-byte field at byte 60 zero. -/
def imageCrc (img : List Byte) : Nat := crc32c (img.take 60 ++ List.replicate 4 0 ++ img.drop 64)

/-- Check 0x14: the rsvd fields of header, directory and sections, with those of the source lists in use. -/
def planRsvd (img : List Byte) (p : Plan) : Bool :=
  let hd := leAt img 0 64
  bits hd 387 384 == 0 && bits hd 351 0 == 0 && ((List.range 7).all fun k => leAt img (64 + 8 * (9 + k)) 8 == 0) &&
    (p.layers.all fun l => l.rsvd == 0) && ((entriesOf img 1).all fun x => bits x 27 24 == 0) && (p.dests.all fun d => d.rsvd == 0) &&
    ((entriesOf img 4).all fun x => bits x 29 0 == 0) && ((entriesOf img 5).all fun x => bits x 31 0 == 0) &&
    ((entriesOf img 6).all fun x => bits x 63 0 == 0) && (p.flasks.all fun f => f.rsvd == 0) &&
    (p.sources.all fun l => l.2.rsvd == 0 && l.2.sources.all fun s => s.rsvd == 0)

/-- Check 0x15: sections inside the image, apart, within their limits, and every index in range. -/
def planSections (img : List Byte) (p : Plan) : Bool :=
  let hd := leAt img 0 64
  let secs := (List.range 9).map fun k => ((sectionAt img k).1, (sectionAt img k).2 * sectionEntry k)
  let used := secs.filter fun x => x.2 != 0
  let counts := (List.range 9).map fun k => (sectionAt img k).2
  let heads := entriesOf img 8
  (used.all fun x => x.1 % 64 == 0 && decide (192 ≤ x.1) && decide (x.1 + x.2 ≤ img.length)) &&
    (used.zipIdx.all fun x => used.zipIdx.all fun y => x.2 == y.2 || !rangesMeet x.1.1 x.1.2 y.1.1 y.1.2) &&
    counts.getD 0 0 == bits hd 411 404 + 1 && decide (counts.getD 1 0 ≤ 16777216) && decide (counts.getD 2 0 ≤ 16777216) &&
    decide (counts.getD 3 0 ≤ 8192) && decide (counts.getD 4 0 ≤ 2097152) && decide (counts.getD 5 0 ≤ 4095) &&
    counts.getD 6 0 == 48 && decide (counts.getD 7 0 ≤ 65536) &&
    (p.layers.all fun l => decide (l.expertBase + l.e ≤ p.experts.length)) &&
    (p.experts.all fun x => decide (x.2 + x.1 ≤ p.replicas.length)) &&
    (p.dests.all fun d => decide (d.firstRunner + d.runners ≤ p.runners.length)) &&
    (p.runners.all fun r => r.bucket == 0xFFF || decide (r.bucket < p.buckets.length)) &&
    (p.flasks.all fun f => (match p.layers[f.layer]? with
      | some l => decide (f.expert < l.e)
      | none => false) && decide (f.sourceList < heads.length) &&
      decide (f.sourceList + 1 + bits (heads.getD f.sourceList 0) 127 116 < heads.length))

/-- Check 0x16: node ids assignable, destinations unique and complete (R169). -/
def planNodes (p : Plan) : Bool :=
  let dests := p.dests.map (·.node)
  dests.all assignable && dests.eraseDups.length == dests.length &&
    (p.replicas.all fun r => assignable r.node && dests.contains r.node) &&
    (p.sources.all fun l => l.2.sources.all fun s => assignable s.node && dests.contains s.node)

/-- Check 0x17. -/
def State.planPorts (s : State) (p : Plan) : Bool :=
  (p.runners.all fun r => decide (r.port < s.variant.ports)) &&
    ((p.budgets.drop s.variant.ports).all fun b => b.1 == 0 && b.2 == 0)

/-! ## Checks 0x18 to 0x1C -/

/-- Check 0x18 (R190). -/
def State.planRatesOk (s : State) (p : Plan) : Bool :=
  (List.range s.variant.ports).all fun q => decide (s.committed q + (p.portRates q).1 + (p.portRates q).2 ≤ s.portRate q)

/-- The pour numbers of a plan. -/
def Plan.pourNumbers (p : Plan) : List Nat := p.layers.flatMap fun l =>
  if l.splitMin = 0 then [l.dispatchPour, l.returnPour] else [l.dispatchPour, l.dispatchPour + 1, l.returnPour, l.returnPour + 1]

/-- Check 0x19. -/
def State.planPours (s : State) (h : Nat) (p : Plan) : Bool :=
  let mine := p.pourNumbers
  mine.eraseDups.length == mine.length &&
    s.plans.all fun q => q.2.host != h || q.2.state == 1 || q.2.pourNumbers.all fun n => !mine.contains n

def f32Positive (c : Nat) : Bool := f32Finite c && !bit c 31 && bits c 30 0 != 0

/-- The formats of router keys (R6, R42). -/
def State.keyFormatOk (s : State) (f : Nat) : Bool :=
  [1, 3, 4, 8].contains f || (s.variant.score46 && [5, 6, 7, 9, 10].contains f)

/-- R102 for one layer. -/
def State.scoreLimits (s : State) (l : Layer) : Bool :=
  decide (32 ≤ l.d) && decide (l.d ≤ 1024) && l.d % 32 == 0 && f32Positive l.scoreScale && l.affinity != 3 && l.slot != 3 &&
    s.keyFormatOk l.keyFmt &&
    (if l.twoStage then decide (l.e ≤ 65536) && decide (l.g ≤ 256) && l.e % l.g == 0 && decide (1 ≤ l.kg) && decide (l.kg ≤ 16) &&
        decide (l.kg ≤ l.g) && decide (l.kg * (l.e / l.g) ≤ 2048)
      else decide (l.e ≤ 16384) && l.kg == 0 && l.g == 1)

/-- R134 for one layer. -/
def selectLimits (l : Layer) : Bool :=
  decide (1 ≤ l.topK) && decide (l.topK ≤ 16) && decide (l.sharedCount ≤ 4) && (l.fallbackK == 0 || decide (l.fallbackK < l.topK)) &&
    f32Finite l.skipThreshold && f32Positive l.routedScale && !(l.groupLimited && l.twoStage) &&
    (if l.groupLimited then l.e % l.gl == 0 && decide (1 ≤ l.kl) && decide (l.kl ≤ 16) && decide (l.kl ≤ l.gl) && decide (l.topK ≤ l.kl * (l.e / l.gl))
      else l.gl == 1 && l.kl == 0 && !l.limitScore) &&
    !(l.normalize && l.affinity == 2) && (!l.twoStage || decide (l.topK ≤ l.kg * (l.e / l.g))) && (l.borrow || l.borrowLimit == 0)

/-- The bytes of a layer's region of the gate store (R101). -/
def Layer.regionBytes (l : Layer) : Nat :=
  if l.streamed then 64 * l.e + (if l.twoStage then ceilDiv (4 * l.g) 64 * 64 else 0)
  else ((if l.twoStage then l.g else 0) + l.e) * keyVecBytes l.keyFmt l.d + 64 * l.e

/-- The first byte of a layer's region: its slot is 16 MiB. -/
def Layer.regionBase (l : Layer) : Nat := l.slot * 2 ^ 24 + l.slotOff * 64

/-- The regions of every loaded layer. -/
def State.gateUsed (s : State) : List (Nat × Nat) :=
  s.plans.flatMap fun q => if q.2.state = 1 then [] else q.2.layers.map fun l => (l.regionBase, l.regionBytes)

/-- R101 for the layers of a plan. -/
def State.regionsOk (s : State) (h : Nat) (p : Plan) : Bool :=
  let rs := p.layers.map fun l => (l.regionBase, l.regionBytes)
  (p.layers.all fun l => decide (l.slotOff * 64 + l.regionBytes ≤ 2 ^ 24) && inWays (s.rd Reg.gateWays h) (2 ^ 20) l.regionBase l.regionBytes) &&
    (rs.all fun r => s.gateUsed.all fun u => !rangesMeet r.1 r.2 u.1 u.2) &&
    (rs.zipIdx.all fun x => rs.zipIdx.all fun y => x.2 == y.2 || !rangesMeet x.1.1 x.1.2 y.1.1 y.1.2)

/-- Check 0x1A. Without the SCU no region is used and no key source read (R3; log entry 49). -/
def State.planScores (s : State) (h : Nat) (p : Plan) : Bool :=
  (p.layers.all fun l => s.scoreLimits l && selectLimits l && (!s.variant.scu || l.keySource % 64 == 0)) && (!s.variant.scu || s.regionsOk h p)

/-- Check 0x1B for one layer. -/
def pourLimits (p : Plan) (l : Layer) : Bool :=
  l.hiddenDim != 0 && decide (l.hiddenFmt ≤ 14) && (!isMx l.hiddenFmt || l.hiddenDim % 32 == 0) &&
    decide (vecPadded l.hiddenFmt l.hiddenDim ≤ l.copyStride) && decide (l.answerFmt ≤ 2) && l.splitMin != 1 &&
    ((p.experts.drop l.expertBase).take l.e).all fun x => decide (1 ≤ x.1) && decide (x.1 ≤ 8)

/-! ## Check 0x1D (R276, R294) -/

/-- Whether flask f is the cope flask of a pair. -/
def Plan.paired (p : Plan) (f : Nat) : Bool := match p.flasks[f + 1]? with
  | some h => h.drag
  | none => false

/-- The conditions of R276 on a flask and its list that name no store. -/
def Plan.flaskShape (p : Plan) (f : Nat) (h : Hosted) : Bool :=
  let l := p.listOf h
  let m := if h.drag || p.paired f then 2 else 1
  let regions := l.sources.map fun s => (s.firstSlot, m * s.slots)
  let nodes := l.sources.map (·.node)
  (match p.layers[h.layer]? with
    | some ly => ly.copyStride == h.stride
    | none => false) &&
    h.capacity == m * (l.sources.map (·.slots)).foldl (· + ·) 0 + h.pool && decide (1 ≤ h.capacity) && decide (h.capacity ≤ 4096) &&
    (regions.all fun r => decide (r.1 + r.2 ≤ h.capacity - h.pool)) &&
    (regions.zipIdx.all fun x => regions.zipIdx.all fun y => x.2 == y.2 || !rangesMeet x.1.1 x.1.2 y.1.1 y.1.2) &&
    nodes.all assignable && nodes.eraseDups.length == nodes.length &&
    (!(h.drag || p.paired f) || h.pool == 0) &&
    (!h.drag || (match f with
      | 0 => false
      | n + 1 => match p.flasks[n]? with
        | some q => !q.drag && q.expert == h.expert && q.layer == h.layer && q.baseWord == h.baseWord && q.capacity == h.capacity &&
            q.stride == h.stride && q.sourceList == h.sourceList
        | none => false)) &&
    (!l.tiled || (h.stride % 128 == 0 && h.pool % 16 == 0 && l.sources.all fun s => s.firstSlot % 16 == 0 && s.slots % 16 == 0))

/-- An area of a flask: in the landing store, or at an on-chip address; first byte and bytes. -/
structure Area where
  landing : Bool
  base : Nat
  bytes : Nat
deriving DecidableEq, Repr

def Area.meets (a b : Area) : Bool := a.landing == b.landing && rangesMeet a.base a.bytes b.base b.bytes

/-- The slots of a flask, its tag side queue and its answer area (R276, R294); none where a window is not the host's or too small. -/
def State.flaskAreas (s : State) (p : Plan) (h : Hosted) : Option (Area × Area × Area) :=
  let slots : Option Area :=
    if h.inHbm then
      if h.baseWord < 0x100000 then none
      else match s.hostWindow p.host h.hbmWindow with
        | some w => if h.areaBytes ≤ s.rd Reg.winLength w ∧ s.rd Reg.winKind w ≠ 1 then some ⟨false, s.rd Reg.winTarget w, h.areaBytes⟩ else none
        | none => none
    else if h.baseWord * 64 + h.areaBytes ≤ 2 ^ 26 then some ⟨true, h.baseWord * 64, h.areaBytes⟩ else none
  let answers := match s.hostWindow p.host h.answerWindow with
    | some w =>
      if h.answerWord * 64 + h.capacity * h.answerStride ≤ s.rd Reg.winLength w ∧ s.rd Reg.winKind w ≠ 1 then
        some (⟨false, s.rd Reg.winTarget w + h.answerWord * 64, h.capacity * h.answerStride⟩ : Area)
      else none
    | none => none
  match slots, answers with
  | some a, some b => some (a, ⟨true, p.tagWord h * 64, roundUp (8 * h.capacity) 64⟩, b)
  | _, _ => none

/-- The areas of every flask of a plan; a drag flask's slots are its partner's. -/
def State.planAreas (s : State) (p : Plan) : List Area :=
  p.flasks.flatMap fun h => match s.flaskAreas p h with
    | some (a, b, c) => if h.drag then [b, c] else [a, b, c]
    | none => []

/-- The most entries a pour's group table can hold (R276). -/
def Plan.tableEntries (p : Plan) (layer : Nat) (drag : Bool) : Nat :=
  ((p.pourFlasks layer drag).map fun f => ceilDiv (f.2.capacity - f.2.pool) 2 + ceilDiv f.2.pool 2).foldl (· + ·) 0

/-- Check 0x1D: R276 and R294 over every hosted flask. -/
def State.planFlasks (s : State) (h : Nat) (p : Plan) : Bool :=
  let areas := s.planAreas p
  let others := s.plans.flatMap fun q => if q.2.state = 1 then [] else s.planAreas q.2
  p.flasks.isEmpty ||
    ((p.flasks.zipIdx.all fun f => p.flaskShape f.2 f.1 && s.tallyOwned h f.1.returnTally && (match s.flaskAreas p f.1 with
        | some (a, b, _) => (!a.landing || inWays (s.rd Reg.landingWays h) (2 ^ 20) a.base a.bytes) &&
            decide (b.base + b.bytes ≤ 2 ^ 26) && inWays (s.rd Reg.landingWays h) (2 ^ 20) b.base b.bytes
        | none => false)) &&
      (areas.zipIdx.all fun x => areas.zipIdx.all fun y => x.2 == y.2 || !x.1.meets y.1) && (areas.all fun a => others.all fun b => !a.meets b) &&
      s.rd Reg.landingWindowId h != 0 &&
      (List.range p.layers.length).all fun l => [false, true].all fun d =>
        decide (128 + 32 * p.tableEntries l d ≤ 2 ^ s.rd Reg.groupRingBytesLog2 h) && decide (p.tableEntries l d ≤ 65535))

/-! ## The load (R163, R164, R171) -/

/-- The ranges of the plan cache that images hold. -/
def State.cacheUsed_ (s : State) : List (Nat × Nat) :=
  (s.plans.filterMap fun q => if q.2.state = 1 then none else some (q.2.base, q.2.bytes)) ++
    (s.patterns.filterMap fun q => if q.2.state = 1 then none else some (q.2.base, q.2.bytes))

/-- The free place of an image in host h's plan-cache ways (R427). -/
def State.cachePlace (s : State) (h n : Nat) : Option Nat := firstFit (s.rd Reg.planCacheWays h) (2 ^ 18) 32 64 n s.cacheUsed_

/-- The place a loading plan holds in the file. -/
def emptyPlan (h : Nat) : Plan :=
  { host := h, state := 1, bytes := 0, base := 0, crc := 0, stamp := 0, window := 0, layers := [], experts := [], replicas := [], dests := []
    runners := [], buckets := [], budgets := [], flasks := [], sources := [] }

/-- PlanLoadGo, once accepted (R163). -/
def State.planLoadGo (s : State) (h id : Nat) : State :=
  let s := { s with planLoads := Tab.put s.planLoads h { planId := id, stage := 1 } }.wr Reg.planLoadStatus h 1
  match s.plan id with
  | some _ => s
  | none => { s with plans := Tab.put s.plans id (emptyPlan h) }

/-- A load refused with a code; the place it took is freed (R164). -/
def State.planRefuse (s : State) (h id code : Nat) : State :=
  let mine := match s.plan id with
    | some p => p.state == 1 && p.host == h
    | none => false
  let s := { s with planLoads := Tab.drop s.planLoads h }
  (if mine then { s with plans := Tab.drop s.plans id }.endSubs planFamilies id else s).wr Reg.planLoadStatus h code

/-- The first failing check of R171 but 0x1E and 0x1F, 0 when all pass. -/
def State.planCheck (s : State) (h id : Nat) (img : List Byte) : Nat × Option Plan :=
  let hd := leAt img 0 64
  let p0 := planImage img h 0
  let loading := s.planLoads.any fun l => l.1 != h && l.2.planId == id
  let taken := match s.plan id with
    | some q => q.state != 1 || q.host != h || loading
    | none => true
  if img.length < 192 ∨ bits hd 479 448 ≠ img.length ∨ img.length % 64 ≠ 0 ∨ 0x800000 < img.length ∨ imageCrc img ≠ bits hd 511 480 then (0x10, none)
  else if bits hd 415 412 ≠ h ∨ bits hd 431 416 ≠ 1 ∨ bits hd 447 432 ≠ id ∨ bits hd 403 388 = 0 then (0x11, none)
  else if taken then (0x12, none)
  else match s.cachePlace h img.length with
    | none => (0x13, none)
    | some base =>
      let p := { p0 with base := base }
      if !planRsvd img p then (0x14, none)
      else if !planSections img p then (0x15, none)
      else if !planNodes p then (0x16, none)
      else if !s.planPorts p then (0x17, none)
      else if !s.planRatesOk p then (0x18, none)
      else if !s.planPours h p then (0x19, none)
      else if !s.planScores h p then (0x1A, none)
      else if !(p.layers.all (pourLimits p)) then (0x1B, none)
      else if p.layers.any fun l => l.splitMin != 0 && l.borrow then (0x1C, none)
      else if !s.planFlasks h p then (0x1D, none)
      else (0, some p)

/-- What the engine keeps of a plan beside its descriptors, begun anew or dropped: layers, masks, uses, buckets (R157, R290, R349). -/
def State.clearPlan (s : State) (id : Nat) : State :=
  { s with
    layerStates := Tab.clearRange s.layerStates (id * 256) 256, masks := Tab.drop s.masks id
    useNumbers := Tab.clearRange s.useNumbers (id * 2 ^ 16) (2 ^ 16), pourUses := Tab.clearRange s.pourUses (id * 2 ^ 16) (2 ^ 16)
    flasks := Tab.clearRange s.flasks (id * 2 ^ 16) (2 ^ 16), pathBuckets := Tab.clearRange s.pathBuckets (id * 2 ^ 12) (2 ^ 12)
    planBuckets := s.planBuckets.filter fun b => b.1 % 2 ^ 32 / 2 ^ 8 != id }

/-- The plan image has been read: the plan is resident and its keys load, or it is refused (R164, R171). -/
def State.planRead (s : State) (h : Nat) : State :=
  match Tab.find s.planLoads h with
  | none => s
  | some l =>
    if l.stage ≠ 1 ∨ !s.works 1 then s
    else
      let r := s.hostRead h (s.rd Reg.planLoadAddr h) (s.rd Reg.planLoadBytes h)
      let s := r.2.2
      if r.1 ≠ 0 then s.planRefuse h l.planId 0x1F
      else
        match s.planCheck h l.planId r.2.1 with
        | (code, none) => s.planRefuse h l.planId code
        | (_, some p) =>
          let s := s.clearPlan l.planId
          let s := { s with plans := Tab.put s.plans l.planId p, planCache := Tab.writeBytes 0 s.planCache p.base r.2.1
                            planLoads := Tab.put s.planLoads h { l with stage := 2 } }
          let s := s.storeWrite planCacheNo p.base p.bytes
          p.layers.zipIdx.foldl (fun s x => s.modLayer l.planId x.2 fun ls => { ls with regionBase := x.1.regionBase, regionBytes := x.1.regionBytes }) s

/-! ## Key load (R102 to R105) -/

/-- The norm table entry of an expert: C − 1 remainder norms, zeros, and the vector check (R103, R105). -/
def normEntry (l : Layer) (v : List Byte) : List Byte :=
  let vals := decodeVec l.keyFmt l.d v
  let depth := arrayDepth l.keyFmt
  let n := l.chunkCount - 1
  ((List.range 15).flatMap fun c => leBytes 4 (if c < n then remainderNorm vals ((c + 1) * depth) else 0)) ++ leBytes 4 (crc32c v)

/-- The bytes the key load writes from the region's first byte on (R101, R103, R105). -/
def Layer.regionImage (l : Layer) (img : List Byte) : List Byte :=
  let v := keyVecBytes l.keyFmt l.d
  let groups := if l.twoStage then l.g else 0
  let vec := fun n => slice img (n * v) v
  let norms := (List.range l.e).flatMap fun e => normEntry l (vec (groups + e))
  if l.streamed then norms ++ (if l.twoStage then slice ((List.range l.g).flatMap fun g => leBytes 4 (crc32c (vec g))) 0 (ceilDiv (4 * l.g) 64 * 64) else [])
  else img ++ norms

/-- Whether a key image holds a NaN or infinite element or MX scale (R102). -/
def Layer.keysFinite (l : Layer) (img : List Byte) : Bool :=
  let v := keyVecBytes l.keyFmt l.d
  (List.range ((if l.twoStage then l.g else 0) + l.e)).all fun n => (decodeVec l.keyFmt l.d (slice img (n * v) v)).all Val.isFinite

/-- The key image of a layer in bytes. -/
def Layer.keyBytes (l : Layer) : Nat := ((if l.twoStage then l.g else 0) + l.e) * keyVecBytes l.keyFmt l.d

/-- The read of one layer's keys: whether check 0x1E passes, the image, and the state after. -/
def State.readKeys (s : State) (h : Nat) (l : Layer) : Bool × List Byte × State :=
  let r := s.hostRead h l.keySource l.keyBytes
  (r.1 == 0 && l.keysFinite r.2.1, r.2.1, r.2.2)

/-- The keys of a layer written to its region; it is usable (R101, R104, R105). -/
def State.keysIn (s : State) (id n : Nat) (l : Layer) (img : List Byte) : State :=
  let bytes := l.regionImage img
  let s := { s with gate := Tab.writeBytes 0 s.gate l.regionBase bytes }.storeWrite gateNo l.regionBase bytes.length
  s.modLayer id n fun ls => { ls with usable := true, keyCrc := crc32c img }

/-- The key load of the next layer of host h's plan ends (R104, R164). -/
def State.keyLoad (s : State) (h : Nat) : State :=
  match Tab.find s.planLoads h with
  | none => s
  | some l =>
    match s.plan l.planId with
    | none => s
    | some p =>
      if l.stage ≠ 2 ∨ !s.works 1 then s
      else
        match p.layers[l.nextLayer]? with
        | none => s
        | some ly =>
          let r := if s.variant.scu then s.readKeys h ly else (true, [], s)
          let s := r.2.2
          if !r.1 then
            ({ s with planLoads := Tab.drop s.planLoads h, plans := Tab.put s.plans l.planId { p with state := 3 } }.wr
              Reg.planLoadStatus h 0x1E).admitWaiting l.planId
          else
            let s := if s.variant.scu then s.keysIn l.planId l.nextLayer ly r.2.1 else s.modLayer l.planId l.nextLayer fun ls => { ls with usable := true }
            let s := if l.nextLayer + 1 < p.layers.length then
                { s with planLoads := Tab.put s.planLoads h { l with nextLayer := l.nextLayer + 1 } }
              else { s with planLoads := Tab.drop s.planLoads h }.wr Reg.planLoadStatus h 2
            s.admitWaiting l.planId

/-! ## Unload (R173) -/

/-- PlanUnload once accepted: the plan unloads; a load of its keys under way is no longer possible (R173). -/
def State.planUnload (s : State) (id : Nat) : State :=
  ({ s with plans := Tab.modify s.plans id fun p => { p with state := 3 } }).admitWaiting id

/-- Whether the host holds a plan, resident or unloading. -/
def State.holdsPlan (s : State) (h id : Nat) : Bool := match s.plan id with
  | some p => p.host == h && (p.state == 2 || p.state == 3)
  | none => false

/-- An unloading plan is freed once no command in flight uses it and no flask of it is open (R173). -/
def State.planFree (s : State) (id : Nat) : State :=
  match s.plan id with
  | none => s
  | some p =>
    let used := s.cmds.any fun k => !k.2.denied && hOp k.2.header == 2 && hPlan k.2.header == id
    let busy := s.flasks.any fun f => f.1 / 2 ^ 16 == id && f.2.state != 0
    if p.state ≠ 3 ∨ used ∨ busy ∨ !s.works 1 then s
    else { s.clearPlan id with plans := Tab.drop s.plans id }.endSubs planFamilies id

end Sys2Proof.Machine
end

