-- ==== Sys2Proof/Machine/Loads.lean ====
section
/-! DEFINITION. The load and unload of patterns and of routing-table versions (R232, R233, R261, R363 to R365). -/

set_option Elab.async false

set_option linter.unusedVariables false

namespace Sys2Proof.Machine

/-! ## Pattern images (R363, R366) -/

/-- The fields a scalar operation uses, of rd, ra, rb, pd and imm, as a mask in that order from bit 0. -/
def scalarUses (op : Nat) : Nat :=
  if 1 ≤ op ∧ op ≤ 0x0B then 0b00111
  else if op = 0x15 ∨ op = 0x30 then 0b10001
  else if 0x10 ≤ op ∧ op ≤ 0x17 then 0b10011
  else if 0x20 ≤ op ∧ op ≤ 0x23 then 0b01110
  else if op = 0x24 ∨ op = 0x25 then 0b11010
  else if op = 0x28 ∨ op = 0x29 then 0b01110
  else if op = 0x2A then 0b01010
  else if op = 0x31 then 0b00011
  else if op = 0x38 then 0b10011
  else if op = 0x39 then 0b10110
  else 0b11111

/-- Check 0x14 for a scalar slot. -/
def scalarClear (s : ScalarSlot) : Bool :=
  if s.guard = 0 then s.op == 0 && s.rd == 0 && s.ra == 0 && s.rb == 0 && s.pd == 0 && s.rsvd == 0 && s.imm == 0
  else
    let u := scalarUses s.op
    s.rsvd == 0 && (bit u 0 || s.rd == 0) && (bit u 1 || s.ra == 0) && (bit u 2 || s.rb == 0) && (bit u 3 || s.pd == 0) && (bit u 4 || s.imm == 0)

/-- Check 0x14 for the control slot. -/
def controlClear (s : ControlSlot) : Bool :=
  let noTallies := s.tallyA == 0 && s.threshA == 0 && s.tallyB == 0 && s.threshB == 0 && s.combine == 0
  if s.guard = 0 then s.cop == 0 && s.target == 0 && noTallies && s.rsvd == 0
  else s.rsvd == 0 && (match s.cop with
    | 1 => noTallies
    | 2 => noTallies
    | 4 => s.target == 0 && (s.combine != 0 || (s.tallyA == 0 && s.threshA == 0)) && (decide (2 ≤ s.combine) || (s.tallyB == 0 && s.threshB == 0))
    | 6 => decide (s.target < 256) && noTallies
    | 0 => s.target == 0 && noTallies
    | 3 => s.target == 0 && noTallies
    | 5 => s.target == 0 && noTallies
    | _ => true)

/-- Check 0x14 for the TALLY slot. -/
def tallyClear (s : TallySlot) : Bool :=
  s.rsvd == 0 && (if s.guard = 0 then s.op == 0 && s.tallyReg == 0 && s.valueReg == 0 && s.imm == 0
    else if s.op = 1 ∨ s.op = 2 then s.imm == 0 else if s.op = 3 then s.valueReg == 0 else true)

/-- Check 0x14 for the POUR or SCORE slot. -/
def armClear (s : ArmSlot) : Bool :=
  s.rsvd == 0 && (if s.guard = 0 then s.op == 0 && s.tallyEnable == 0 && s.tallyReg == 0 else s.tallyEnable == 1 || s.tallyReg == 0)

/-- Check 0x14 for a word. -/
def wordClear (w : PWord) : Bool :=
  scalarClear w.a && scalarClear w.b && controlClear w.control && tallyClear w.tally && armClear w.pour && armClear w.score &&
    (w.stitch.rsvd == 0 && (w.stitch.guard != 0 || (w.stitch.op == 0 && w.stitch.reg == 0))) &&
    (w.copy.rsvd == 0 && (if w.copy.guard = 0 then w.copy.op == 0 && w.copy.descReg == 0 && w.copy.countM1 == 0 && w.copy.doneEnable == 0 && w.copy.doneReg == 0
      else w.copy.doneEnable == 1 || w.copy.doneReg == 0)) &&
    (w.select.rsvd == 0 && (if w.select.guard = 0 then w.select.op == 0 && w.select.level == 0 else w.select.op != 1 || w.select.level == 0))

/-- Check 0x15 for a scalar slot. -/
def scalarDefined (s : ScalarSlot) : Bool :=
  guardDefined s.guard && (s.guard == 0 || (scalarOpDefined s.op && (s.op != 0x30 || decide (s.imm % 16 ≤ 8)) &&
    (s.op != 0x17 || (decide (1 ≤ bits s.imm 14 8) && decide (bits s.imm 14 8 ≤ 64)))))

/-- Check 0x15 for a word: guards, opcodes, selectors and widths defined. -/
def wordDefined (w : PWord) : Bool :=
  let ok := fun (g op lo hi : Nat) => guardDefined g && (g == 0 || (decide (lo ≤ op) && decide (op ≤ hi)))
  scalarDefined w.a && scalarDefined w.b && ok w.control.guard w.control.cop 0 6 && ok w.tally.guard w.tally.op 1 3 &&
    ok w.stitch.guard w.stitch.op 1 2 && ok w.copy.guard w.copy.op 1 1 && ok w.pour.guard w.pour.op 1 1 && ok w.score.guard w.score.op 1 1 &&
    ok w.select.guard w.select.op 1 2

/-- Whether a scalar slot writes a g register, and whether a predicate. -/
def writesReg (s : ScalarSlot) : Bool := s.guard != 0 && bit (scalarUses s.op) 0 && s.rd != 0
def writesPred (s : ScalarSlot) : Bool := s.guard != 0 && bit (scalarUses s.op) 3

/-- Check 0x16 for a word. -/
def wordTargets (n : Nat) (w : PWord) : Bool :=
  (w.control.guard == 0 || !(w.control.cop == 1 || w.control.cop == 2) || decide (w.control.target < n)) &&
    !(writesReg w.a && writesReg w.b && w.a.rd == w.b.rd) && !(writesPred w.a && writesPred w.b && w.a.pd == w.b.pd) &&
    !(w.b.guard != 0 && (w.b.op == 0x38 || w.b.op == 0x39))

/-- Check 0x17. -/
def kindOk (kind resultBytes : Nat) (ws : List PWord) : Bool :=
  if kind = 0 then resultBytes % 32 == 0 && decide (resultBytes ≤ 524288) &&
    ws.all fun w => w.score.guard == 0 && w.select.guard == 0 && w.pour.guard == 0 && w.stitch.guard == 0
  else resultBytes == 0

/-- The place a loading pattern holds in the file. -/
def emptyPattern (h : Nat) : Pattern :=
  { host := h, state := 1, kind := 0, runResultBytes := 0, crc := 0, stamp := 0, base := 0, bytes := 0, words := [] }

/-- PatternLoadGo, once accepted (R363). -/
def State.patternLoadGo (s : State) (h id : Nat) : State :=
  let s := { s with patLoads := Tab.put s.patLoads h id }.wr Reg.patternLoadStatus h 1
  match Tab.find s.patterns id with
  | some _ => s
  | none => { s with patterns := Tab.put s.patterns id (emptyPattern h) }

/-- The checks of R363 but 0x18: the code of the first that fails, or the pattern. -/
def State.patternCheckImage (s : State) (h id : Nat) (img : List Byte) : Nat × Option Pattern :=
  let hd := leAt img 0 64
  let n := bits hd 479 464
  let kind := bits hd 427 424
  let words : List Word512 := (List.range n).map fun i => BitVec.ofNat 512 (leAt img (64 + 64 * i) 64)
  let ws := words.map decodeWord
  let loading := s.patLoads.any fun l => l.1 != h && l.2 == id
  let taken := match Tab.find s.patterns id with
    | some q => q.state != 1 || q.host != h || loading
    | none => true
  if img.length ≠ 64 + 64 * n ∨ imageCrc img ≠ bits hd 511 480 then (0x10, none)
  else if bits hd 431 428 ≠ h ∨ bits hd 447 432 ≠ 1 ∨ bits hd 463 448 ≠ id ∨ n = 0 ∨ 16384 < n ∨ 1 < kind then (0x11, none)
  else if taken then (0x12, none)
  else match s.cachePlace h img.length with
    | none => (0x13, none)
    | some base =>
      if bits hd 403 384 ≠ 0 ∨ bits hd 351 0 ≠ 0 ∨ !ws.all wordClear then (0x14, none)
      else if !ws.all wordDefined then (0x15, none)
      else if !ws.all (wordTargets n) then (0x16, none)
      else if !kindOk kind (bits hd 423 404) ws then (0x17, none)
      else (0, some { host := h, state := 2, kind := kind, runResultBytes := bits hd 423 404, crc := bits hd 511 480, stamp := bits hd 383 352
                      base := base, bytes := img.length, words := words })

/-- A load refused with a code; the place it took is freed (R363). -/
def State.patternRefuse (s : State) (h id code : Nat) : State :=
  let mine := match Tab.find s.patterns id with
    | some p => p.state == 1 && p.host == h
    | none => false
  (if mine then { s with patterns := Tab.drop s.patterns id }.endSubs patternFamilies id else s).wr Reg.patternLoadStatus h code

/-- A pattern image has been read: the pattern is resident or refused (R363). -/
def State.patternRead (s : State) (h : Nat) : State :=
  match Tab.find s.patLoads h with
  | none => s
  | some id =>
    if !s.works 1 then s
    else
      let r := s.hostRead h (s.rd Reg.patternLoadAddr h) (s.rd Reg.patternLoadBytes h)
      let s := { r.2.2 with patLoads := Tab.drop s.patLoads h }
      let c := if r.1 ≠ 0 then (0x18, none) else s.patternCheckImage h id r.2.1
      match c with
      | (_, some p) =>
        let s := { s with patterns := Tab.put s.patterns id p, planCache := Tab.writeBytes 0 s.planCache p.base r.2.1 }
        (s.storeWrite planCacheNo p.base p.bytes).wr Reg.patternLoadStatus h 2
      | (code, none) => s.patternRefuse h id code

/-- Whether the host holds a pattern, resident or unloading. -/
def State.holdsPattern (s : State) (h id : Nat) : Bool := match Tab.find s.patterns id with
  | some p => p.host == h && (p.state == 2 || p.state == 3)
  | none => false

/-- PatternUnload, once accepted (R364). -/
def State.patternUnload (s : State) (id : Nat) : State :=
  { s with patterns := Tab.modify s.patterns id fun p => { p with state := 3 } }

/-- An unloading pattern is freed once no command is running it (R364). -/
def State.patternFree (s : State) (id : Nat) : State :=
  match Tab.find s.patterns id with
  | none => s
  | some p =>
    let used := s.cmds.any fun k => !k.2.ready && ((hOp k.2.header == 1 && fld k.2.header 271 256 == id) ||
      (hOp k.2.header == 2 && match s.ctx k.2.ctx with
        | some c => c.pattern == id
        | none => false))
    if p.state ≠ 3 ∨ used ∨ !s.works 1 then s else { s with patterns := Tab.drop s.patterns id }.endSubs patternFamilies id

/-! ## Routing-table versions (R232, R233, R260, R261) -/

def pathOf (x : Nat) : PathEntry :=
  { kind := bits x 127 126, waypoints := bits x 125 124, a := bits x 123 112, b := bits x 111 100, c := bits x 99 88
    udpSource := bits x 87 72, flowLabel := bits x 71 52, dscp := bits x 51 46, rsvd := bits x 45 0 }

def nodeRouteOf (x : Nat) : NodeRoute :=
  { node := bits x 127 108, portA := bits x 107 102, pathA := bits x 101 86, bValid := bit x 85, portB := bits x 84 79, pathB := bits x 78 63 }

def forwardEntryOf (x : Nat) : Forward := { node := bits x 63 44, outPort := bits x 43 38, dateline := bit x 37 }

/-- The three tables of an image as raw entries (R232). -/
def tableParts (img : List Byte) : List Nat × List Nat × List Nat :=
  let hd := leAt img 0 64
  let p := bits hd 431 416
  let n := bits hd 415 400
  let f := bits hd 399 384
  let b := 64 + roundUp (16 * p) 64
  let c := b + roundUp (16 * n) 64
  ((List.range p).map (fun i => leAt img (64 + 16 * i) 16), (List.range n).map (fun i => leAt img (b + 16 * i) 16),
    (List.range f).map (fun i => leAt img (c + 8 * i) 8))

/-- Whether a list of node ids rises strictly and names only engines (R50, R232). -/
def nodesRise : List Nat → Bool
  | [] => true
  | [a] => assignable a
  | a :: b :: t => assignable a && decide (a < b) && nodesRise (b :: t)

/-- A path entry that R261 refuses. -/
def State.pathRefused (s : State) (e : PathEntry) : Bool :=
  let used := ([e.a, e.b, e.c].take (if e.kind = 2 then e.waypoints else 0))
  e.kind == 3 || (if e.kind = 2 then e.waypoints == 0 else e.waypoints != 0) || used.any (fun i => s.rd Reg.segment i == 0) ||
    ((e.kind == 1 || e.kind == 2) && decide (e.udpSource < 1024)) ||
    (e.kind == 0 && !(e.a == 0 && e.b == 0 && e.c == 0 && e.udpSource == 0 && e.flowLabel == 0 && e.dscp == 0))

/-- The first failing check of R233 but 0x16, or the table. -/
def State.tableCheck (s : State) (bytes : Nat) (img : List Byte) : Nat × Option RouteTable :=
  let hd := leAt img 0 64
  let t := tableParts img
  let paths := t.1.map pathOf
  let routes := t.2.1.map nodeRouteOf
  let fwds := t.2.2.map forwardEntryOf
  let ports := s.variant.ports
  if bits hd 479 448 ≠ bytes ∨ img.length < 64 ∨ imageCrc img ≠ bits hd 511 480 then (0x10, none)
  else if bits hd 447 432 ≠ 1 then (0x11, none)
  else if bits hd 383 0 ≠ 0 ∨ paths.any (fun e => e.rsvd != 0) ∨ t.2.1.any (fun x => bits x 62 0 != 0) ∨ t.2.2.any (fun x => bits x 36 0 != 0) then (0x12, none)
  else if 16384 < paths.length ∨ 16384 < routes.length ∨ 8192 < fwds.length ∨ bytes % 64 ≠ 0 ∨ 0x200000 < bytes ∨
      bytes < 64 + roundUp (16 * paths.length) 64 + roundUp (16 * routes.length) 64 + 8 * fwds.length ∨
      !nodesRise (routes.map (·.node)) ∨ !nodesRise (fwds.map (·.node)) then (0x13, none)
  else if routes.any (fun r => decide (ports ≤ r.portA) || (r.bValid && decide (ports ≤ r.portB))) ∨ fwds.any (fun f => decide (ports ≤ f.outPort)) then (0x14, none)
  else if paths.any s.pathRefused then (0x15, none)
  else (0, some { paths := paths, routes := routes, forwards := fwds })

/-- Whether TableLoadGo is accepted: the version is Free or holds a refusal code (R233). -/
def State.tableLoadOk (s : State) (v : Nat) : Bool := s.rd Reg.versionState v == 0 || decide (0x10 ≤ s.rd Reg.versionState v)

/-- TableLoadGo, once accepted. -/
def State.tableLoadGo (s : State) (v : Nat) : State := s.wr Reg.versionState v 1

/-- The table image has been read: the version is Ready or holds the code of the failing check (R233). -/
def State.tableRead (s : State) (v : Nat) : State :=
  if v < 2 ∧ s.rd Reg.versionState v = 1 ∧ s.works 6 then
    let a := s.rd Reg.tableAddr v
    let n := s.rd Reg.tableBytes v
    let img := s.memRead a n
    if s.memBad a n ≠ 0 then s.wr Reg.versionState v 0x16
    else match s.tableCheck n img with
      | (_, some t) => ({ s with versions := Tab.put s.versions v t }.wr Reg.versionState v 2).wr Reg.tableCrcLoaded v (leAt img 60 4)
      | (code, none) => s.wr Reg.versionState v code
  else s

/-- ActiveVersion, once accepted: the named version Active, the previous one Draining (R233). -/
def State.activate (s : State) (v : Nat) : State :=
  let old := s.rd Reg.activeVersion 0
  let s := if old < 2 then s.wr Reg.versionState old 4 else s
  (s.wr Reg.versionState v 3).wr Reg.activeVersion 0 v

/-- Frames of an epoch in flight on a port (R235). -/
def State.inFlightOf (s : State) (p v : Nat) : Nat := ((s.portRec p).inFlight.filter fun f => f.1 == v).length

/-- Whether VersionState 0 is accepted (R233). -/
def State.versionFreeOk (s : State) (v : Nat) : Bool :=
  decide (0x10 ≤ s.rd Reg.versionState v) ||
    (s.rd Reg.versionState v == 4 && (List.range s.variant.ports).all fun p => s.inFlightOf p v == 0)

/-- A version freed. -/
def State.versionFree (s : State) (v : Nat) : State :=
  ({ s with versions := Tab.drop s.versions v }.wr Reg.versionState v 0).wr Reg.tableCrcLoaded v 0

end Sys2Proof.Machine
end

