-- ==== Sys2Proof/Machine/Contexts.lean ====
section
/-! DEFINITION. Contexts as commands and the scheduler treat them: hosts' shares, definition, undefinition and reset, scheduling, exceptions resumed, released waits, and the end of a DISPATCH (R315, R327, R372, R385, R424 to R457, R475, R548). -/

set_option Elab.async false

set_option linter.unusedVariables false

namespace Sys2Proof.Machine

/-! ## Hosts (R424 to R427) -/

/-- Whether two hosts' shares meet: context ranges, way masks or memory channels (R425). -/
def State.sharesMeet (s : State) (h g : Nat) : Bool :=
  let meet := fun (o : Obj) => (s.rd o h &&& s.rd o g) != 0
  rangesMeet (s.rd Reg.contextBase h) (s.rd Reg.contextCount h) (s.rd Reg.contextBase g) (s.rd Reg.contextCount g) ||
    [Reg.gateWays, Reg.landingWays, Reg.stitchWays, Reg.planCacheWays, Reg.ctxCacheWays, Reg.hbmChannelMask].any meet

/-- The landing-store ways that hold a buffer of an LDL segment, as a mask (R388, R425). -/
def State.ladleWays (s : State) : Nat :=
  (List.range 48).foldl (fun m seg =>
    let n := s.segCount seg * bufSize (seg / 8)
    if s.rd Reg.segKind seg = 1 ∧ n ≠ 0 then
      let lo := s.rd Reg.segBase seg / 2 ^ 20
      let hi := (s.rd Reg.segBase seg + n - 1) / 2 ^ 20
      (List.range (hi - lo + 1)).foldl (fun m i => setBit m (lo + i)) m
    else m) 0

/-- Whether a write of HostEnable 1 is refused (R425). -/
def State.hostOnRefused (s : State) (h : Nat) : Bool :=
  let base := s.rd Reg.contextBase h
  let count := s.rd Reg.contextCount h
  base % 64 != 0 || count % 64 != 0 || decide (65536 < base + count) ||
    (List.range 16).any (fun g => g != h && s.hostEnabled g && s.sharesMeet h g) ||
    (s.rd Reg.landingWays h &&& s.ladleWays) != 0 || decide (64 < s.rd Reg.residentQuota h)

/-- Whether a write of HostEnable 0 is refused (R425). -/
def State.hostOffRefused (s : State) (h : Nat) : Bool :=
  (List.range 1024).any (fun i => s.rb Reg.ringEnable i && s.ringHost i == some h) ||
    s.plans.any (fun p => p.2.host == h) || s.patterns.any (fun p => p.2.host == h) || s.ctxs.any (fun p => p.2.host == h)

/-- A write of HostEnable: whether it is refused, and the state after. -/
def State.hostEnableWrite (s : State) (h v : Nat) : Bool × State :=
  if v = 1 then (if s.hostOnRefused h ∧ !s.rb Reg.hostEnable h then (true, s) else (false, s.wr Reg.hostEnable h 1))
  else if s.rb Reg.hostEnable h ∧ s.hostOffRefused h then (true, s)
  else (false, s.wr Reg.hostEnable h 0)

/-- Whether a write of ChannelHost is refused: a ring of the channel is enabled, or the host it names is not (R426). -/
def State.channelHostRefused (s : State) (c v : Nat) : Bool :=
  (List.range 64).any (fun r => s.rb Reg.ringEnable (64 * c + r) || (s.ring (64 * c + r)).closing) || (v != 0xFF && !s.hostEnabled v)

/-! ## Definition (R430, R431, R475) -/

/-- Whether a write of ContextDefine 1 is refused (R430). -/
def State.defineRefused (s : State) (x : Nat) : Bool :=
  match s.contextHost x with
  | none => true
  | some h => (s.ctx x).isSome || s.channelOwner (bits (s.rd Reg.homeRing x) 9 6) != some h || s.rd Reg.dispatchPattern x == 0

/-- ContextDefine: a context at heat 0 and InitialStep, Idle, its image in the host's cache ways or in the image table (R430). -/
def State.contextDefine (s : State) (x : Nat) : State :=
  match s.contextHost x with
  | none => s
  | some h =>
    let place := s.cacheSlot h
    let c : Ctx :=
      { step := s.rd Reg.initialStep x, pattern := s.rd Reg.dispatchPattern x, homeRing := bits (s.rd Reg.homeRing x) 9 0, host := h
        wakeTol := s.rd Reg.defaultWakeTolerance h, restTick := s.tick, outTick := s.tick
        estFull := s.rd Reg.estFull x, estReduced := s.rd Reg.estReduced x, estSkip := s.rd Reg.estSkip x
        residency := if place.isSome then 2 else 3, place := place.getD 0 }
    let s := { s with ctxs := Tab.put s.ctxs x c }
    match place with
    | some n => s.storeWrite ctxCacheNo (512 * n) 512
    | none => s.writeImage x

/-- Whether a context has a command in flight, of any opcode. -/
def State.inFlight (s : State) (x host : Nat) : Bool := s.cmds.any fun p => p.2.ctx == x && p.2.host == host

/-- Whether a write of ContextUndefine 1 is refused (R431, R475). -/
def State.undefineRefused (s : State) (x : Nat) : Bool :=
  match s.ctx x with
  | none => true
  | some c => s.inFlight x c.host || c.state == 6 || (c.state == 7 && !s.elapsed c.killTick (s.rd Reg.stitchWaitTicks 0))

/-- ContextUndefine: the image and its counters are discarded (R431). -/
def State.contextUndefine (s : State) (x : Nat) : State := { s with ctxs := Tab.drop s.ctxs x }.endSubs contextFamilies x

/-! ## Context reset (R548) -/

/-- ContextResetState: whether commands that a context reset ended are not yet all ready. -/
def State.resetGoesOn (s : State) (x : Nat) : Bool :=
  match s.ctx x with
  | none => false
  | some c => c.resetting && s.cmds.any fun p => p.2.ctx == x && p.2.marked != 0 && !p.2.ready

/-- Whether a ContextReset write is refused: the context is Undefined or Killed. -/
def State.resetRefused (s : State) (x : Nat) : Bool :=
  match s.ctx x with
  | none => true
  | some c => c.state == 7

/-- ContextReset: a CANCEL of the context, every other command ended CANCELLED, the programmer's state zeroed, the context Idle. -/
def State.contextReset (s : State) (x : Nat) : State :=
  let s := s.modCtx x fun c => { c with heat := (c.heat + 1) % 2 ^ 16 }
  let s := ((s.cmds.filter fun p => p.2.ctx == x && !p.2.ready).map (·.1)).foldl (fun s u => s.stopCmd 1 u) s
  s.modCtx x fun c => { c with
    g := [], entry := [], preds := 0, stack := [], effectCount := 0, effectCrc := 0, suppress := 0, suppressCrc := 0, diverged := false
    abortCount := 0, replayPending := false, state := 1, restTick := s.tick, rest := none, hold := 0, resetting := s.cmds.any fun p => p.2.ctx == x && p.2.marked != 0 && !p.2.ready, restart := false }

/-! ## Accounting (R457) -/

/-- AccountingClear: a context's accounting fields at 0. -/
def State.accountingClear (s : State) (x : Nat) : State :=
  s.modCtx x fun c => { c with waitTicks := 0, runCycles := 0, commandsDone := 0, takes := 0, aborts := 0, swapIns := 0, deadlineMisses := 0, fallbacks := 0 }

/-- HostAccountingClear: a host's sums at 0. -/
def State.hostAccountingClear (s : State) (h : Nat) : State :=
  [Reg.hostWaitTicks, Reg.hostRunCycles, Reg.hostTakesSuffered, Reg.hostAbortsSuffered, Reg.hostSwapIns, Reg.hostDeadlineMisses].foldl
    (fun s o => s.wr o h 0) s

/-! ## The scheduler's turn (R358 to R361, R382, R383, R439, R446) -/

/-- The registers of a command at entry (R359, R360): g1 to g3 from the header, g4 to g15 as given, the others zero. -/
def entryRegs (h : Word512) (kept : Tab Word64) : Tab Word64 :=
  let g := fun (hi lo : Nat) => BitVec.ofNat 64 (fld h hi lo)
  let args : List (Nat × Word64) :=
    if hOp h = 1 then [(1, g 351 288), (2, g 415 352), (3, g 479 416)] else [(1, g 319 256), (2, g 383 320), (3, 0)]
  (args ++ (List.range 12).map fun i => (i + 4, Tab.get 0 kept (i + 4))).foldl (fun (t : Tab Word64) (p : Nat × Word64) => Tab.set 0 t p.1 p.2) []

/-- The image's entry copy of g4 to g15 (R359). -/
def entryCopy (g : Tab Word64) : Tab Word64 :=
  (List.range 12).foldl (fun t i => Tab.set 0 t (i + 4) (Tab.get 0 g (i + 4))) []

/-- A context at word 0 of a command. -/
def Ctx.atWord0 (c : Ctx) (uid : Nat) (h : Word512) (kept : Tab Word64) : Ctx :=
  { c with g := entryRegs h kept, entry := kept, pc := 0, preds := 0, stack := [], wide := 0, stitchTally := 0, pourTally := none
           scoreTally := none, armLevel := 0, cmd := some uid, cls := hClass h, restart := false, diverged := false
           effectCount := 0, effectCrc := 0 }

/-- A new command's attempt (R360, R383). -/
def Ctx.begin (c : Ctx) (uid : Nat) (h : Word512) : Ctx := { (c.atWord0 uid h (entryCopy c.g)) with suppress := 0, suppressCrc := 0 }

/-- A replay's attempt: the first EffectCount effects are to be suppressed; a replay aborted before it had repeated them keeps the count it had (R382, R383). -/
def Ctx.replay (c : Ctx) (uid : Nat) (h : Word512) : Ctx :=
  let sup := if c.effectCount < c.suppress then (c.suppress, c.suppressCrc) else (c.effectCount, c.effectCrc)
  { (c.atWord0 uid h c.entry) with suppress := sup.1, suppressCrc := sup.2 }

/-- The context Running from now: the watchdog starts, the wait is counted (R381, R457). -/
def State.runNow (s : State) (n x : Nat) (c : Ctx) : State :=
  let w := s.since c.readyTick
  let c := { c with state := 3, waitTicks := (c.waitTicks + w) % 2 ^ 64, runTick := s.tick, watchOn := true, watchdog := false, take := false
                    hold := 0, rest := none }
  (({ s with ctxs := Tab.put s.ctxs x c }.inc Reg.hostWaitTicks c.host w).inc Reg.contextSwitches n 1)

/-- The best resident Runnable context of sequencer n (R439). -/
def State.bestOf (s : State) (n : Nat) : Option (Nat × Ctx) :=
  bestBy s.runsBefore (s.ctxs.filter fun p => p.2.residency == 1 && p.2.seq == n && p.2.state == 2)

/-- An idle sequencer runs its best resident Runnable context: a new command, a replay, or on from its rest. -/
def State.schedule (s : State) (n : Nat) : State :=
  if 4 ≤ n ∨ !s.works 1 ∨ (s.running n).isSome then s
  else
    match s.bestOf n with
    | none => s
    | some (x, c) =>
      match c.cmd with
      | none =>
        match s.nextCmd x with
        | none => s
        | some (u, k) => (s.modCmd u fun k => { k with started := true }).runNow n x (c.begin u k.header)
      | some u =>
        if c.restart then
          match s.cmd u with
          | none => s
          | some k => (s.modCmd u fun k => { k with replayed := true }).runNow n x (c.replay u k.header)
        else s.runNow n x c

/-- The scheduler swaps in the first waiting context that finds an entry (R441, R443). -/
def State.swapTurn (s : State) : State :=
  if !s.works 1 then s
  else
    match s.waiting.findSome? fun p => (s.chooseEntry p.1 p.2).map fun e => (p.1, e) with
    | none => s
    | some (x, e) => s.swapIn x e

/-- The rest watchdog of sequencer n reaches RestWatchdogTicks: the next word raises RestWatchdog (R381; log entry 51). -/
def State.restWatchdog (s : State) (n : Nat) : State :=
  match s.running n with
  | none => s
  | some (x, c) =>
    if c.state = 3 ∧ c.watchOn ∧ s.elapsed c.runTick (s.rd Reg.restWatchdogTicks 0) ∧ s.works 1 then
      s.modCtx x fun c => { c with watchdog := true, watchOn := false }
    else s

/-! ## Released waits (R326, R327, R371) -/

/-- A wait's release handed to a resting context: its WAIT is over when its combination is; still on its sequencer and not taken it goes on (log entry 52). -/
def State.releaseRest (s : State) (x : Nat) : State :=
  match s.ctx x with
  | none => s
  | some c =>
    match c.rest with
    | none => s
    | some r =>
      let others := (s.watchTable ++ s.pollList).any fun w => match w.who with
        | .context y _ => y == x
        | .command _ => false
      if r.combine = 2 ∧ others then s
      else
        let s := s.dropWaits x
        if c.state = 5 then (s.modCtx x fun c => { c with rest := none, hold := 0 }).wakeContext x
        else if c.state = 4 ∧ c.hold = 1 then
          if c.take then s.modCtx x fun c => { c with rest := none }
          else s.modCtx x fun c => { c with state := 3, hold := 0, rest := none, runTick := s.tick, watchOn := true }
        else s

/-- A satisfied wait released to its waiter. -/
def State.releaseWait (s : State) (w : TWait) : State :=
  match w.who with
  | .command u => s.makeReady u 0
  | .context x _ => s.releaseRest x

/-- The satisfied wait at a place of the watch table is released, and the poll list fills its entry (R327). -/
def State.watchRelease (s : State) (pos : Nat) : State :=
  match s.watchTable[pos]? with
  | none => s
  | some w =>
    if w.hit ∧ s.works 10 then
      ({ s with watchTable := s.watchTable.eraseIdx pos }.fillTable).releaseWait w
    else s

/-- TLY tests the waits on its poll list and releases those that hold (R327). -/
def State.pollTurn (s : State) : State :=
  if !s.works 10 then s
  else
    let ts := (s.pollList.map (·.tally)).eraseDups
    let s := ts.foldl State.tallyCheck s
    let met := fun (w : TWait) => s.tallyMeets w.tally w.thresh
    let go := s.pollList.filter met
    go.foldl State.releaseWait { s with pollList := s.pollList.filter fun w => !met w }

/-! ## Exceptions resumed (R385, R469) -/

/-- The Armed PatternException slots of a context are acknowledged. -/
def State.ackException (s : State) (x : Nat) : State :=
  s.modUnit 1 fun f => { f with slots := f.slots.filter fun p => !(p.2.fault.source == 0x0107 && p.2.fault.ctx == x) }

/-- Whether the exception of a stopped context still has its Armed slot. -/
def State.exceptionArmed (s : State) (x : Nat) : Bool :=
  (s.unitFaults 1).slots.any fun p => p.2.fault.source == 0x0107 && p.2.fault.ctx == x

/-- Whether an ExcAction write is refused: nothing is stopped, the timer has expired, or the action does not fit (R385). -/
def State.excRefused (s : State) (n action : Nat) : Bool :=
  match Tab.find s.excs n with
  | none => true
  | some e => !e.stopped || !s.exceptionArmed e.ctx || action == 0 || decide (3 < action) ||
      (e.code == excReplayDiverged && action != 3)

/-- The stopped context of sequencer n runs on at a word; the watchdog has stood still (R381, R385). -/
def State.resumeAt (s : State) (n : Nat) (e : ExcRec) (pc : Nat) : State :=
  let gap := s.since e.tick
  let s := { s with excs := Tab.drop s.excs n }.ackException e.ctx
  s.modCtx e.ctx fun c => { c with state := 3, pc := pc, runTick := tickAdd c.runTick gap }

/-- ExcAction 1: resume at the faulting word. -/
def State.excResume (s : State) (n : Nat) : State :=
  match Tab.find s.excs n with
  | none => s
  | some e => s.resumeAt n e e.pc

/-- ExcAction 2: resume at the word after it; past the last word the pattern raises PcRange there (R370, R385; log entry 53). -/
def State.excSkip (s : State) (n : Nat) : State :=
  match Tab.find s.excs n with
  | none => s
  | some e =>
    let t := s.resumeAt n e (e.pc + 1)
    match t.issueOf n with
    | some _ => t
    | none =>
      match (s.resumeAt n e e.pc).issueOf n with
      | some i => if i.p.words.length ≤ e.pc + 1 then (s.resumeAt n e e.pc).patternException i excPcRange else t
      | none => t

/-- ExcAction 3: the stopped context is killed at once. -/
def State.excKill (s : State) (n : Nat) : State :=
  match Tab.find s.excs n with
  | none => s
  | some e => (s.ackException e.ctx).killContext e.ctx

/-! ## The end of a DISPATCH (R160, R162, R315, R372, R455, R456) -/

/-- A signed estimate moved an eighth of the way to a measurement (R455). -/
def nextEstimate (est m : Nat) : Nat := (clampInt 0 0xFFFFFFFF ((est : Int) + Int.tdiv ((m : Int) - est) 8)).toNat

/-- The monitor learns from a completed DISPATCH (R455). -/
def Ctx.learn (c : Ctx) (level m : Nat) : Ctx :=
  if level = 0 then { c with estFull := nextEstimate c.estFull m }
  else if level = 1 then { c with estReduced := nextEstimate c.estReduced m }
  else { c with estSkip := nextEstimate c.estSkip m }

/-- The experts that a completed DISPATCH adds to the load, one for each routed rank (R160). -/
def Disp.chosenExperts (d : Disp) : List Nat :=
  d.rowState.flatMap fun r => if r.2.skipped || r.2.nonFinite then [] else r.2.assigns.map (·.expert)

/-- Session watches of the host count a completed DISPATCH's rows (R162). -/
def State.countWatches (s : State) (d : Disp) (b : Block) : State :=
  (List.range 64).foldl (fun s i =>
    let w := 64 * d.host + i
    let id := s.rd Reg.watchSession w
    if id = 0xFFFFFFFF then s
    else
      let rows := ((List.range b.rows).map b.slot).filter fun sl => sl.session == id && !sl.padding
      ((s.inc Reg.watchSkims w ((rows.map fun sl => popCount 16 sl.skimmed).foldl (· + ·) 0)).inc Reg.watchSkips w
        (rows.filter (·.skipped)).length).inc Reg.watchFallbackRows w (if d.level = 0 then 0 else rows.length)) s

/-- What a DISPATCH that completes OK leaves: loads, watches, estimates (R160, R162, R455, R456). -/
def State.learnFrom (s : State) (uid : Nat) (k : Cmd) (d : Disp) (b : Block) : State :=
  let es := d.chosenExperts
  let s := (s.modLayer d.plan d.layer fun l => es.foldl LayerState.count l).inc Reg.assignmentsChosen 0 es.length
  let s := s.countWatches d b
  let s := s.modCtx d.ctx fun c => { c with fallbacks := if k.level = 1 ∨ k.level = 2 then satAdd 32 c.fallbacks 1 else c.fallbacks }
  if k.replayed || hLayerSkip k.header then s
  else s.modCtx d.ctx fun c => c.learn k.level (s.since k.scoreTick)

/-- The block and the open pour of a DISPATCH are freed. -/
def State.freeDisp (s : State) (uid x : Nat) : State :=
  { s with
    disps := Tab.drop s.disps uid
    blocks := s.blocks.filter fun p => !(p.1 == x && p.2.uid == uid)
    sharedPosts := s.sharedPosts.filter fun p => p.uid != uid
    pourQueue := s.pourQueue.filter (· != uid) }

/-- Whether every row of a block is written and its write visible. -/
def Block.allVisible (b : Block) : Bool := (List.range b.rows).all fun t => (b.slot t).state == 4 && (b.slot t).visible

/-- A DISPATCH becomes ready: OK once all that R372 names is visible, or with the status it was ended with once its pour is settled (R186). -/
def State.dispatchReady (s : State) (uid : Nat) : State :=
  match s.cmd uid, s.disp uid with
  | some k, some d =>
    if k.ready ∨ k.copies ≠ 0 then s
    else if k.marked ≠ 0 then
      let begun := d.phase != 0 || (match s.block d.ctx with
        | some b => b.uid == uid
        | none => false)
      if (!begun ∨ d.pourClosed) ∧ d.unacked = 0 then (s.freeDisp uid d.ctx).makeReady uid k.marked else s
    else
      match s.block d.ctx with
      | none => s
      | some b =>
        if k.ended ∧ d.phase = 2 ∧ d.pourClosed ∧ b.uid = uid ∧ b.allVisible then
          let l := b.payload
          let r := s.writeResult k 0 l
          let slots := (List.range b.rows).map b.slot
          let s := r.2.modCmd uid fun k => { k with
            result := l.zipIdx.map fun p => (p.2, p.1)
            skims := (slots.map fun sl => popCount 16 sl.skimmed).foldl (· + ·) 0, skips := (slots.filter (·.skipped)).length }
          let s := if r.1 = 0 then s.learnFrom uid k d b else s
          (s.freeDisp uid d.ctx).makeReady uid (if r.1 = 0 then 0 else if r.1 = 1 then 0x10 else 0x18)
        else s
  | _, _ => s

end Sys2Proof.Machine
end

