-- ==== Sys2Proof/Machine/Recover.lean ====
section
/-! DEFINITION. Fault objects acted on, escalation, the fatal stop, injection, and the resets (R461 to R479, R543 to R549). -/

set_option Elab.async false

set_option linter.unusedVariables false

namespace Sys2Proof.Machine

/-! ## Interrupts (R462, R422, R538, R556) -/

/-- The bit of KRD_INT of unit u. -/
def State.intBit (s : State) (u : Nat) : Bool :=
  let mask := s.rd Reg.faultMask u
  andNot (s.rd Reg.faultStatus u) mask != 0 ||
    (s.unitFaults u).slots.any (fun p => !bit mask (p.2.fault.source % 256)) ||
    (u == 7 && s.rb Reg.linkEventPending 0 && !s.rb Reg.linkEventMask 0) ||
    (u == 16 && andNot s.checkMismatch mask != 0)

/-- KRD_INT as the engine drives it: every bit 0 in Dormant. -/
def State.intPins (s : State) : Nat :=
  if s.power = 4 then 0 else (List.range 20).foldl (fun n u => if s.intBit u then setBit n u else n) 0

/-! ## Status, capture and history objects (R461 to R465) -/

/-- FaultClear (R462). -/
def State.faultClear (s : State) (u v : Nat) : State := s.wr Reg.faultStatus u (andNot (s.rd Reg.faultStatus u) v)

/-- FirstErrorRearm 1 (R463). -/
def State.rearm (s : State) (u : Nat) : State := s.modUnit u fun f => { f with first := none }

/-- HistoryDrain 1 (R464). -/
def State.drainHistory (s : State) (u : Nat) : State := s.modUnit u fun f => { f with history := [] }

/-- A write of PromoteCount or PromoteWindowTicks: the source's open window closes (R461). -/
def State.promoteWrite (s : State) (src : Nat) (window : Bool) (v : Nat) : State :=
  { s.wr (if window then promoteWindowOf src else promoteCountOf src) src v with promo := Tab.drop s.promo src }

/-- Whether a write of PromoteCount is refused: the source is of class K or F (15, Objects). -/
def promoteRefused (src : Nat) : Bool := match sourceRow src with
  | some r => r.cls != 0
  | none => true

/-- Every summary window that is over gives its records (R465). -/
def State.summaryEnd (s : State) : State := (s.summary.map (·.1)).foldl State.closeSummary s

/-! ## Acknowledgement and expiry (R467 to R469) -/

/-- The Armed slot n of unit u, while its deadline is not reached. -/
def State.ackable (s : State) (u n : Nat) : Option EscSlot :=
  match Tab.find (s.unitFaults u).slots n with
  | none => none
  | some e => if tickReached s.tick e.deadline then none else some e

/-- Whether a FaultAck of board management is refused. -/
def State.ackRefused (s : State) (u n : Nat) : Bool :=
  match s.ackable u n with
  | none => true
  | some e => e.fault.source == 0x0107

/-- Whether a HostFaultAck of host h is refused: only a Kill slot that names one of its contexts. -/
def State.hostAckRefused (s : State) (h u n : Nat) : Bool :=
  match s.ackable u n with
  | none => true
  | some e => e.fault.source == 0x0107 || e.fault.reaction != 2 || !e.fault.ctxValid || s.contextHost e.fault.ctx != some h

/-- A slot acknowledged: it becomes Free and no reaction is applied. -/
def State.ackSlot (s : State) (u n : Nat) : State := s.modUnit u fun f => { f with slots := Tab.drop f.slots n }

/-- An Armed slot reaches its deadline: its reaction is applied and it becomes Free (R467). -/
def State.escalate (s : State) (u n : Nat) : State :=
  match Tab.find (s.unitFaults u).slots n with
  | none => s
  | some e => if tickReached s.tick e.deadline then (s.ackSlot u n).expireFault e.fault else s

/-! ## The fatal stop (R470, R477, R539) -/

/-- Every lane of every port stops driving. -/
def State.lanesOff (s : State) : State :=
  (List.range s.variant.ports).foldl (fun s p =>
    let s := if s.rb Reg.portEnable p then (s.emit (.pin 1 (2 * p) 0)).emit (.pin 1 (2 * p + 1) 0) else s
    if s.portUp p then s.modPort p fun q => { q with up := false, laneLock := 0, align := false, fec := false } else s) s

/-- Rings with commands in flight enter State 3 (R99). -/
def State.haltRings (s : State) : State :=
  { s with rings := Tab.mapVals s.rings fun _ r => if r.rob.isEmpty then r else { r with state := 3 } }

/-- Step 3 for one context: a cached image newer than the table's copy is written back; one that cannot be read, or any when the rails are lost, is marked lost. -/
def State.saveImage (s : State) (lost : Bool) (x : Nat) : State :=
  match s.ctx x with
  | none => s
  | some c =>
    if c.residency ≠ 2 then s
    else
      let r := s.readImage x c
      if lost ∨ !r.1 then r.2.modCtx x fun c => { c with imageBad := true }
      else if c.dirty then r.2.writeImage x else r.2

/-- Step 4: what ran, stopped or was resident, and what was lost, is Killed. -/
def Ctx.stopped (c : Ctx) (now : Nat) : Ctx :=
  if c.state != 7 && (c.residency == 1 || c.imageBad) then { c with state := 7, replayPending := false, killTick := now, residency := 3, place := 0 }
  else c

/-- Steps 1 to 4 of the fatal stop. -/
def State.stopSteps (s : State) (lost : Bool) : State :=
  let s := s.lanesOff.haltRings
  let s := (s.ctxs.map (·.1)).foldl (fun s x => s.saveImage lost x) s
  { s with ctxs := Tab.mapVals s.ctxs fun _ c => c.stopped s.tick }

/-- The whole fatal stop: FatalState becomes 2 and the engine halts. -/
def State.stopEngine (s : State) (lost : Bool) : State :=
  { ((s.stopSteps lost).wr Reg.fatalState 0 2).inc Reg.fatalStops 0 1 with stopDeadline := none }

/-- FatalStopNow: the stop of a Fatal pending comes in the next cycle (R470). -/
def State.fatalStopNow (s : State) : State := if s.rd Reg.fatalState 0 = 1 then { s with stopDeadline := some s.tick } else s

/-- The Stop deadline is reached (R477). -/
def State.fatalStop (s : State) : State :=
  match s.stopDeadline with
  | none => s
  | some t => if s.rd Reg.fatalState 0 = 1 ∧ tickReached s.tick t then s.stopEngine false else s

/-- KRD_MAIN_GOOD falls: while the rails are asked for, the engine stops at once and cached images are lost (R539). -/
def State.mainFall (s : State) : State :=
  if !s.mainGood then s
  else
    let s := { s with mainGood := false }
    if s.mainReq ∧ s.rd Reg.fatalState 0 ≠ 2 then (s.raise { src := 0x1102, a := 0xFFFFFFFF }).stopEngine true else s

/-! ## Injection (R479) -/

/-- The store numbers a source's checker covers. -/
def injectStores (src : Nat) : List Nat :=
  if src = 0x0101 ∨ src = 0x0102 then [4, 5, 6, 7] else if src = 0x0103 ∨ src = 0x0104 then [8] else if src = 0x0105 then [9]
  else if src = 0x0201 ∨ src = 0x0202 then [1] else if src = 0x0801 ∨ src = 0x0802 then [2] else if src = 0x0901 ∨ src = 0x0902 then [3]
  else if src = 0x1101 ∨ src = 0x1102 then [10] else []

/-- Whether the injection tables allow a source, word and mask. -/
def State.injectAllowed (s : State) (src word mask : Nat) : Bool :=
  let st := injectStores src
  if !st.isEmpty then
    s.fitted (src / 256) && st.contains (word / 2 ^ 28) && decide (word % 2 ^ 28 < storeWords (word / 2 ^ 28)) && decide (mask < 256) &&
      ((decide (1 ≤ popCount 8 mask) && decide (popCount 8 mask ≤ 4)) || mask == 0xFF)
  else if src % 256 = 0 ∧ src / 256 < 20 then s.fitted (src / 256) && mask == 1
  else if src = 0x0A01 then decide (word < 131072) && mask == 1
  else if src = 0x0903 ∨ src = 0x0904 then word == 0 && (mask == 1 || mask == 2)
  else if src = 0x0B01 ∨ src = 0x0B02 then s.variant.col && word == 0 && (mask == 1 || mask == 2)
  else if src = 0x06FF then assignable word && (mask == 1 || mask == 2 || mask == 3)
  else false

/-- Whether InjectGo 1 is refused for the state it meets, and whether for its values. -/
def State.injectLocked (s : State) : Bool := !s.rb Reg.injectEnable 0 || s.rd Reg.injectState 0 == 1

def State.injectBad (s : State) : Bool :=
  !s.injectAllowed (s.rd Reg.injectSource 0) (s.rd Reg.injectWord 0) (s.rd Reg.injectCheckMask 0)

/-- InjectGo: one injection is armed. -/
def State.injectGo (s : State) : State :=
  { s with inject := some ⟨s.rd Reg.injectSource 0, s.rd Reg.injectWord 0, s.rd Reg.injectCheckMask 0⟩ }.wr Reg.injectState 0 1

/-- An armed control-queue injection takes hold: the poisoned word belongs to no context, and its place is free (R66, R67, R479; log entry 54). -/
def State.queueInject (s : State) : State :=
  match s.inject with
  | none => s
  | some j =>
    if j.source % 256 = 0 ∧ s.works (j.source / 256) then
      let a := s.draw
      let b := a.2.draw
      (b.2.injected j.source).raise { src := j.source, a := j.word * 2 ^ 32 + a.1 % 2 ^ 32, b := b.1 % 2 ^ 32 }
    else s

/-! ## Resets (R478, R545 to R549) -/

/-- Whether an object key belongs to the carried set (R545). -/
def carriedKey (k : Nat) : Bool :=
  let ix := k / 2 ^ 24
  let inst := k % 2 ^ 16
  ix == 0x0200 || ix == 0x0201 || (ix == 0x7040 && decide (3840 ≤ inst)) || k == Reg.contextImageWindow.key 0 ||
    k == Reg.dormantSaveWindow.key 0 || k == Reg.replyCacheWindow.key 0 || k == Reg.peerDirectoryWindow.key 0

/-- Whether an object key is one of an object with the keep flag (R512). -/
def keepKey (k : Nat) : Bool := match findObj (k / 2 ^ 24) (k / 2 ^ 16 % 2 ^ 8) with
  | some o => o.keep
  | none => false

/-- A context after a restart: one neither resident nor Killed is Idle, its heat advanced; a command of the time is lost (R382, R478). -/
def Ctx.restarted (c : Ctx) (now : Nat) : Ctx :=
  if c.state = 7 then { c with residency := 3, place := 0, cmd := none }
  else
    let g := if c.savedInCmd then (List.range 12).foldl (fun t i => Tab.set 0 t (i + 4) (Tab.get 0 c.entry (i + 4))) c.g else c.g
    { c with g := g, heat := (c.heat + 1) % 2 ^ 16, state := 1, residency := 3, place := 0, cmd := none, rest := none, hold := 0
             restTick := now, take := false, watchOn := false, watchdog := false, replayPending := false, abortCount := 0, restart := false
             suppress := 0, diverged := false, savedInCmd := false, resetting := false, wide := 0, dirty := false }

/-- What every reset leaves outside the engine, and what no reset touches: time, pins, inputs, memory and what waits. -/
def State.outside (s : State) : State :=
  { State.reset with
    variant := s.variant, chipId := s.chipId, mctpPen := s.mctpPen, pageBase := s.pageBase, mainReq := s.mainReq, mainGood := s.mainGood
    coldReleased := s.coldReleased, bootTick := s.tick, clockMhz := s.clockMhz, tick := s.tick, free := s.free, mem := s.mem
    memStatus := s.memStatus, out := s.out, heldPages := s.heldPages, feedB := s.feedB, feedTick := s.feedTick, stateSince := s.tick, quietSince := s.tick
    pending := s.pending }

/-- The restart after a fatal stop or a warm reset: everything cleared but the keeper store and the carried set, at a new incarnation (R478, R545, R546). -/
def State.restart (s : State) : State :=
  let rings : Tab Ring := (Tab.keep s.rings fun _ r => r.state == 3).map fun p => (p.1, { state := 3 })
  let units : Tab UnitFaults := (Tab.keep s.units fun _ f => f.first.isSome).map fun p => (p.1, { first := p.2.first })
  let bufs : Tab Buf := s.withdrawnList.foldl (fun t h => Tab.put t (bufKey (handleClass h) (handleIndex h)) { withdrawn := true }) []
  let t : State := { s.outside with
    objs := Tab.keep s.objs fun k _ => keepKey k || carriedKey k
    rings := rings
    units := units
    withdrawnList := s.withdrawnList
    bufs := bufs
    ctxs := Tab.mapVals s.ctxs fun _ c => c.restarted s.tick
    checks := Tab.keep s.checks fun k _ => k / 2 ^ 28 == keeperNo
    timers := Tab.put (Tab.put [] 0 s.tick) 1 s.tick
    replays := Tab.mapVals s.replays fun _ r => { r with cache := [] } }
  ((t.wr Reg.incarnation 0 ((s.rd Reg.incarnation 0 + 1) % 2 ^ 16)).wr Reg.bootState 0 2)

/-- A warm reset: steps 1 to 4 of the fatal stop with FatalSource 0xFFFF, or the pending stop brought forward, and the restart; it waits for no part of a cold reset (R546, R547). -/
def State.warmReset (s : State) : State :=
  if s.rd Reg.bootState 0 < 2 ∧ s.rd Reg.fatalState 0 ≠ 2 then s
  else if s.power = 4 then ((s.inc Reg.dormantRestoreFailures 0 1).restart)
  else if s.rd Reg.fatalState 0 = 0 then ((s.stopSteps false).wr Reg.fatalSource 0 0xFFFF).restart
  else if s.rd Reg.fatalState 0 = 1 then (s.stopEngine false).restart
  else s.restart

/-- A cold reset: every store and object at its Reset value; by its pin it is held until the pin rises (R547). -/
def State.coldReset (s : State) (byPin : Bool) : State :=
  let t := { s.outside with mainReq := false, coldReleased := s.coldReleased && !byPin }
  if s.mainReq then t.emit (.pin 0 0 0) else t

/-- The release of KRD_COLD_RST_N samples the tied-off inputs (R537). -/
def State.coldRelease (s : State) (chip pen base : Nat) : State :=
  if s.coldReleased then s
  else { s with coldReleased := true, chipId := chip % 2 ^ 64, mctpPen := pen % 2 ^ 32, pageBase := base % 2 ^ 28, bootTick := s.tick }

/-- The keeper store is zeroed: the engine asks for the main rails (start-up, step 3). -/
def State.storeZeroed (s : State) : State :=
  if s.coldReleased ∧ !s.mainReq ∧ s.rd Reg.bootState 0 = 0 ∧ s.elapsed s.bootTick 20480 then
    let s := { s with mainReq := true, bootTick := s.tick }.emit (.pin 0 0 1)
    if s.mainGood then s.wr Reg.bootState 0 1 else s
  else s

/-- KRD_MAIN_GOOD rises. -/
def State.mainRise (s : State) : State :=
  if s.mainGood then s
  else
    let s := { s with mainGood := true, bootTick := s.tick }
    if s.mainReq ∧ s.rd Reg.bootState 0 = 0 then s.wr Reg.bootState 0 1 else s

/-- The PLL has locked, calibration has run and the stores are initialised: BootState 2 (start-up, step 4). -/
def State.bootReady (s : State) : State :=
  if s.rd Reg.bootState 0 = 1 ∧ s.mainGood ∧ s.elapsed s.bootTick 10000 then
    { (s.wr Reg.bootState 0 2).inc Reg.calibrationRuns 0 1 with timers := Tab.put (Tab.put s.timers 0 s.tick) 1 s.tick, quietSince := s.tick }
  else s

/-- The keeper island powers up from no feed: KeeperTick starts at 0 (R481). -/
def State.keeperUp (s : State) (onB : Bool) : State :=
  { (({ s with tick := 0 }.coldReset true)) with tick := 0, bootTick := 0, stateSince := 0, quietSince := 0, feedB := onB && s.variant.keepB, feedTick := 0, clockMhz := 1300 }

/-- The keeper island loses its feeds: the keeper store and KeeperTick go, and with them all that a cold reset clears (R482). -/
def State.keeperLoss (s : State) : State :=
  { (({ s with tick := 0 }.coldReset true)) with tick := 0, bootTick := 0, stateSince := 0, quietSince := 0, feedTick := 0 }

/-- A port reset by its pin or by PortReset: the port goes down and its lanes are held in reset (R549). -/
def State.portReset (s : State) (p : Nat) (byPin : Bool) : State :=
  if s.variant.ports ≤ p then s
  else
    let s := s.portDown p 5
    let s := s.modPort p fun q => { q with
      resetTick := some s.tick, rstPin := q.rstPin || byPin, laneLock := 0, align := false, fec := false, lossTick := none, lossCode := 0
      creditUsed := [], creditSeen := [], freed := [] }
    (s.emit (.pin 2 (2 * p) 1)).emit (.pin 2 (2 * p + 1) 1)

/-- A port reset ends after 63 ticks, or when its pin rises if that is later (R549). -/
def State.portResetEnd (s : State) (p : Nat) : State :=
  match (s.portRec p).resetTick with
  | none => s
  | some t =>
    if s.elapsed t 63 then
      ((s.modPort p fun q => { q with resetTick := none, rstPin := false }).emit (.pin 2 (2 * p) 0)).emit (.pin 2 (2 * p + 1) 0)
    else s.modPort p fun q => { q with rstPin := false }

/-- PortEnable written 1: the port may train; its lanes are driven (R267, R268). -/
def State.portOn (s : State) (p : Nat) : State :=
  let s := s.wr Reg.portEnable p 1
  (s.emit (.pin 1 (2 * p) 1)).emit (.pin 1 (2 * p + 1) (b2n (s.rd Reg.portMode p != 2)))

/-- PortEnable written 0: the port goes down with event code 0x05 (R268, R269). -/
def State.portOff (s : State) (p : Nat) : State :=
  let s := (s.portDown p 5).wr Reg.portEnable p 0
  let s := s.modPort p fun q => { q with laneLock := 0, align := false, fec := false, lossTick := none, lossCode := 0 }
  (s.emit (.pin 1 (2 * p) 0)).emit (.pin 1 (2 * p + 1) 0)

/-! ## Halted units (R544) -/

/-- The units not fitted, as a mask. -/
def State.absentUnits (s : State) : Nat := (List.range 20).foldl (fun n u => if s.fitted u then n else setBit n u) 0

/-- EngineRun 1: every halted unit starts; MLD takes its mould buffer. -/
def State.engineRun (s : State) : State :=
  let s := (s.wr Reg.unitHalted 0 s.absentUnits).wr Reg.unitHalt 0 0
  if s.rd Reg.bootState 0 = 2 then { (s.wr Reg.bootState 0 3).takeMould with quietSince := s.tick } else s

/-- Whether a UnitHalt write is refused: RTT, PRT, LND or STC while a plan is resident. -/
def State.haltRefused (s : State) (v : Nat) : Bool := (v &&& 0x3C0) != 0 && s.plans.any fun p => p.2.state != 1

/-- A UnitHalt write: bits cleared start their units. -/
def State.unitHaltWrite (s : State) (v : Nat) : State :=
  let old := s.rd Reg.unitHalt 0
  let start := andNot old v
  (s.wr Reg.unitHalted 0 (andNot (s.rd Reg.unitHalted 0) start ||| s.absentUnits)).wr Reg.unitHalt 0 v

/-- Whether a unit holds no command, frame, flask, block or collective. -/
def State.unitEmpty (s : State) (n : Nat) : Bool :=
  let has := fun (op : Nat) => s.cmds.any fun p => hOp p.2.header == op && !p.2.ready
  if n = 0 then s.cmds.isEmpty
  else if n = 1 then s.ctxs.all fun p => p.2.cmd.isNone
  else if n = 2 ∨ n = 3 ∨ n = 4 ∨ n = 5 then s.disps.isEmpty
  else if n = 6 then s.peers.all (fun p => p.2.drained) && s.atomReqs.isEmpty && s.xfers.isEmpty
  else if n = 7 then s.control.isEmpty && s.ports.all fun p => p.2.transit.isEmpty
  else if n = 8 then s.flasks.all (fun p => p.2.state == 0) && s.heldFrames.isEmpty
  else if n = 9 then s.blocks.isEmpty
  else if n = 10 then !has 6
  else if n = 11 then s.groups.all fun p => p.2.running.isNone && p.2.queue.isEmpty
  else if n = 12 then s.balances.all (fun p => p.2.round.isNone) && !has 8
  else if n = 13 then s.heldReads.isEmpty
  else if n = 14 then s.copies.isEmpty
  else if n = 16 then (List.range 128).all fun i => s.rd Reg.checkStatus i != 1
  else true

/-- A unit whose halt is requested halts once it holds nothing. -/
def State.unitHalts (s : State) (n : Nat) : State :=
  if bit (s.rd Reg.unitHalt 0) n ∧ !bit (s.rd Reg.unitHalted 0) n ∧ n < 20 ∧ s.unitEmpty n then
    s.wr Reg.unitHalted 0 (setBit (s.rd Reg.unitHalted 0) n)
  else s

end Sys2Proof.Machine
end

