-- ==== Sys2Proof/Machine/Keeper.lean ====
section
/-! DEFINITION. PWR, KPR and BGD: the choice of a sleep state, waking, Dormant entry and exit, the keeper's feeds, and background work (R481 to R506). -/

set_option Elab.async false

set_option linter.unusedVariables false

namespace Sys2Proof.Machine

/-! ## Which state is allowed (R488, R489) -/

/-- The effective tolerance Tmin (R488). -/
def State.tmin (s : State) : Nat :=
  let a := s.ctxs.foldl (fun m p => if s.hostEnabled p.2.host && p.2.state != 7 then min m p.2.wakeTol else m) 0xFFFFFFFF
  s.peers.foldl (fun m p => if p.2.state = 2 ∧ p.2.wakeTol ≠ 0 then min m p.2.wakeTol else m) a

/-- The wake latency of a state in ticks, for R488. -/
def wakeLatency (n : Nat) : Nat := ([0, 1, 125, 1875, 250000] : List Nat).getD n 0

/-- A word is issuing or a unit has work (log entry 55). -/
def State.busyNow (s : State) : Bool :=
  s.ctxs.any (fun p => p.2.state == 2 || p.2.state == 3 || p.2.state == 4) || !s.copies.isEmpty || !s.planLoads.isEmpty || !s.patLoads.isEmpty ||
    s.disps.any (fun p => p.2.phase != 2 || !p.2.bins.isEmpty || !p.2.groups.isEmpty) || !s.control.isEmpty ||
    s.cmds.any (fun p => p.2.ready) || s.watchTable.any (·.hit) || s.groupQueues.any (fun p => !p.2.writing.isEmpty) ||
    (List.range 2).any (fun v => s.rd Reg.versionState v == 1) || !s.sharedPosts.isEmpty

/-- A command is in flight, other than a TALLY with Op 3 where that is allowed. -/
def State.commandsBusy (s : State) (anyWait : Bool) : Bool :=
  s.cmds.any fun p => !(anyWait && hOp p.2.header == 6 && fld p.2.header 258 256 == 3)

/-- A collective or round runs, a block is open, a flask is not Free, or a survey runs. -/
def State.unitsBusy (s : State) : Bool :=
  s.groups.any (fun p => p.2.running.isSome || !p.2.queue.isEmpty) || s.balances.any (fun p => p.2.round.isSome) || !s.blocks.isEmpty ||
    s.flasks.any (fun p => p.2.state != 0) || s.rd Reg.surveyState 0 == 1

/-- A frame is outstanding or held, an ACK pending, or a peer Joining. -/
def State.transportBusy (s : State) : Bool :=
  s.peers.any (fun p => !p.2.drained || !p.2.waiting.isEmpty || p.2.state == 1 ||
    [0, 4].any fun c => decide (0 < (p.2.rflow c).unacked) || !(p.2.rflow c).report.isEmpty || !(p.2.rflow c).held.isEmpty) ||
    !s.atomReqs.isEmpty || !s.heldFrames.isEmpty

/-- A resident plan hosts a flask. -/
def State.hostsFlasks (s : State) : Bool := s.plans.any fun p => !p.2.flasks.isEmpty

/-- A condition that only Dormant has fails. -/
def State.dormantUnset (s : State) : Bool :=
  s.rb Reg.forwardEnable 0 || (s.engineWindow (s.rd Reg.contextImageWindow 0)).isNone ||
    (s.engineAddr (s.rd Reg.dormantSaveWindow 0) 0 (80 * 2 ^ 20)).isNone

/-- SleepBlockers (16, SleepBlockers). -/
def State.blockers (s : State) : Nat :=
  let n := s.power + 1
  b2n s.dormantUnset + 2 * b2n s.hostsFlasks + 4 * b2n s.unitsBusy + 8 * b2n s.transportBusy + 16 * b2n (s.commandsBusy true) +
    32 * b2n s.busyNow + 64 * b2n (decide (s.power < 4 ∧ s.tmin < wakeLatency n)) + 128 * b2n (decide (s.rd Reg.maxSleepState 0 < n))

/-- Whether state n may be entered from the one before it, its delay aside. -/
def State.mayEnter (s : State) (n : Nat) : Bool :=
  s.power + 1 == n && s.rd Reg.bootState 0 == 3 && s.works 18 && decide (n ≤ s.rd Reg.maxSleepState 0) && decide (wakeLatency n ≤ s.tmin) &&
    !s.busyNow && (n == 1 || (!s.commandsBusy (n != 4) && !s.unitsBusy && !s.transportBusy)) && (decide (n ≤ 2) || !s.hostsFlasks) &&
    (n != 4 || !s.dormantUnset)

/-- The engine reaches state n. -/
def State.reach (s : State) (n : Nat) : State :=
  let old := s.power
  let gone := s.since s.stateSince
  let s := ((s.inc Reg.stateTicks old gone).wr Reg.powerState 0 n).inc Reg.stateEntries n 1
  { s.trace 18 0x60 0xFFFF 0 n gone with stateSince := s.tick, quietSince := s.tick }

/-- A number of core cycles in whole ticks, rounded up, at the clock in force (R14). -/
def State.cyclesTicks (s : State) (n : Nat) : Nat := ceilDiv (n * 1000) (32 * max 1 s.clockMhz)

def State.idleEntry (s : State) : State :=
  if s.mayEnter 1 ∧ s.elapsed s.quietSince (s.cyclesTicks (s.rd Reg.idleDelayCycles 0)) then s.reach 1 else s

def State.dozeEntry (s : State) : State :=
  if s.mayEnter 2 ∧ s.elapsed s.quietSince (s.rd Reg.dozeDelayTicks 0) then s.reach 2 else s

def State.restEntry (s : State) : State :=
  if s.mayEnter 3 ∧ s.elapsed s.quietSince (s.rd Reg.restDelayTicks 0) then s.reach 3 else s

/-! ## Dormant entry (R496) -/

/-- Whether a Dormant entry is under way: its announcements are out. -/
def State.entering (s : State) : Bool := s.power == 3 && s.peers.any fun p => p.2.sleepSent

/-- Step 1: the least recently used Live peers beyond 2,048 are left, SLEEP goes to the others. -/
def State.announceSleep (s : State) : State :=
  let live := sortBy (fun (a b : Nat × Peer) => decide (tickDiff b.2.used a.2.used < 0)) (s.peers.filter fun p => p.2.state == 2)
  let s := (live.drop 2048).foldl (fun s p => s.commandLeave p.1) s
  (live.take 2048).foldl (fun s p =>
    (s.modPeer p.1 fun q => { q with sleepSent := true, sleepAcked := false, mgmtSends := 1, mgmtTick := s.tick }).sendMgmt p.1 5) s

/-- Whether every announcement is answered, or has been sent as often as it may be. -/
def State.sleepAnswered (s : State) : Bool :=
  s.peers.all fun p => !(p.2.sleepSent && !p.2.sleepAcked || p.2.state == 3) ||
    (decide (s.rd Reg.retransmitLimit 0 + 1 ≤ p.2.mgmtSends) && s.elapsed p.2.mgmtTick (s.rd Reg.retransmitTicks 0))

/-- The landing-store buffers that hosts hold, in segment and index order: first byte and bytes (R496). -/
def State.heldBuffers (s : State) : List (Nat × Nat) :=
  (List.range 48).flatMap fun seg =>
    let c := seg / 8
    if s.rd Reg.segKind seg ≠ 1 then []
    else
      let first := ((List.range (seg % 8)).map fun k => s.segCount (8 * c + k)).foldl (· + ·) 0
      ((List.range (s.segCount seg)).filter fun i => match (s.buf c (first + i)).holder with
        | some r => decide (0x20 ≤ r)
        | none => false).map fun i => (s.rd Reg.segBase seg + i * bufSize c, bufSize c)

/-- Entries of a byte store moved by an offset. -/
def moved (t : Tab Byte) (from_ n dst : Nat) : Tab Byte := (Tab.keep t fun k _ => decide (from_ ≤ k) && decide (k < from_ + n)).map fun p => (p.1 - from_ + dst, p.2)

/-- The save image at an address, its zero bytes unlisted: plan cache, tallies, and the held landing buffers; the unit state image's layout is not given, and nothing is written for it (R496; log entry 56). -/
def State.saveImage4 (s : State) (base : Nat) : Tab Byte × Nat :=
  let tallies : Tab Byte := s.tallies.flatMap fun p => ((leBytes 8 p.2).zipIdx.map fun b => (base + 2 ^ 23 + 8 * p.1 + b.2, b.1)).filter fun b => b.2 != 0
  let bufs := s.heldBuffers.foldl (fun (acc : Tab Byte × Nat) b =>
    (acc.1 ++ moved s.landing b.1 b.2 (base + 2 ^ 24 + acc.2), acc.2 + b.2)) ([], 0)
  (moved s.planCache 0 (2 ^ 23) base ++ tallies ++ bufs.1, 2 ^ 24 + bufs.2)

/-- Steps 2 to 6: images written back, the save image and the keeper's records written, the lanes and the main rails released. -/
def State.goDormant (s : State) : State :=
  let s := { s with peers := Tab.mapVals s.peers fun _ p =>
    if (p.state == 2 && !p.sleepAcked) || p.state == 3 then p.forget else { p with sleepSent := false, sleepAcked := false } }
  let s := (s.ctxs.map (·.1)).foldl (fun s x => (s.writeImage x).modCtx x fun c => { c with residency := 3, place := 0 }) s
  let s := match s.engineAddr (s.rd Reg.dormantSaveWindow 0) 0 (80 * 2 ^ 20) with
    | none => s
    | some base =>
      let im := s.saveImage4 base
      { s with mem := im.1.foldl (fun (t : Tab Byte) (p : Nat × Byte) => Tab.set memDefault t p.1 p.2) (Tab.clearRange s.mem base im.2)
               saved := im.1, savedAt := some (base, im.2) }
  let s := { s.lanesOff with mainReq := false }.emit (.pin 0 0 0)
  s.reach 4

/-- Dormant entry goes a step on: the announcements first, the rest once they are answered (R496). -/
def State.dormantEntry (s : State) : State :=
  if s.mayEnter 4 ∧ s.elapsed s.quietSince (s.rd Reg.dormantDelayTicks 0) then
    let s := if s.entering then s else s.announceSleep
    if s.sleepAnswered then s.goDormant else s
  else s

/-! ## Waking (R490) -/

/-- A trigger in Dormant asks for the main rails. -/
def State.wakeDormant (s : State) : State :=
  if s.power = 4 ∧ !s.mainReq then { s with mainReq := true, bootTick := s.tick }.emit (.pin 0 0 1) else s

/-- An entry under way is undone: the peers told of it are told that the engine is awake. -/
def State.undoEntry (s : State) : State :=
  (s.peers.filter fun p => p.2.sleepSent).foldl (fun s p =>
    (s.modPeer p.1 fun q => { q with sleepSent := false, sleepAcked := false, waking := true, mgmtSends := 1, mgmtTick := s.tick }).sendMgmt p.1 7) s

/-- Any trigger: an entry under way is undone, a shallow sleep ends, and Dormant begins to end. -/
def State.rouse (s : State) : State :=
  if s.power = 4 then s.wakeDormant else (if s.entering then s.undoEntry else s).wake

/-- KeeperTick reaches a non-zero WakeAtTick. -/
def State.wakeAt (s : State) : State := if s.rd Reg.wakeAtTick 0 ≠ 0 ∧ s.rd Reg.wakeAtTick 0 = s.tick then s.rouse else s

/-- Whether the images read at a Dormant exit agree with the Dormant record (R497, R498). -/
def State.savedGood (s : State) : Bool :=
  match s.savedAt with
  | none => false
  | some (base, n) =>
    (Tab.keep s.mem fun k _ => decide (base ≤ k) && decide (k < base + n)) == sortBy (fun (a b : Nat × Byte) => decide (a.1 < b.1)) s.saved &&
      s.memStatus.all fun p => !(decide (base ≤ p.1) && decide (p.1 < base + n) && p.2 != 0)

/-- The keys of every layer of the resident plans read again and compared with the CRCs saved (R497, R498). -/
def State.reloadKeys (s : State) : State :=
  if !s.variant.scu then s
  else
    s.plans.foldl (fun s p =>
      p.2.layers.zipIdx.foldl (fun s l =>
        let ls := s.layerState p.1 l.2
        if !ls.usable then s
        else
          let r := s.readKeys p.2.host l.1
          if r.1 ∧ crc32c r.2.1 = ls.keyCrc then r.2.2.keysIn p.1 l.2 l.1 r.2.1
          else { r.2.2 with plans := Tab.modify r.2.2.plans p.1 fun q => { q with state := 3 } }) s) { s with gate := [] }

/-- The landing store as the exit leaves it: only the buffers that hosts hold have their contents. -/
def State.landingKept (s : State) : State :=
  let held := s.heldBuffers
  { s with landing := Tab.keep s.landing fun k _ => held.any fun b => decide (b.1 ≤ k) && decide (k < b.1 + b.2) }

/-- The exit's time from the trigger: KRD_MAIN_GOOD, PLL and calibration are over (R497, R499). -/
def State.exitReady (s : State) : Bool := s.power == 4 && s.mainReq && s.mainGood && s.elapsed s.bootTick 10000

/-- The stores as the exit finds them: the landing store's held buffers, and nothing in scratch, ports or the save record (R497). -/
def State.storesLeft (s : State) : State :=
  { s.landingKept with scratch := [], checks := Tab.keep s.checks fun k _ => k / 2 ^ 28 == keeperNo, ports := [], saved := [], savedAt := none }

/-- The exit's calibration run and its time (R497, R499). -/
def State.exitCounted (s : State) : State :=
  let s := { s.inc Reg.calibrationRuns 0 1 with timers := Tab.put s.timers 0 s.tick }
  s.wr Reg.wakeMaxTicks 4 (max (s.rd Reg.wakeMaxTicks 4) (min 250000 (s.since s.bootTick)))

/-- The Live peers are told that the engine is awake (R497). -/
def State.tellAwake (s : State) : State :=
  (s.peers.filter fun p => p.2.state == 2).foldl (fun s p =>
    (s.modPeer p.1 fun q => { q with waking := true, mgmtSends := 1, mgmtTick := s.tick }).sendMgmt p.1 7) s

/-- The engine leaves Dormant with its images restored: steps 2 to 6 (R497). The doorbell latch and the held accesses follow. -/
def State.leaveDormant (s : State) : State := (s.storesLeft.reloadKeys.exitCounted.reach 0).tellAwake

/-! ## Feeds (R484 to R486) -/

/-- KEEP_A has been low for 200 ns: the island moves to KEEP_B when that is good. -/
def State.feedToB (s : State) (bGood : Bool) : State :=
  if s.feedB ∨ !s.variant.keepB ∨ !bGood then s
  else ({ s with feedB := true, feedTick := s.tick }.inc Reg.feedSwitchOvers 0 1).raise { src := 0x1103, a := 1, b := 0 }

/-- KEEP_A has been good for 31,250 ticks: the island returns to it. -/
def State.feedToA (s : State) : State :=
  if !s.feedB ∨ !s.elapsed s.feedTick 31250 then s
  else
    let n := s.since s.feedTick
    (({ s with feedB := false }.inc Reg.feedSwitchOvers 0 1).inc Reg.ticksOnKeepB 0 n).raise { src := 0x1103, a := 0, b := n }

/-! ## Background work (R500 to R505) -/

/-- Whether a periodic task is due: its period has passed since it last ran. -/
def State.due (s : State) (task period : Nat) : Bool := s.elapsed (Tab.get 0 s.timers task) period

def State.ran (s : State) (task : Nat) : State := { s with timers := Tab.put s.timers task s.tick }

/-- Whether a word of a store holds live data (R501). -/
def State.liveWord (s : State) (st w : Nat) : Bool :=
  let a := w * 64
  let inside := fun (base n : Nat) => decide (base ≤ a) && decide (a < base + n)
  if st = 1 then s.layerStates.any fun p => p.2.usable && inside p.2.regionBase p.2.regionBytes
  else if st = 2 then
    (s.plans.any fun p => (s.planAreas p.2).any fun x => x.landing && inside x.base x.bytes) ||
      (match s.bufferAt a with
        | some (c, i) => (s.buf c i).holder.isSome
        | none => false)
  else if st = 3 then s.blocks.any fun p => inside p.2.base p.2.bytes
  else if 4 ≤ st ∧ st ≤ 7 then (List.range 64).any fun i => (Tab.find s.scratch ((st - 4) * 2 ^ 20 + a + i)).isSome
  else if st = 8 then s.plans.any (fun p => p.2.state != 1 && inside p.2.base p.2.bytes) || s.patterns.any fun p => p.2.state != 1 && inside p.2.base p.2.bytes
  else if st = 9 then s.ctxs.any fun p => p.2.residency == 2 && p.2.place == w / 8
  else false

/-- The event that a word's read reports: a context-cache word names its context (R436). -/
def State.burnishEv (s : State) (st w : Nat) : Ev :=
  match if st = 9 then s.ctxs.find? fun p => p.2.residency == 2 && p.2.place == w / 8 else none with
  | some p => { src := 0, ctx := some (p.1, p.2.heat), host := p.2.host, status := 0x17 }
  | none => { src := 0, b := if st = 2 then 0xFFFF else 0 }

/-- A live word read by burnish: corrected and written back, or reported. -/
def State.burnishWord (s : State) (st w : Nat) : State :=
  if s.liveWord st w then ((s.storeRead st (64 * w) 64 (s.burnishEv st w)).2).inc Reg.burnishWords 0 1 else s

/-- A full period of burnish is over. -/
def State.burnishPass (s : State) : State :=
  if s.due 5 (s.rd Reg.burnishPeriodTicks 0) then (s.ran 5).inc Reg.burnishPasses 0 1 else s

def State.burnishRead (s : State) (st w : Nat) : State :=
  if s.works 19 then (s.burnishWord st w).burnishPass else s

/-- KPR reads a keeper-store word every 1,525 ticks. -/
def State.keeperBurnish (s : State) (w : Nat) : State :=
  if s.due 3 1525 ∧ w < storeWords keeperNo then (s.storeRead keeperNo (64 * w) 64 { src := 0 }).2.ran 3 else s

/-- A burnish slice in Doze or Rest: its words are read, and the state and its counters stay (R502). -/
def State.burnishSlice (s : State) (words : List (Nat × Nat)) : State :=
  if (s.power = 2 ∨ s.power = 3) ∧ s.works 19 ∧ s.due 4 (s.rd Reg.burnishSliceTicks 0) then
    ((words.foldl (fun (s : State) (w : Nat × Nat) => s.burnishWord w.1 w.2) s).burnishPass).ran 4
  else s

/-- A calibration run; a measurement out of range keeps the trims (R503). -/
def State.calibrate (s : State) (inRange : Bool) : State :=
  if s.works 19 ∧ s.due 0 (s.rd Reg.calibrationPeriodTicks 0) then
    ((s.ran 0).inc Reg.calibrationRuns 0 1).inc Reg.calibrationRejects 0 (b2n (!inRange))
  else s

/-- The physical instances change places; no result does (R504). -/
def State.rotate (s : State) : State :=
  if s.works 19 ∧ s.due 1 (s.rd Reg.rotationPeriodTicks 0) then (s.ran 1).inc Reg.stressRotations 0 1 else s

/-- The counts a telemetry record reports, as totals. -/
def State.telemetryTotals (s : State) : List Nat :=
  let sum := fun (n : Nat) (o : Obj) => ((List.range n).map fun i => s.rd o i).foldl (· + ·) 0
  let events := ((sourceTable.map (fun (p : Nat × SourceRow) => p.1) ++ (List.range 20).map (· * 256)).map fun i => s.rd Reg.eventCount i).foldl (· + ·) 0
  [sum 1024 Reg.completionsPosted, s.rd Reg.copiesCommitted 0, sum 16 Reg.rowsWritten, s.rd Reg.framesSent 0, s.rd Reg.retransmits 0, events,
    s.rd Reg.traceShed 0, s.rd Reg.telemetryShed 0, s.rd Reg.alarmShed 0]

/-- The telemetry record of this period (R505); the sensors' readings are free values. -/
def State.telemetry (s : State) : State :=
  if s.works 19 ∧ (s.engineWindow (s.rd Reg.telemetryWindow 0)).isSome ∧ s.due 2 (s.rd Reg.telemetryPeriodTicks 0) then
    let now := s.telemetryTotals
    let sensor := fun (n w : Nat) => Config.sensor n s.free % 2 ^ w
    let part := now.zipIdx.foldl (fun (acc : Nat) (p : Nat × Nat) => acc + min (p.1 - Tab.get 0 s.teleBase p.2) 0xFFFFFFFF * 2 ^ (320 - 32 * p.2)) 0
    let body := s.recordHead 0 + sensor 0 16 * 2 ^ 432 + sensor 1 16 * 2 ^ 416 + s.clockMhz % 2 ^ 16 * 2 ^ 400 + sensor 2 16 * 2 ^ 384 +
      (if s.variant.keepB then sensor 3 16 else 0) * 2 ^ 368 + part
    let s := { s with free := s.free + 1, teleBase := now.zipIdx.map fun (p : Nat × Nat) => (p.2, p.1) }
    (s.ran 2).telemetryPut body
  else s

/-- The core clock is throttled or restored (R14). -/
def State.setClock (s : State) (mhz : Nat) : State := { s with clockMhz := mhz }

/-! ## The keeper tick -/

/-- What step does when no command waits: one keeper tick passes (R481), buckets refill (R187), and an armed queue injection takes hold (log entries 1, 54). -/
def State.keeperTick (s : State) : State :=
  let s := { s with tick := (s.tick + 1) % 2 ^ 48 }
  s.paceTick.queueInject

end Sys2Proof.Machine
end

