-- ==== Sys2Proof/Machine/Pages.lean ====
section
/-! DEFINITION. Accesses to the engine page region: doorbell pages, landing port pages, tally pages and ladle pages (R71 to R74, R291, R332, R393, R396, R542, R543), their held reads, and the accesses that wait for start-up or a Dormant exit (R492, R550). -/

set_option Elab.async false

set_option linter.unusedVariables false

namespace Sys2Proof.Machine

/-- A register of the page region. -/
inductive PageReg where
  | submitTail (i : Nat)
  | complHead (i : Nat)
  | submitHead (i : Nat)
  | complTail (i : Nat)
  | ringStatus (i : Nat)
  | channelId (c : Nat)
  | ringsRunning (c : Nat)
  | pop (h : Nat)
  | mark (h : Nat)
  | rewind (h : Nat)
  | release (h : Nat)
  | cursor (h : Nat)
  | add (h : Nat)
  | watch (h : Nat)
  | value (h : Nat)
  | alloc (h c : Nat)
  | free (h : Nat)
  | freeStatus (h : Nat)
deriving DecidableEq, Repr

/-- Which page an offset lies in (R543). -/
inductive Page where
  | doorbell (c : Nat)
  | landing (h : Nat)
  | tally (h : Nat)
  | ladle (h : Nat)
  | reserved
deriving DecidableEq, Repr

def pageAt (off : Nat) : Page :=
  if off < 0x100000 then .doorbell (off / 0x10000)
  else if off < 0x110000 then .landing (off / 0x1000 % 16)
  else if off < 0x120000 then .tally (off / 0x1000 % 16)
  else if off < 0x130000 then .ladle (off / 0x1000 % 16)
  else .reserved

/-- The register of a doorbell page at an offset in it. -/
def doorbellReg (c o : Nat) : Option PageReg :=
  if o < 0x8000 then
    let i := c * 64 + o / 0x200
    if o % 0x200 = 0x000 then some (.submitTail i)
    else if o % 0x200 = 0x008 then some (.complHead i)
    else if o % 0x200 = 0x010 then some (.submitHead i)
    else if o % 0x200 = 0x018 then some (.complTail i)
    else if o % 0x200 = 0x020 then some (.ringStatus i)
    else none
  else if o = 0x8000 then some (.channelId c)
  else if o = 0x8008 then some (.ringsRunning c)
  else none

/-- The register at an offset of the page region; reserved offsets hold none. -/
def pageReg (off : Nat) : Option PageReg :=
  let o := off % 0x1000
  match pageAt off with
  | .doorbell c => doorbellReg c (off % 0x10000)
  | .landing h =>
    if o = 0x000 then some (.pop h) else if o = 0x008 then some (.mark h) else if o = 0x010 then some (.rewind h)
    else if o = 0x018 then some (.release h) else if o = 0x020 then some (.cursor h) else none
  | .tally h =>
    if o = 0x000 then some (.add h) else if o = 0x008 then some (.watch h) else if o = 0x010 then some (.value h) else none
  | .ladle h =>
    if o < 0x030 ∧ o % 8 = 0 then some (.alloc h (o / 8)) else if o = 0x040 then some (.free h)
    else if o = 0x048 then some (.freeStatus h) else none
  | .reserved => none

/-- The width of a page register in bits. -/
def PageReg.width : PageReg → Nat
  | .ringsRunning _ | .pop _ | .add _ | .value _ | .alloc _ _ | .free _ => 64
  | _ => 32

/-- Whether an access carries the tag of the page's host (R542). -/
def State.pageOwned (s : State) (a : PageAccess) : Bool :=
  let h := a.hostTag % 16
  bit a.hostTag 4 && match pageAt a.offset with
    | .doorbell c => s.channelOwner c == some h
    | .landing g | .tally g | .ladle g => g == h
    | .reserved => false

/-- The register an access reaches: none where its width or host is wrong, or the offset is reserved (R71, R542). -/
def State.reached (s : State) (a : PageAccess) : Option PageReg :=
  match pageReg a.offset with
  | some r => if s.pageOwned a ∧ a.width = r.width then some r else none
  | none => none

/-- An ignored write counted where its page counts one (R71, R332). -/
def State.ignoredWrite (s : State) (off : Nat) : State :=
  match pageAt off with
  | .doorbell c => s.inc Reg.doorbellIgnored c 1
  | .tally _ => s.inc Reg.tallyRefused 0 1
  | _ => s

/-! ## Writes -/

/-- An add through the tally page; one outside the host's range is dropped and counted (R322, R324). -/
def State.pageAdd (s : State) (h v : Nat) : State :=
  if s.tallyOwned h (bits v 16 0) then s.tallyAdd (bits v 16 0) (bits v 63 17) else s.inc Reg.tallyRefused 0 1

/-- A Watch write; one that names a tally outside the host's range leaves Watch as it was (R332). -/
def State.pageWatchWrite (s : State) (h v : Nat) : State :=
  if s.tallyOwned h (bits v 16 0) then { s with pageWatch := Tab.put s.pageWatch h (bits v 16 0 + 1) }
  else s.inc Reg.tallyRefused 0 1

/-- The mark set to the cursor (R291). -/
def State.moveMark (s : State) (h : Nat) : State := s.modGroup h fun g => { g with mark := g.cursor }

/-- The cursor set back to the mark: the tables between pop again (R291). -/
def State.setCursor (s : State) (h : Nat) : State := (s.modGroup h fun g => { g with cursor := g.mark }).servePops h

/-- A Free on a host's page and what FreeStatus then reads (R396). -/
def State.pageFree (s : State) (h v : Nat) : State :=
  let out := s.freeOutcome v (0x20 + h)
  { (s.freeBuffer v (0x20 + h)) with freeStatus := Tab.set 0 s.freeStatus h out }

/-- A write that reaches a register. -/
def State.pageWrite (s : State) (r : PageReg) (off v : Nat) : State :=
  match r with
  | .submitTail i => s.doorbell i (v % 2 ^ 32)
  | .complHead i => s.headWrite i (v % 2 ^ 32)
  | .mark h => s.moveMark h
  | .rewind h => s.setCursor h
  | .release h => s.releaseTables h (v % 2 ^ 32)
  | .add h => s.pageAdd h (v % 2 ^ 64)
  | .watch h => s.pageWatchWrite h (v % 2 ^ 32)
  | .free h => s.pageFree h (v % 2 ^ 64)
  | _ => s.ignoredWrite off

/-! ## Reads -/

/-- Value of a tally page: the watched tally, 0 before the first accepted Watch write; bit 63 when poisoned (R332). -/
def State.pageValue (s : State) (h : Nat) : Nat × State :=
  match Tab.get 0 s.pageWatch h with
  | 0 => (0, s)
  | t + 1 =>
    let s := s.tallyCheck t
    (s.tally t + (if s.tallyBad.contains t then 2 ^ 63 else 0), s)

/-- The rings of a channel in State 1. -/
def State.runningRings (s : State) (c : Nat) : Nat :=
  (List.range 64).foldl (fun n k => if (s.ring (c * 64 + k)).state = 1 then setBit n k else n) 0

/-- A read of Pop: the next table, or the read is held (R291). -/
def State.pagePop (s : State) (h : Nat) : State :=
  (({ s with heldReads := s.heldReads.concat { host := h, cls := 8, tick := s.tick } } : State)).servePops h

/-- A read of Alloc: a buffer's handle, or the read is held (R393). -/
def State.pageAlloc (s : State) (h c : Nat) : State :=
  let g := s.request (0x20 + h) c
  match g.1 with
  | some v => g.2.emit (.pageData (allocOffset h c) (16 + h) v)
  | none => { g.2 with heldReads := g.2.heldReads ++ [{ host := h, cls := c, tick := s.tick }] }

/-- A read that reaches a register. -/
def State.pageRead (s : State) (r : PageReg) (off tag : Nat) : State :=
  let ans := fun (s : State) v => s.emit (.pageData off tag v)
  match r with
  | .submitTail i => ans s (s.ring i).submitTail
  | .complHead i => ans s (s.ring i).complHead
  | .submitHead i => ans s (s.ring i).submitHead
  | .complTail i => ans s (s.ring i).complTail
  | .ringStatus i => ans s (s.ring i).statusWord
  | .channelId c => ans s c
  | .ringsRunning c => ans s (s.runningRings c)
  | .pop h => s.pagePop h
  | .alloc h c => s.pageAlloc h c
  | .cursor h => ans s ((s.groupQueue h).cursor % 2 ^ 32)
  | .value h => let v := s.pageValue h; ans v.2 v.1
  | .freeStatus h => ans s (Tab.get 0 s.freeStatus h)
  | .mark _ | .rewind _ | .release _ | .add _ | .watch _ | .free _ => ans s 0

/-! ## Accesses -/

/-- An access that the engine takes now (R71, R542). -/
def State.pageNow (s : State) (a : PageAccess) : State :=
  match s.reached a, a.write with
  | some r, some v => s.pageWrite r a.offset v
  | some r, none => s.pageRead r a.offset a.hostTag
  | none, some _ => s.ignoredWrite a.offset
  | none, none => s.emit (.pageData a.offset a.hostTag 0)

/-- Whether an access is one that the doorbell latch takes in Dormant (R492). -/
def State.latches (s : State) (a : PageAccess) : Bool :=
  a.write.isSome && match s.reached a with
    | some (.submitTail _) | some (.complHead _) => true
    | _ => false

/-- An access at port 0: it waits before BootState 2 (R550); in Dormant it is latched or waits (R492). -/
def State.pageAccess (s : State) (a : PageAccess) : State :=
  if s.power = 4 then
    if s.latches a then { s with doorLatch := Tab.put s.doorLatch a.offset (a.write.getD 0) }
    else { s with heldPages := s.heldPages ++ [a] }
  else if !s.booted then { s with heldPages := s.heldPages ++ [a] }
  else s.pageNow a

/-- The accesses that waited, served in their order. -/
def State.servePages (s : State) : State :=
  s.heldPages.foldl State.pageNow { s with heldPages := [] }

/-- The latched doorbells applied (R492). -/
def State.applyLatch (s : State) : State :=
  s.doorLatch.foldl (fun s p => match pageReg p.1 with
    | some r => s.pageWrite r p.1 p.2
    | none => s) { s with doorLatch := [] }

/-- Whether an access belongs to a row: 0 SUBMIT_TAIL with every access that has no other row, 1 COMPLETION_HEAD, 2 POP and the rest of its page, 3 MARK, 4 REWIND, 5 RELEASE, 6 TALLY_PAGE_ADD, 7 WATCH and the rest of its page, 8 ALLOC and the rest of its page, 9 FREE. -/
def PageAccess.row (a : PageAccess) : Nat :=
  match pageReg a.offset, pageAt a.offset with
  | some (.complHead _), _ => 1
  | some (.mark _), _ => 3
  | some (.rewind _), _ => 4
  | some (.release _), _ => 5
  | some (.add _), _ => 6
  | some (.free _), _ => 9
  | _, .landing _ => 2
  | _, .tally _ => 7
  | _, .ladle _ => 8
  | _, _ => 0

/-- An access of one row's kind; of another kind, the row's event does not occur. -/
def State.pageRow (s : State) (row : Nat) (a : PageAccess) : State :=
  if a.row = row ∧ a.offset < 2 ^ 24 then s.pageAccess a else s

/-- A write to SubmitTail or CompletionHead that the latch takes in Dormant (R492). -/
def State.doorbellLatch (s : State) (a : PageAccess) : State :=
  if s.power = 4 ∧ s.latches a then s.pageAccess a else s

/-! ## Held reads that time out -/

/-- The oldest held Pop of a host has waited GroupStallTicks: it returns 0 (R291). -/
def State.popExpiry (s : State) (h : Nat) : State :=
  match s.heldReads.find? fun r => r.host == h && r.cls == 8 with
  | none => s
  | some r => if s.elapsed r.tick (s.rd Reg.groupStallTicks h) then (s.inc Reg.popEmpty 0 1).answerPop h 0 else s

/-- The oldest held Alloc of a host and class has waited AllocStallTicks: it returns 0 (R393). -/
def State.allocExpiry (s : State) (h c : Nat) : State :=
  match s.heldReads.find? fun r => r.host == h && r.cls == c with
  | none => s
  | some r =>
    if c < 6 ∧ s.elapsed r.tick (s.rd Reg.allocStallTicks 0) then
      ({ s with heldReads := s.heldReads.erase r }.inc Reg.allocTimeouts 0 1).emit (.pageData (allocOffset h c) (16 + h) 0)
    else s

/-! ## Start-up and the Dormant exit -/

/-- BootState 2: the waiting accesses are served (R550). -/
def State.bootServe (s : State) : State :=
  let t := s.bootReady
  if t.booted then t.servePages else t

/-- A warm reset; accesses that waited in Dormant are then served. -/
def State.warmServe (s : State) : State :=
  let t := s.warmReset
  if t.booted ∧ t.power ≠ 4 then t.servePages else t

/-- The Dormant exit: restored when the images agree with the record, otherwise as a warm reset leaves the engine (R497, R498); latched doorbells come before the held accesses. -/
def State.dormantExit (s : State) : State :=
  if s.exitReady then
    if s.savedGood then s.leaveDormant.applyLatch.servePages
    else ((s.inc Reg.dormantRestoreFailures 0 1).restart).servePages
  else s

end Sys2Proof.Machine
end

