-- ==== Sys2Proof/Machine/Access.lean ====
section
/-! DEFINITION. Objects of the dictionary: which instances exist, which principal sees and writes them, and what a read of each gives (R7, R428, R508 to R513, R535). -/

set_option Elab.async false

set_option linter.unusedVariables false

namespace Sys2Proof.Machine

/-! ## Instances (R508, R509, R535) -/

/-- How many instance numbers a family spans on a variant. -/
def Variant.instances (v : Variant) (ix : Nat) : Nat :=
  if ix = 0x0002 ∨ ix = 0x0004 then 17
  else if [0x0200, 0x0201, 0x0220, 0x0230, 0x2100, 0x4001, 0x4110, 0x5001, 0x5040, 0x6100, 0x8080, 0x1003].contains ix then 16
  else if ix = 0x0210 ∨ ix = 0x1020 then 1024
  else if ix = 0x1008 then 3
  else if [0x1012, 0x2104, 0x6104, 0x6200, 0x6210, 0x8040].contains ix then 65536
  else if [0x2120, 0x3003, 0x3110, 0x3120].contains ix then v.ports
  else if ix = 0x3002 then 2
  else if ix = 0x3130 ∨ ix = 0x7040 then 4096
  else if ix = 0x5020 then 64
  else if [0x6010, 0x6020, 0x6030].contains ix then 4
  else if ix = 0x7001 then 6
  else if ix = 0x7002 then 48
  else if ix = 0x7010 then 384
  else if ix = 0x7060 ∨ ix = 0xA000 then 256
  else if ix = 0x7080 then 128
  else if ix = 0x8001 then 20
  else if ix = 0x9011 then 5
  else 1

/-- Whether an object belongs to a unit that is fitted (R7). -/
def State.unitOf (s : State) (o : Obj) (i : Nat) : Bool :=
  if [0x1001, 0x1003, 0x1008].contains o.ix then s.variant.scu
  else if o.ix = 0x5020 ∨ (o.ix = 0x5010 ∧ 7 ≤ o.sub ∧ o.sub ≤ 0xD) then s.variant.col
  else if o.ix = 0x8001 then s.fitted i
  else true

/-- Whether an instance exists: inside its family's rule, on this variant. -/
def State.existsAt (s : State) (o : Obj) (i : Nat) : Bool :=
  decide (i < s.variant.instances o.ix) && s.unitOf o i &&
    (if o.ix = 0x7010 then requesters.contains (i / 8) && decide (i % 8 < 6)
     else if o.ix = 0x8040 then s.sourceExists i
     else true)

/-- The row of an index and subindex; subindex 0 holds the highest subindex defined (R508). -/
def dictObj (ix sub : Nat) : Option Obj :=
  if sub = 0 then (highestSub ix).map fun n => { ix := ix, sub := 0, ty := 1, acc := 4, keep := false, len := 1, reset := n }
  else findObj ix sub

/-! ## Who reads and writes (R428, R535) -/

/-- The host whose plan a balance group names, when that plan is held. -/
def State.balanceHost (s : State) (b : Nat) : Option Nat := (s.plan (s.rd Reg.balancePlan b)).map (·.host)

/-- The copy of a query object that a principal holds (R513). -/
def queryKey (o : Obj) (p : Nat) : Nat := o.key 0 * 32 + p
def State.query (s : State) (o : Obj) (p : Nat) : Nat := Tab.get 0 s.queries (queryKey o p)
def State.setQuery (s : State) (o : Obj) (p v : Nat) : State := { s with queries := Tab.set 0 s.queries (queryKey o p) v }

/-- The host of the context that a sequencer has stopped. -/
def State.excHost (s : State) (n : Nat) : Option Nat :=
  match Tab.find s.excs n with
  | none => none
  | some e => if e.stopped then (s.ctx e.ctx).map (·.host) else none

/-- Families that every host reads. -/
def allFamilies : List Nat :=
  [0x0000, 0x0001, 0x0100, 0x0110, 0x2120, 0x3001, 0x3002, 0x3100, 0x3110, 0x3130, 0x3140, 0x6001, 0x6002, 0x7000, 0x7001, 0x7002, 0x7008,
    0x7030, 0x9000, 0x9010, 0x9020]

/-- Engine-wide counters and status: hosts read them while ObserveGlobal is 1. -/
def globalFamilies : List Nat :=
  [0x0003, 0x1001, 0x1003, 0x1008, 0x1010, 0x2010, 0x3003, 0x3004, 0x3010, 0x3120, 0x4010, 0x5010, 0x6010, 0x6030, 0x7020, 0x8000, 0x8001,
    0x8040, 0x9011, 0x9030]

/-- Objects of a family of settings that are engine-wide counters all the same. -/
def counterOf (o : Obj) : Bool :=
  (o.ix == 0x2120 && decide (8 ≤ o.sub)) || (o.ix == 0x9000 && decide (5 ≤ o.sub)) || (o.ix == 0x9010 && o.sub == 0xE)

/-- Whether an instance is host h's own. -/
def State.ownInstance (s : State) (h : Nat) (o : Obj) (i : Nat) : Bool :=
  let ix := o.ix
  if [0x0004, 0x0200, 0x0230, 0x2100, 0x4001, 0x4110, 0x5001, 0x6100, 0x8080].contains ix then i == h
  else if ix = 0x0002 then i == h && o.sub == 4
  else if ix = 0x0201 ∨ ix = 0x0220 then s.channelOwner i == some h
  else if ix = 0x0210 then s.channelOwner (i / 64) == some h
  else if ix = 0x1012 ∨ ix = 0x2104 then (s.plan i).any (·.host == h)
  else if ix = 0x1020 then i / 64 == h
  else if ix = 0x5020 then s.rd Reg.groupHost i == h
  else if ix = 0x5040 then s.balanceHost i == some h || (s.balanceHost i).isNone
  else if ix = 0x5050 then decide (o.sub ≤ 3) || (s.plan (s.query Reg.queryPlan h)).any (·.host == h)
  else if ix = 0x6020 then true
  else if ix = 0x6104 then (Tab.find s.patterns i).any (·.host == h)
  else if ix = 0x6200 ∨ ix = 0x6210 then s.contextHost i == some h
  else if ix = 0x7010 then i / 8 == 0x20 + h
  else if ix = 0x7040 then decide (i < 3840) && i / 240 == h
  else if ix = 0x7060 then i / 16 == h
  else if ix = 0x7080 then i / 8 == h
  else if ix = 0xA000 then (Tab.find s.subs i).any (·.owner == h)
  else false

/-- Whether a principal may read an object's instance. -/
def State.sees (s : State) (p : Nat) (o : Obj) (i : Nat) : Bool :=
  let one := fun (o : Obj) =>
    if o.ix = 0x4101 then o.sub == 1 || s.rb Reg.observeGlobal p
    else if counterOf o ∨ globalFamilies.contains o.ix then s.rb Reg.observeGlobal p
    else allFamilies.contains o.ix || s.ownInstance p o i
  if p = 16 then true
  else if o.sub = 0 then (List.range (o.reset + 1)).any fun k => match findObj o.ix k with
    | some q => one q
    | none => false
  else one o

/-- The object of an address that a principal may read, if it is there (R509). -/
def State.lookup (s : State) (p ix sub i : Nat) : Option Obj :=
  match dictObj ix sub with
  | none => none
  | some o => if s.existsAt o i && s.sees p o i then some o else none

/-- Families whose RW and WO objects board management writes. -/
def boardFamilies : List Nat :=
  [0x0001, 0x0002, 0x0200, 0x0201, 0x2120, 0x3001, 0x3002, 0x3100, 0x3110, 0x3130, 0x3140, 0x4101, 0x5001, 0x6001, 0x6002, 0x7000, 0x7001,
    0x7002, 0x8000, 0x8001, 0x8040, 0x9000, 0x9010, 0x9020, 0xF000]

/-- Families whose RW and WO objects the host of the instance writes. -/
def hostFamilies : List Nat := [0x0210, 0x0230, 0x1012, 0x1020, 0x2100, 0x4001, 0x5040, 0x6100, 0x6200, 0x6210, 0x7060, 0x7080, 0x8080]

/-- Whether a principal may write an object's instance. -/
def State.mayWrite (s : State) (p : Nat) (o : Obj) (i : Nat) : Bool :=
  if o = Reg.peerQueryNode ∨ o = Reg.queryPlan ∨ o = Reg.queryLayer then true
  else if o = Reg.peerCommand ∨ o = Reg.groupHost then p == 16
  else if p = 16 then boardFamilies.contains o.ix || (o.ix == 0x7010 && decide (o.sub ≤ 2)) || (o.ix == 0x7040 && decide (3840 ≤ i))
  else if o.ix = 0x6020 then s.excHost i == some p
  else if o.ix = 0x7010 then o.sub == 3 && s.ownInstance p o i
  else if o.ix = 0x5020 ∨ o.ix = 0x7040 ∨ o.ix = 0x5050 then s.ownInstance p o i
  else hostFamilies.contains o.ix && s.ownInstance p o i

/-! ## What a read gives -/

/-- Layer regions of a gate slot that are loaded: first word and words. -/
def State.slotRegions (s : State) (n : Nat) : List (Nat × Nat) :=
  (s.layerStates.filter fun l => l.2.usable && l.2.regionBase / 2 ^ 24 == n && l.2.regionBytes != 0).map
    fun l => (l.2.regionBase % 2 ^ 24 / 64, l.2.regionBytes / 64)

/-- The largest run of words of a gate slot that no loaded region holds. -/
def State.slotFree (s : State) (n : Nat) : Nat :=
  let rs := s.slotRegions n
  let starts := 0 :: rs.map fun r => r.1 + r.2
  let gap := fun (a : Nat) =>
    if rs.any fun r => decide (r.1 ≤ a) && decide (a < r.1 + r.2) then 0
    else (rs.foldl (fun m r => if a ≤ r.1 then min m r.1 else m) 262144) - a
  starts.foldl (fun m a => max m (gap a)) 0

/-- A context's object of family 0x6210. -/
def State.ctxObj (s : State) (sub x : Nat) : Nat :=
  match s.ctx x with
  | none => if sub = 4 then 0xFF else if sub = 5 then 0xFFFFFFFF else 0
  | some c =>
    if sub = 0x1 then c.state + 8 * b2n c.replayPending
    else if sub = 0x2 then c.residency
    else if sub = 0x3 then (if c.residency = 1 then c.place % 16 * 4 + c.seq else 0)
    else if sub = 0x4 then (if c.state = 1 ∨ s.classOf x c = 4 then 0xFF else s.classOf x c)
    else if sub = 0x5 then c.wakeTol
    else if sub = 0x6 then c.heat
    else if sub = 0x7 then c.step
    else if sub = 0x8 then c.waitTicks
    else if sub = 0x9 then c.runCycles
    else if sub = 0xA then c.commandsDone
    else if sub = 0xB then c.takes
    else if sub = 0xC then c.aborts
    else if sub = 0xD then c.swapIns
    else if sub = 0xE then c.deadlineMisses
    else if sub = 0xF then c.fallbacks
    else 0

/-- An object of the exception state as a principal reads it; other hosts read zeros. -/
def State.excObj (s : State) (p sub n : Nat) : Nat :=
  if p ≠ 16 ∧ s.excHost n ≠ some p then 0
  else match Tab.find s.excs n with
    | none => 0
    | some e =>
      if sub = 1 then b2n e.stopped else if sub = 2 then e.ctx else if sub = 3 then e.code else if sub = 4 then e.pc
      else if sub = 5 then e.word else 0

/-- A plan's object of family 0x2104. -/
def State.planObj (s : State) (sub id : Nat) : Nat :=
  match s.plan id with
  | none => 0
  | some p =>
    if sub = 1 then p.state else if sub = 2 then p.window else if sub = 3 then p.crc else if sub = 4 then p.stamp
    else if sub = 5 then p.bytes else 0

/-- A pattern's object of family 0x6104. -/
def State.patternObj (s : State) (sub id : Nat) : Nat :=
  match Tab.find s.patterns id with
  | none => 0
  | some p =>
    if sub = 1 then p.state else if sub = 2 then p.kind else if sub = 3 then p.words.length else if sub = 4 then p.crc
    else if sub = 5 then p.stamp else 0

/-- A subscription's object of family 0xA000. -/
def State.subObj (s : State) (sub i : Nat) : Nat :=
  match Tab.find s.subs i with
  | none => 0
  | some x =>
    if sub = 1 then 1 else if sub = 2 then x.owner else if sub = 3 then x.ix * 2 ^ 24 + x.sub * 2 ^ 16 + x.inst
    else if sub = 4 then b2n x.onChange else if sub = 5 then x.period else if sub = 6 then x.leaseEnd
    else if sub = 7 then x.sent else x.missed

/-- The entry of the peer that a principal queries (R249, family 0x3004). -/
def State.peerObj (s : State) (p sub : Nat) : Nat :=
  let q := s.peer (s.query Reg.peerQueryNode p)
  let three := fun (f : SendFlow → Nat) => f q.data + f q.atomic * 2 ^ 32 + f q.coll * 2 ^ 64
  if sub = 1 then s.query Reg.peerQueryNode p else if sub = 2 then q.state else if sub = 3 then q.inc else if sub = 4 then q.caps
  else if sub = 5 then three fun f => (f.base + f.next) % 2 ^ 32 else if sub = 6 then three fun f => (f.base + f.cumSettled) % 2 ^ 32 else 0

/-- The resident contexts of sequencer n, and the one that runs, holds or has stopped there. -/
def State.seqObj (s : State) (sub n : Nat) : Nat :=
  let here := s.ctxs.filter fun c => c.2.residency == 1 && c.2.seq == n
  if sub = 1 then here.length
  else if sub = 2 then (match here.find? fun c => c.2.busy with
    | some c => c.1
    | none => 0xFFFFFFFF)
  else b2n (here.any fun c => c.2.take)

/-- An object of the unit's fault state that is no register. -/
def State.faultObj (s : State) (sub u : Nat) : Option Nat :=
  match (s.unitFaults u).first with
  | none => if sub = 4 ∨ sub = 5 then some 0 else none
  | some r => if sub = 4 then some 1 else if sub = 5 then some r.number else none

/-- The estimates, DispatchPattern and reset state of a context: those of its image once it is defined (R431, R433). -/
def State.defObj (s : State) (sub x : Nat) : Option Nat :=
  match s.ctx x with
  | none => if sub = 0xA then some 0 else none
  | some c =>
    if sub = 4 then some c.pattern else if sub = 6 then some c.estFull else if sub = 7 then some c.estReduced else if sub = 8 then some c.estSkip
    else if sub = 0xA then some (b2n (s.resetGoesOn x)) else none

/-- Keeper and power objects that are no registers. -/
def State.powerObj (s : State) (ix sub i : Nat) : Option Nat :=
  if ix = 0x9000 then
    if sub = 1 then some s.tick
    else if sub = 2 then some (b2n s.feedB)
    else if sub = 3 then some (Config.sensor 2 s.free % 2 ^ 16)
    else if sub = 4 then some (if s.variant.keepB then Config.sensor 3 s.free % 2 ^ 16 else 0)
    else if sub = 6 then some ((s.rd Reg.ticksOnKeepB 0 + if s.feedB then s.since s.feedTick else 0) % 2 ^ 64)
    else none
  else if ix = 0x9010 then
    if sub = 3 then some s.tmin else if sub = 4 then some s.blockers
    else if sub = 0x12 then some (s.rd Reg.unitHalted 0 ||| s.absentUnits) else none
  else if ix = 0x9011 ∧ sub = 1 then
    some ((s.rd Reg.stateTicks i + if s.power = i then s.since s.stateSince else 0) % 2 ^ 64)
  else none

/-- The value of an object that the register file does not hold, as principal p reads it. -/
def State.derived (s : State) (p : Nat) (o : Obj) (i : Nat) : Option Nat :=
  let ix := o.ix
  let sub := o.sub
  if sub = 0 then some o.reset
  else if ix = 0x0002 ∧ 5 ≤ sub then some (Tab.get ({} : KeyReplay) s.replays (2 * i + (sub - 5))).high
  else if ix = 0x0100 then
    if sub = 3 then some (variantCode s.variant) else if sub = 5 then some s.chipId else if sub = 6 then some s.mctpPen else none
  else if ix = 0x0110 then some s.variant.presence
  else if ix = 0x0210 ∧ sub = 7 then some (s.ring i).state
  else if ix = 0x0230 ∧ sub = 7 then some (s.ctxs.filter fun c => c.2.host == i && c.2.residency == 1).length
  else if ix = 0x1008 then
    some (if sub = 1 then ((s.slotRegions i).map (·.2)).foldl (· + ·) 0 else if sub = 2 then (s.slotRegions i).length else s.slotFree i)
  else if ix = 0x1012 then
    let m := s.maskState i
    some (if sub = 1 then m.pending else if sub = 2 then m.applyStep else if sub = 3 then m.inForce else b2n m.armed)
  else if ix = 0x2104 then some (s.planObj sub i)
  else if ix = 0x2120 then (if sub = 6 then some (s.committed i) else if sub = 7 then some (s.portRate i) else none)
  else if ix = 0x3003 ∧ sub ≤ 2 then some (s.inFlightOf i (sub - 1))
  else if ix = 0x3004 then some (s.peerObj p sub)
  else if ix = 0x3110 ∧ sub = 0xD then some (s.portStatus i)
  else if ix = 0x4101 then
    if sub = 2 then some s.blocks.length
    else if sub = 3 then
      some ((s.blocks.map fun b => ((List.range b.2.rows).filter fun t => (b.2.slot t).state == 2 || (b.2.slot t).state == 3).length).foldl (· + ·) 0)
    else none
  else if ix = 0x5050 ∧ sub ≤ 2 then some (s.query o p)
  else if ix = 0x6020 then some (s.excObj p sub i)
  else if ix = 0x6030 then some (s.seqObj sub i)
  else if ix = 0x6104 then some (s.patternObj sub i)
  else if ix = 0x6200 then s.defObj sub i
  else if ix = 0x6210 then some (s.ctxObj sub i)
  else if ix = 0x7001 then
    if sub = 1 then some (s.poolBuffers i) else if sub = 2 then some (s.pool i).free.length else if sub = 5 then some (s.poolState i) else none
  else if ix = 0x7010 then
    if sub = 2 then some (s.rd (quotaOf (i / 8)) i) else if sub = 4 then some (s.heldBy (i / 8) (i % 8)) else none
  else if ix = 0x8001 then s.faultObj sub i
  else if ix = 0x8040 then
    if sub = 1 then some (s.rd (promoteCountOf i) i) else if sub = 2 then some (s.rd (promoteWindowOf i) i) else none
  else if ix = 0xA000 then some (s.subObj sub i)
  else s.powerObj ix sub i

/-- The number an object of fixed length reads as; a WO object reads as zeros (R511). -/
def State.readNat (s : State) (p : Nat) (o : Obj) (i : Nat) : Nat :=
  if o.acc = 2 then 0 else (s.derived p o i).getD (s.rd o i)

/-- The bytes of a text. -/
def textBytes (t : String) : List Byte := t.toUTF8.toList.map fun b => BitVec.ofNat 8 b.toNat

/-- One entry of Slots or HostSlots after its first two bytes (R552). -/
def EscSlot.tail (e : EscSlot) : List Byte :=
  leBytes 2 e.fault.source ++ leBytes 2 e.fault.ctx ++ leBytes 2 0 ++ leBytes 8 e.deadline

/-- The bytes of a TEXT or BLOCK object. -/
def State.readBlock (s : State) (p : Nat) (o : Obj) (i : Nat) : List Byte :=
  if o = Reg.vendorName then textBytes "Monaesh Silicon"
  else if o = Reg.deviceName then textBytes "Krytdiux Dispatch Engine"
  else if o.ix = 0x5050 then
    let pl := s.query Reg.queryPlan p
    let l := s.query Reg.queryLayer p
    let ls := s.layerState pl l
    let e := s.layerE pl l
    if o.sub = 4 then ls.snapshot.flatMap (leBytes 4)
    else if o.sub = 5 then
      let t := if ls.pendUsed then biasTab (ls.pendBias.getD []) else ls.bias
      (List.range e).flatMap fun k => leBytes 2 (Tab.get 0 t k)
    else if ls.pendUsed then [] else (ls.pendBias.getD []).flatMap (leBytes 2)
  else if o = Reg.withdrawnList then s.withdrawnList.flatMap (leBytes 8)
  else if o = Reg.history then (s.unitFaults i).history.flatMap fun r => leBytes 32 r.number
  else if o = Reg.slots then
    (List.range 8).flatMap fun n => match Tab.find (s.unitFaults i).slots n with
      | none => List.replicate 16 0
      | some e => leBytes 1 1 ++ leBytes 1 (b2n e.fault.ctxValid) ++ e.tail
  else if o = Reg.hostSlots then
    (List.range 20).flatMap fun u => (List.range 8).flatMap fun n => match Tab.find (s.unitFaults u).slots n with
      | some e => if e.fault.reaction = 2 ∧ e.fault.ctxValid ∧ s.contextHost e.fault.ctx = some i then leBytes 1 u ++ leBytes 1 n ++ e.tail else []
      | none => []
  else []

/-- The value of any object as bytes. -/
def State.readBytes (s : State) (p : Nat) (o : Obj) (i : Nat) : List Byte :=
  if o.ty = 12 ∨ o.ty = 13 then s.readBlock p o i else leBytes o.len (s.readNat p o i)

end Sys2Proof.Machine
end

