-- ==== Sys2Proof/Machine/Writes.lean ====
section
/-! DEFINITION. Writes of dictionary objects: what is refused for the state it meets or for its value, and what an accepted write does (R13, R17, R511, and the rule of each object's chapter). -/

set_option Elab.async false

set_option linter.unusedVariables false

namespace Sys2Proof.Machine

/-! ## Values out of range (R13, R511) -/

/-- The number of an object within the dictionary. -/
def Obj.number (o : Obj) : Nat := o.ix * 256 + o.sub

/-- The least and greatest value of objects whose description gives a range or leaves upper bits reserved. -/
def limitTable : List (Nat × Nat × Nat) :=
  [(0x000103, 1, 64), (0x000105, 3125, 2 ^ 32), (0x000203, 0, 3), (0x020004, 0, 2 ^ 48 - 1), (0x020009, 0, 2 ^ 48 - 1),
   (0x300101, 1, 0xFFFEF), (0x30010B, 0, 256), (0x300111, 1, 8), (0x300112, 0, 1), (0x300204, 0, 0), (0x300401, 0, 0xFFFFF), (0x300407, 1, 3)] ++
  [(0x310005, 0, 1), (0x311002, 0, 2), (0x311005, 1, 4094), (0x311009, 16384, 229376), (0x31100B, 1, 32), (0x314001, 0, 0xFFFFF),
   (0x314004, 1, 256), (0x314005, 1, 8), (0x400103, 12, 24), (0x400105, 0, 1024), (0x410101, 3125, 2 ^ 32), (0x502002, 0, 15)] ++
  [(0x502005, 2, 256), (0x502007, 0, 2), (0x502009, 1, 8), (0x50200C, 0, 0x1FFFF), (0x504006, 0, 63), (0x504007, 1, 4096), (0x50400A, 1, 4096),
   (0x600101, 32, 2 ^ 32), (0x600202, 0, 3), (0x602006, 1, 3), (0x620003, 0, 1023), (0x700002, 1, 255)] ++
  [(0x700201, 0, 2), (0x704003, 0, 1), (0x704004, 0, 2 ^ 62 - 1), (0x704007, 0, 63), (0x704008, 0, 0xFFFFF), (0x704009, 0, 0xFFFFF),
   (0x706003, 1, 65536), (0x706004, 12, 40), (0x708002, 0, 3), (0x708003, 0, 2), (0x708008, 1, 2 ^ 32), (0x800001, 32, 2 ^ 32)] ++
  [(0x800002, 1, 2 ^ 32), (0x800003, 1, 16), (0x80010B, 0, 7), (0x901002, 0, 4), (0x901011, 0, 2 ^ 20 - 1), (0x902007, 12, 30),
   (0x90200A, 12, 30), (0x90200C, 0, 2 ^ 20 - 1)]

/-- Objects whose values are multiples of a number, where no later enable checks it (log entry 59). -/
def multipleTable : List (Nat × Nat) :=
  [(0x210001, 64), (0x300201, 64), (0x314006, 64), (0x400102, 64), (0x500101, 1024), (0x500102, 1024), (0x502004, 64), (0x610001, 64), (0x706002, 64)]

/-- Whether a value breaks its type, its range or its reserved bits. -/
def Obj.badValue (o : Obj) (v : Nat) : Bool :=
  (o.ty == 0 && decide (1 < v)) || (o.ty == 10 && decide (2 ^ 48 ≤ v)) ||
    (match limitTable.find? fun r => r.1 == o.number with
      | some (_, lo, hi) => decide (v < lo) || decide (hi < v)
      | none => false) ||
    (match multipleTable.find? fun r => r.1 == o.number with
      | some (_, m) => v % m != 0
      | none => false) ||
    (o == Reg.groupTally && bits v 30 17 != 0) || (o == Reg.hostFaultAck && (bits v 15 13 != 0 || bits v 7 3 != 0)) ||
    (o == Reg.rawEtherType && [0x86DD, 0x8100, 0x88A8, 0x8808].contains v)

/-- The unit whose halt an RWH object needs (R551). -/
def Obj.haltUnit (o : Obj) : Nat :=
  if o.ix = 0x3001 then 6 else if o.ix = 0x3100 ∨ o.ix = 0x3130 then 7 else if o.ix = 0x5001 then 10 else if o.ix = 0x6002 then 1
  else if o.ix = 0x7002 then 13 else if o.ix = 0x9010 then 18 else 19

/-! ## Segments and windows (R388, R413) -/

/-- Where a segment lies: landing store or on-chip network, first byte and bytes. -/
def State.segSpan (s : State) (seg : Nat) : Bool × Nat × Nat :=
  let n := s.segCount seg * bufSize (seg / 8)
  if s.rd Reg.segKind seg = 1 then (true, s.rd Reg.segBase seg, n)
  else match s.engineWindow (s.rd Reg.segWindow seg) with
    | some w => (false, s.rd Reg.winTarget w + s.rd Reg.segBase seg, n)
    | none => (false, 0, 0)

/-- Whether a segment as it stands breaks a rule of R388. -/
def State.segBad (s : State) (seg : Nat) : Bool :=
  let k := s.rd Reg.segKind seg
  let c := seg / 8
  let b := s.rd Reg.segBase seg
  let n := s.segCount seg * bufSize c
  if k = 0 then false
  else
    let ways := (List.range 16).foldl (fun m h => if s.hostEnabled h then m ||| s.rd Reg.landingWays h else m) 0
    let a := s.segSpan seg
    (k == 1 && (b % bufSize c != 0 || decide (2 ^ 26 < b + n) || !inWays (2 ^ 64 - 1 - ways) (2 ^ 20) b n)) ||
      (k == 2 && (match s.engineWindow (s.rd Reg.segWindow seg) with
        | some w => decide (s.rd Reg.winLength w < b + n)
        | none => true)) ||
      (List.range 48).any (fun o => let z := s.segSpan o; o != seg && s.rd Reg.segKind o != 0 && z.1 == a.1 && rangesMeet a.2.1 a.2.2 z.2.1 z.2.2) ||
      decide (2 ^ 20 < ((List.range 8).map fun j => s.segCount (8 * c + j)).foldl (· + ·) 0)

/-- The host that owns a window slot; the engine's own slots have none (R412). -/
def slotHost (w : Nat) : Option Nat := if w < 3840 then some (w / 240) else none

/-- Whether WinEnable 1 is refused for a slot (R413). -/
def State.winBad (s : State) (w : Nat) : Bool :=
  let id := s.rd Reg.winId w
  let lo := s.rd Reg.winHostBase w
  let n := s.rd Reg.winLength w
  let ladle := s.rd Reg.winKind w == 1
  let others := fun (ok : Nat → Bool) => (List.range 4096).any fun o => o != w && s.rb Reg.winEnable o && ok o
  id == 0 || id == 0xFFFF || others (fun o => s.rd Reg.winId o == id) || (List.range 16).any (fun h => s.rd Reg.landingWindowId h == id) ||
    lo % 64 != 0 || n % 64 != 0 || n == 0 || (!ladle && s.rd Reg.winTarget w % 64 != 0) ||
    (match slotHost w with
      | none => false
      | some h =>
        others (fun o => slotHost o == some h && rangesMeet lo n (s.rd Reg.winHostBase o) (s.rd Reg.winLength o)) ||
          (!ladle && hbmOutside (s.rd Reg.hbmChannelMask h) (s.rd Reg.winTarget w) n) ||
          (ladle && others fun o => slotHost o == some h && s.rd Reg.winKind o == 1))

/-! ## Refusals (R511) -/

/-- A ring of a channel is enabled or still runs out. -/
def State.channelBusyNow (s : State) (c : Nat) : Bool :=
  (List.range 64).any fun r => s.rb Reg.ringEnable (64 * c + r) || (s.ring (64 * c + r)).closing

/-- A plan of a host is resident or unloading. -/
def State.hostHasPlan (s : State) (h : Nat) : Bool := s.plans.any fun p => p.2.host == h && p.2.state != 1

/-- Whether a write is refused for the state it meets: LOCKED. -/
def State.lockedWrite (s : State) (p : Nat) (o : Obj) (i v : Nat) : Bool :=
  let ix := o.ix
  let sub := o.sub
  if ix = 0x0200 then (if sub = 1 then v == 0 && s.rb Reg.hostEnable i && s.hostOffRefused i else s.rb Reg.hostEnable i)
  else if ix = 0x0201 then s.channelBusyNow i
  else if ix = 0x0210 then (if sub = 1 then v == 1 && (s.ring i).closing else s.rb Reg.ringEnable i)
  else if ix = 0x1012 then sub == 1 && (s.maskState i).armed
  else if ix = 0x2100 then s.rd Reg.planLoadStatus i == 1
  else if o = Reg.transportEnable then v == 1 && s.rd Reg.activeVersion 0 == 0xFF
  else if o = Reg.activeVersion then decide (v < 2) && s.rd Reg.versionState v != 2
  else if o = Reg.tableLoadGo then v == 1 && !s.tableLoadOk i
  else if o = Reg.versionState then !s.versionFreeOk i
  else if o = Reg.peerCommand then v == 2 && !((s.peer (s.query Reg.peerQueryNode p)).state == 2 && (s.peer (s.query Reg.peerQueryNode p)).quiet)
  else if ix = 0x3110 then [2, 3, 5, 7].contains sub && s.rb Reg.portEnable i
  else if o = Reg.surveyGo then v == 1 && s.rd Reg.surveyState 0 == 1
  else if ix = 0x4001 then decide (sub ≤ 3) && s.hostHasPlan i
  else if ix = 0x5020 then sub != 1 && s.rb Reg.groupEnable i
  else if ix = 0x5040 then sub != 1 && sub != 0xF && s.rb Reg.balanceEnable i
  else if o = Reg.excAction then decide (1 ≤ v) && decide (v ≤ 3) && s.excRefused i v
  else if ix = 0x6100 then s.rd Reg.patternLoadStatus i == 1
  else if o = Reg.contextDefine then v == 1 && (s.ctx i).isSome
  else if o = Reg.contextUndefine then v == 1 && s.undefineRefused i
  else if o = Reg.contextReset then v == 1 && s.resetRefused i
  else if ix = 0x6200 then (match s.ctx i with
    | none => false
    | some c => sub == 3 || sub == 5 || c.state != 1)
  else if ix = 0x7040 then sub != 1 && s.rb Reg.winEnable i
  else if ix = 0x7060 then sub != 1 && sub != 5 && s.rb Reg.ownerEnable i
  else if o = Reg.checkGo then v == 1 && (s.rd Reg.checkStatus i == 1 || !s.rb Reg.checkEnable i)
  else if ix = 0x7080 then sub != 1 && s.rd Reg.checkStatus i == 1
  else if o = Reg.faultAck then decide (v < 8) && s.ackRefused i v
  else if o = Reg.hostFaultAck then s.hostAckRefused i (bits v 12 8) (bits v 2 0)
  else if o = Reg.unitHalt then s.haltRefused v
  else if ix = 0xF000 then sub != 1 && (!s.rb Reg.injectEnable 0 || (sub == 5 && v == 1 && s.injectLocked))
  else false

/-- Whether a write is refused for its value in the state it meets: BAD_VALUE. -/
def State.badWrite (s : State) (p : Nat) (o : Obj) (i v : Nat) : Bool :=
  let ix := o.ix
  let sub := o.sub
  if o = Reg.hostEnable then v == 1 && !s.rb Reg.hostEnable i && s.hostOnRefused i
  else if o = Reg.channelHost then v != 0xFF && !s.hostEnabled v
  else if o = Reg.ringEnable then v == 1 && !s.rb Reg.ringEnable i && s.ringBad i
  else if o = Reg.maskApplyStep then (s.maskState i).users.any fun x => match s.ctx x with
    | some c => !stepAbove v c.step
    | none => false
  else if o = Reg.planUnload then !s.holdsPlan i v
  else if ix = 0x2120 then decide (s.portRate i < s.committed i - s.rd o i + v)
  else if ix = 0x3001 ∧ 8 ≤ sub ∧ sub ≤ 0xA then
    let t := s.wr o 0 v
    decide (t.rd Reg.replyRetentionTicks 0 < (t.rd Reg.atomicRetryLimit 0 + 1) * t.rd Reg.atomicRetryTicks 0)
  else if o = Reg.peerCommand then !assignable (s.query Reg.peerQueryNode p)
  else if o = Reg.portMode then decide (modeBytes v * 256 < s.committed i)
  else if o = Reg.surveyPort then decide (s.variant.ports ≤ v)
  else if o = Reg.landingWindowId then
    v == 0xFFFF || (v != 0 && ((List.range 16).any (fun h => h != i && s.rd Reg.landingWindowId h == v) ||
      (List.range 4096).any fun w => s.rb Reg.winEnable w && s.rd Reg.winId w == v))
  else if ix = 0x5001 then
    let t := s.wr o i v
    let lo := t.rd Reg.tallyBase i
    let n := t.rd Reg.tallyCount i
    decide (131072 < lo + n) || (List.range 16).any fun h => h != i && rangesMeet lo n (t.rd Reg.tallyBase h) (t.rd Reg.tallyCount h) &&
      n != 0 && t.rd Reg.tallyCount h != 0
  else if o = Reg.balanceEnable then v == 1 && !s.rb Reg.balanceEnable i && s.balanceRefused i
  else if o = Reg.snapshotGo then v == 1 && (match s.plan (s.query Reg.queryPlan p) with
    | some q => !(q.state == 2 && q.host == p) || decide (q.layers.length ≤ s.query Reg.queryLayer p)
    | none => true)
  else if o = Reg.patternUnload then !s.holdsPattern i v
  else if o = Reg.contextDefine then v == 1 && s.defineRefused i
  else if o = Reg.lowWater then decide (s.rd Reg.highWater i ≤ v)
  else if o = Reg.highWater then decide (v ≤ s.rd Reg.lowWater i)
  else if ix = 0x7002 then (s.wr o i v).segBad i
  else if o = Reg.reserve then
    decide (s.poolBuffers (i % 8) < (requesters.map fun r => if 8 * r + i % 8 = i then v else s.rd Reg.reserve (8 * r + i % 8)).foldl (· + ·) 0)
  else if o = Reg.quota then decide (v < s.rd Reg.reserve i)
  else if o = Reg.winEnable then v == 1 && !s.rb Reg.winEnable i && s.winBad i
  else if o = Reg.promoteCount then promoteRefused i
  else if o = Reg.injectGo then v == 1 && s.injectBad
  else false

/-! ## What an accepted write does -/

/-- The subscriptions of a principal's key slot end (R534). -/
def State.endKeySubs (s : State) (p slot : Nat) : State :=
  { s with subs := s.subs.filter fun x => !(x.2.owner == p && x.2.keyId == slot) }

/-- A key slot loaded: its bit set, its replay state begun anew (R519). -/
def State.keyLoadSlot (s : State) (p slot v : Nat) : State :=
  let o := if slot = 0 then Reg.keySlot0 else Reg.keySlot1
  let s := (s.wr o p v).wr Reg.keyState p (setBit (s.rd Reg.keyState p) slot)
  { s with replays := Tab.drop s.replays (2 * p + slot) }.endKeySubs p slot

/-- Key slots of a principal cleared (R519). -/
def State.keyRevoked (s : State) (p v : Nat) : State :=
  let one := fun (s : State) slot =>
    if bit v slot then
      let o := if slot = 0 then Reg.keySlot0 else Reg.keySlot1
      ((s.wr o p 0).wr Reg.keyState p (clearBit (s.rd Reg.keyState p) slot)).endKeySubs p slot
    else s
  one (one s 0) 1

/-- RingEnable, once accepted (R69, R70). -/
def State.ringEnableWrite (s : State) (i v : Nat) : State :=
  if v = 1 ∧ !s.rb Reg.ringEnable i then s.ringOn i else if v = 0 ∧ s.rb Reg.ringEnable i then s.ringOff i else s

/-- PortEnable (R268). -/
def State.portEnableWrite (s : State) (i v : Nat) : State :=
  if v = 1 ∧ !s.rb Reg.portEnable i then s.portOn i else if v = 0 ∧ s.rb Reg.portEnable i then s.portOff i else s

/-- GroupEnable: COL begins to read the member list, or the group goes (R333). -/
def State.groupEnableWrite (s : State) (g v : Nat) : State :=
  if v = 1 ∧ !s.rb Reg.groupEnable g then (s.wr Reg.groupEnable g 1).wr Reg.groupStatus g 1
  else if v = 0 ∧ s.rb Reg.groupEnable g then s.groupOff g else s

/-- BalanceEnable, once accepted (R349). -/
def State.balanceEnableWrite (s : State) (b v : Nat) : State :=
  if v = 1 ∧ !s.rb Reg.balanceEnable b then s.balanceOn b else if v = 0 ∧ s.rb Reg.balanceEnable b then s.balanceOff b else s

/-- A session watch set: its counters at 0 (R162). -/
def State.watchSessionWrite (s : State) (i v : Nat) : State :=
  (((s.wr Reg.watchSession i v).wr Reg.watchSkims i 0).wr Reg.watchSkips i 0).wr Reg.watchFallbackRows i 0

/-- The pending mask armed for its apply step (R157). -/
def State.maskArm (s : State) (id v : Nat) : State := s.modMask id fun m => { m with applyStep := v, armed := true }

/-- PeerCommand for the queried peer. -/
def State.peerCommandWrite (s : State) (p v : Nat) : State :=
  let n := s.query Reg.peerQueryNode p
  if v = 1 then s.commandJoin n else if v = 2 then s.commandLeave n else s.commandDead n

/-- ExcAction, once accepted (R385). -/
def State.excWrite (s : State) (n v : Nat) : State := if v = 1 then s.excResume n else if v = 2 then s.excSkip n else s.excKill n

/-- The cached entries of an owner table dropped (R419). -/
def State.ownerFlush (s : State) (t : Nat) : State := { s with owners := s.owners.filter fun e => e.1 / 2 ^ 16 != t }

/-- A ladle setting of a class changed: Pressed and the held requests are tested anew. -/
def State.retest (s : State) (c : Nat) : State := (s.pressure c).serveHeld

/-- An object of a context's definition: the image of a defined one follows (R431). -/
def State.defWrite (s : State) (o : Obj) (x v : Nat) : State :=
  (s.wr o x v).modCtx x fun c =>
    if o.sub = 4 then { c with pattern := v } else if o.sub = 6 then { c with estFull := v } else if o.sub = 7 then { c with estReduced := v }
    else { c with estSkip := v }

/-- An action object written 1. -/
def State.actionWrite (s : State) (p : Nat) (o : Obj) (i : Nat) : State :=
  if o = Reg.hostAccountingClear then s.hostAccountingClear i
  else if o = Reg.tableLoadGo then s.tableLoadGo i
  else if o = Reg.linkEventClear then s.wr Reg.linkEventPending 0 0
  else if o = Reg.portReset then s.portReset i false
  else if o = Reg.surveyGo then s.surveyGo
  else if o = Reg.rejoin then s.rejoin i
  else if o = Reg.snapshotGo then s.snapshotLoads (s.query Reg.queryPlan p) (s.query Reg.queryLayer p)
  else if o = Reg.contextDefine then s.contextDefine i
  else if o = Reg.contextUndefine then s.contextUndefine i
  else if o = Reg.contextReset then s.contextReset i
  else if o = Reg.accountingClear then s.accountingClear i
  else if o = Reg.ownerFlush then s.ownerFlush i
  else if o = Reg.checkGo then s.checkGo i
  else if o = Reg.fatalStopNow then s.fatalStopNow
  else if o = Reg.firstErrorRearm then s.rearm i
  else if o = Reg.historyDrain then s.drainHistory i
  else if o = Reg.wakeNow then s.rouse
  else if o = Reg.engineRun then s.engineRun
  else if o = Reg.warmResetNow then s.warmServe
  else if o = Reg.coldResetNow then s.coldReset false
  else if o = Reg.injectGo then s.injectGo
  else s

/-- The effect of an accepted write. -/
def State.applyWrite (s : State) (p : Nat) (o : Obj) (i v : Nat) : State :=
  if o.acc = 2 ∧ o.ty = 0 then (if v = 1 then s.actionWrite p o i else s)
  else if o = Reg.keySlot0 then s.keyLoadSlot i 0 v
  else if o = Reg.keySlot1 then s.keyLoadSlot i 1 v
  else if o = Reg.keyRevoke then s.keyRevoked i v
  else if o = Reg.hostEnable then (s.hostEnableWrite i v).2
  else if o = Reg.ringEnable then s.ringEnableWrite i v
  else if o = Reg.maskPending then s.modMask i fun m => { m with pending := v }
  else if o = Reg.maskApplyStep then s.maskArm i v
  else if o = Reg.watchSession then s.watchSessionWrite i v
  else if o = Reg.planLoadGo then s.planLoadGo i v
  else if o = Reg.planUnload then s.planUnload v
  else if o = Reg.activeVersion then s.activate v
  else if o = Reg.versionState then s.versionFree i
  else if o = Reg.peerCommand then s.peerCommandWrite p v
  else if o = Reg.peerQueryNode ∨ o = Reg.queryPlan ∨ o = Reg.queryLayer then s.setQuery o p v
  else if o = Reg.portEnable then s.portEnableWrite i v
  else if o = Reg.groupEnable then s.groupEnableWrite i v
  else if o = Reg.balanceEnable then s.balanceEnableWrite i v
  else if o = Reg.excAction then s.excWrite i v
  else if o = Reg.patternLoadGo then s.patternLoadGo i v
  else if o = Reg.patternUnload then s.patternUnload v
  else if o = Reg.dispatchPattern ∨ o = Reg.estFull ∨ o = Reg.estReduced ∨ o = Reg.estSkip then s.defWrite o i v
  else if o = Reg.lowWater ∨ o = Reg.highWater then (s.wr o i v).retest i
  else if o.ix = 0x7002 then ((s.wr o i v).buildPool (i / 8)).serveHeld
  else if o = Reg.quota then (s.wr (quotaOf (i / 8)) i v).retest (i % 8)
  else if o = Reg.reserve then (s.wr o i v).retest (i % 8)
  else if o = Reg.faultClear then s.faultClear i v
  else if o = Reg.faultAck then s.ackSlot i v
  else if o = Reg.promoteCount then s.promoteWrite i false v
  else if o = Reg.promoteWindowTicks then s.promoteWrite i true v
  else if o = Reg.hostFaultAck then s.ackSlot (bits v 12 8) (bits v 2 0)
  else if o = Reg.peerWakeTolerance then (s.wr o i v).announceTolerance
  else if o = Reg.unitHalt then s.unitHaltWrite v
  else s.wr o i v

/-- A WRITE of a principal to an address: its op status and the state after (R509 to R511). -/
def State.writeObj (s : State) (p ix sub i : Nat) (len v : Nat) : Nat × State :=
  match s.lookup p ix sub i with
  | none => (1, s)
  | some o =>
    if o.acc = 0 ∨ o.acc = 4 then (2, s)
    else if !s.mayWrite p o i then (3, s)
    else if len ≠ o.len then (7, s)
    else if o.acc = 3 ∧ s.unitRuns o.haltUnit then (4, s)
    else if s.lockedWrite p o i v then (5, s)
    else if o.badValue v ∨ s.badWrite p o i v then (6, s)
    else (0, s.applyWrite p o i v)

/-! ## The rows -/

/-- Whether the dictionary takes a write of a principal now: started up, awake, MCTP alone in Fatal pending, the host enabled (R514, R531, R550). -/
def State.dictOpen (s : State) (p : Nat) : Bool :=
  s.booted && s.power != 4 && (p == 16 || (!s.fatal && s.hostEnabled p))

/-- A write of one object by a principal, as one applied op (R524, R536). -/
def State.dictWrite (s : State) (p : Nat) (o : Obj) (i v : Nat) : State :=
  if s.dictOpen p ∧ v < 2 ^ (8 * o.len) then ((s.writeObj p o.ix o.sub i o.len v).2).inc Reg.aapOps 0 1 else s

end Sys2Proof.Machine
end

