-- ==== Sys2Proof/Machine/Aap.lean ====
section
/-! DEFINITION. AAP: messages, op records, authentication, replay, DICT commands, relay frames, MCTP and subscriptions (R514 to R534, R536). -/

set_option Elab.async false

set_option linter.unusedVariables false

namespace Sys2Proof.Machine

/-! ## Messages and op records (R515) -/

/-- The AAP message header by its fields. -/
structure AapHead where
  version : Nat
  msgType : Nat
  principal : Nat
  keyId : Nat
  noTag : Bool
  stop : Bool
  opCount : Nat
  bytes : Nat
  msgStatus : Nat
  target : Nat
  missed : Nat
  seq : Nat
  inc : Nat
  rsvd : Nat
deriving DecidableEq, Repr

def aapHeadOf (x : Nat) : AapHead :=
  { version := bits x 255 248, msgType := bits x 247 245, principal := bits x 244 240, keyId := bits x 239 239, noTag := bit x 238
    stop := bit x 237, opCount := bits x 231 224, bytes := bits x 223 200, msgStatus := bits x 199 192, target := bits x 191 172
    missed := bits x 171 156, seq := bits x 127 64, inc := bits x 63 48
    rsvd := bits x 236 232 + bits x 155 128 + bits x 47 0 }

def AapHead.number (h : AapHead) : Nat :=
  h.version * 2 ^ 248 + h.msgType * 2 ^ 245 + h.principal * 2 ^ 240 + h.keyId * 2 ^ 239 + b2n h.noTag * 2 ^ 238 + b2n h.stop * 2 ^ 237 +
    h.opCount * 2 ^ 224 + h.bytes * 2 ^ 200 + h.msgStatus * 2 ^ 192 + h.target * 2 ^ 172 + h.missed * 2 ^ 156 + h.seq * 2 ^ 64 + h.inc * 2 ^ 48

/-- One op record: its header as a number, and its value of Length bytes. -/
abbrev AapOp := Nat × List Byte

def AapOp.code (o : AapOp) : Nat := bits o.1 127 124
def AapOp.ix (o : AapOp) : Nat := bits o.1 119 104
def AapOp.sub (o : AapOp) : Nat := bits o.1 103 96
def AapOp.inst (o : AapOp) : Nat := bits o.1 95 80
def AapOp.off (o : AapOp) : Nat := bits o.1 79 48
def AapOp.len (o : AapOp) : Nat := bits o.1 47 32
def AapOp.aux (o : AapOp) : Nat := bits o.1 31 0
def AapOp.bearsWrite (o : AapOp) : Bool := o.code == 2 || o.code == 5 || o.code == 6

/-- The op records of a message: they fill its bytes exactly (check 6 of R523). -/
def parseOps : Nat → List Byte → Option (List AapOp)
  | 0, l => if l.isEmpty then some [] else none
  | n + 1, l =>
    let h := beNat (l.take 16)
    let len := bits h 47 32
    let area := roundUp len 8
    if l.length < 16 + area ∨ 4096 < len then none
    else (parseOps n (l.drop (16 + area))).map fun t => (h, (l.drop 16).take len) :: t

/-- The answer of an op: status, Aux and value. -/
structure OpAns where
  status : Nat
  aux : Nat
  value : List Byte
deriving DecidableEq, Repr

/-- An op record of a response: its header with status and Aux, and its value area (R516). -/
def AapOp.answer (o : AapOp) (a : OpAns) : List Byte :=
  beBytes 16 (o.1 - bits o.1 123 120 * 2 ^ 120 - o.aux + a.status % 16 * 2 ^ 120 + a.aux % 2 ^ 32) ++
    slice (slice a.value 0 o.len) 0 (roundUp o.len 8)

/-! ## READ, WRITE, DESCRIBE and NEXT (R510, R517) -/

/-- A READ. -/
def State.opRead (s : State) (p : Nat) (o : AapOp) : OpAns :=
  match s.lookup p o.ix o.sub o.inst with
  | none => ⟨1, 0, []⟩
  | some b =>
    let v := s.readBytes p b o.inst
    if b.ty = 12 ∨ b.ty = 13 then ⟨0, v.length, slice v o.off o.len⟩
    else if o.off ≠ 0 ∨ o.len < b.len then ⟨7, 0, []⟩
    else ⟨0, b.len, v⟩

/-- The record DESCRIBE gives; its byte 3 is open. -/
def State.opDescribe (s : State) (p free : Nat) (o : AapOp) : OpAns :=
  match s.lookup p o.ix o.sub o.inst with
  | none => ⟨1, 0, []⟩
  | some b =>
    if o.len < 16 then ⟨7, 0, []⟩
    else
      let n := if b.ty = 12 ∨ b.ty = 13 then (s.readBytes p b o.inst).length else b.len
      let r := if b.sub = 0 ∨ b.ty ≤ 10 then b.reset else 0
      ⟨0, 0, leBytes 1 b.ty ++ leBytes 1 b.acc ++ leBytes 1 (b2n b.keep) ++ leBytes 1 free ++ leBytes 4 n ++ leBytes 8 r⟩

/-- The first address at or above an instance of one object that a principal may read. -/
def State.nextInst (s : State) (p ix sub first : Nat) : Option Nat :=
  match dictObj ix sub with
  | none => none
  | some o => ((List.range (s.variant.instances ix)).find? fun i => decide (first ≤ i) && s.existsAt o i && s.sees p o i).map
      fun i => ix * 2 ^ 24 + sub * 2 ^ 16 + i

/-- NEXT: the first address above the given one in order of index, subindex and instance. -/
def State.nextAddr (s : State) (p ix sub i : Nat) : Nat :=
  let subs := fun (f : Nat × List Obj) => (0 :: f.2.map (·.sub)).map fun k => (f.1, k)
  let all := families.flatMap subs
  let after := all.filter fun a => decide (ix < a.1) || (a.1 == ix && decide (sub ≤ a.2))
  (after.findSome? fun a => s.nextInst p a.1 a.2 (if a = (ix, sub) then i + 1 else 0)).getD 0xFFFFFFFFFFFFFFFF

def State.opNext (s : State) (p : Nat) (o : AapOp) : OpAns :=
  if o.len < 8 then ⟨7, 0, []⟩ else ⟨0, 0, leBytes 8 (s.nextAddr p o.ix o.sub o.inst)⟩

/-- A WRITE. -/
def State.opWrite (s : State) (p : Nat) (o : AapOp) : Nat × State :=
  s.writeObj p o.ix o.sub o.inst (if o.off = 0 then o.len else 2 ^ 20) (leNat o.2)

/-! ## Sending -/

/-- The key of a principal's slot. -/
def State.aapKey (s : State) (p slot : Nat) : List Byte := leBytes 32 (s.rd (if slot = 0 then Reg.keySlot0 else Reg.keySlot1) p)

/-- Whether a key slot is loaded (R519). -/
def State.keyLoaded (s : State) (p slot : Nat) : Bool := bit (s.rd Reg.keyState p) slot

/-- What stands before an AAP message over MCTP: message type 0x7F and MctpVendorPen (R529; log entry 63). -/
def State.mctpHead (s : State) : List Byte := leBytes 1 0x7F ++ beBytes 4 s.mctpPen

/-- A message sent to where it goes: the boundary, a relay frame, or the command that carried the request. -/
def State.sendAap (s : State) (dest : AapDest) (l : List Byte) : State :=
  match dest with
  | .relay node => s.queueControl { cls := 5, src := s.nodeId, dst := node, op := 0x10, payload := l } 4
  | .ring uid => (s.setResult uid l).makeReady uid 0
  | .mctp e t => s.emit (.message (.mctp e t) (s.mctpHead ++ l))
  | .udp a p e v => s.emit (.message (.udp a p e v) l)

/-! ## Subscriptions (R532 to R534) -/

/-- A notification of a subscription: one READ op that carries the value, counted and tagged (R533). -/
def State.notify (s : State) (i : Nat) (missed : Nat) : State :=
  match Tab.find s.subs i with
  | none => s
  | some x =>
    match dictObj x.ix x.sub with
    | none => s
    | some o =>
      let v := s.readBytes x.owner o x.inst
      let n := min v.length 4096
      let d := s.draw
      let s := d.2
      let op : AapOp := (2 ^ 124 + x.ix * 2 ^ 104 + x.sub * 2 ^ 96 + x.inst * 2 ^ 80 + n * 2 ^ 32, v.take n)
      let body := op.answer ⟨0, v.length, v⟩
      let h : AapHead :=
        { version := 1, msgType := 2, principal := x.owner, keyId := x.keyId, noTag := false, stop := false, opCount := 1
          bytes := 32 + body.length, msgStatus := d.1 % 256, target := d.1 / 256 % 2 ^ 20, missed := missed % 2 ^ 16, seq := x.built + 1
          inc := s.rd Reg.incarnation 0, rsvd := 0 }
      let m := beBytes 32 h.number ++ body
      let s := { s with subs := Tab.put s.subs i { x with built := x.built + 1, sent := x.sent + 1, lastVal := v, gap := 0 } }
      (s.inc Reg.aapNotifications 0 1).sendAap x.dest (m ++ aapTag (s.aapKey x.owner x.keyId) m)

/-- SUBSCRIBE: the lowest free instance, or the renewal of a subscription to the same object, mode and destination. -/
def State.opSubscribe (s : State) (p key : Nat) (dest : AapDest) (o : AapOp) : OpAns × State :=
  let mode := bit o.aux 31
  let period := bits o.aux 30 0
  let lease := tickAdd s.tick (s.rd Reg.subLeaseTicks 0)
  match s.lookup p o.ix o.sub o.inst with
  | none => (⟨1, 0, []⟩, s)
  | some _ =>
    if period < 3125 then (⟨6, 0, []⟩, s)
    else match s.subs.find? fun x => x.2.owner == p && x.2.ix == o.ix && x.2.sub == o.sub && x.2.inst == o.inst && x.2.onChange == mode &&
        x.2.dest == dest with
      | some x => (⟨0, x.1, []⟩, { s with subs := Tab.put s.subs x.1 { x.2 with leaseEnd := lease } })
      | none =>
        match (List.range 256).find? fun i => (Tab.find s.subs i).isNone with
        | none => (⟨10, 0, []⟩, s)
        | some i =>
          if s.rd Reg.subsPerPrincipal 0 ≤ (s.subs.filter fun x => x.2.owner == p).length then (⟨10, 0, []⟩, s)
          else
            let x : Sub := { owner := p, ix := o.ix, sub := o.sub, inst := o.inst, onChange := mode, period := period, leaseEnd := lease
                             dest := dest, keyId := key, nextTick := tickAdd s.tick period }
            (⟨0, i, []⟩, { s with subs := Tab.put s.subs i x })

/-- The periodic subscriptions that a message began build their first notification after its response (R533). -/
def State.startSubs (s : State) (new : List Nat) : State :=
  new.foldl (fun s i => match Tab.find s.subs i with
    | some x => if x.onChange ∨ x.built ≠ 0 then s else s.notify i 0
    | none => s) s

/-- UNSUBSCRIBE: the principal's own subscription of an instance ends. -/
def State.opUnsubscribe (s : State) (p : Nat) (o : AapOp) : OpAns × State :=
  match Tab.find s.subs o.inst with
  | none => (⟨1, 0, []⟩, s)
  | some x => if x.owner = p then (⟨0, 0, []⟩, { s with subs := Tab.drop s.subs o.inst }) else (⟨1, 0, []⟩, s)

/-- A period of a periodic subscription is over (R533); none is built in Dormant. -/
def State.periodOver (s : State) (i : Nat) : State :=
  match Tab.find s.subs i with
  | none => s
  | some x =>
    if x.onChange ∨ !tickReached s.tick x.nextTick ∨ s.power = 4 ∨ s.fatal then s
    else { s with subs := Tab.put s.subs i { x with nextTick := tickAdd x.nextTick x.period } }.notify i x.gap

/-- The scan of the on-change subscriptions (R533): a value that differs from the last one sent is notified. -/
def State.changeScan (s : State) : State :=
  if !s.elapsed (Tab.get 0 s.timers 6) (s.rd Reg.changeScanTicks 0) ∨ s.power = 4 ∨ s.fatal ∨ !s.booted then s
  else
    let s := { s with timers := Tab.put s.timers 6 s.tick }
    ((s.subs.filter fun x => x.2.onChange).map (·.1)).foldl (fun s i => match Tab.find s.subs i with
      | none => s
      | some x => match dictObj x.ix x.sub with
        | none => s
        | some o => if x.built ≠ 0 ∧ s.readBytes x.owner o x.inst = x.lastVal then s else s.notify i x.gap) s

/-- A subscription whose lease is over ends (R534). -/
def State.leaseOver (s : State) (i : Nat) : State :=
  match Tab.find s.subs i with
  | none => s
  | some x => if tickReached s.tick x.leaseEnd then { s with subs := Tab.drop s.subs i } else s

/-- At a Dormant exit each subscription sends one notification that counts the periods that passed (R534). -/
def State.subsAwake (s : State) : State :=
  (s.subs.map (·.1)).foldl (fun s i => match Tab.find s.subs i with
    | none => s
    | some x =>
      let n := if x.onChange ∨ !tickReached s.tick x.nextTick then 0 else s.since x.nextTick / max 1 x.period + 1
      { s with subs := Tab.put s.subs i { x with nextTick := tickAdd x.nextTick (n * x.period) } }.notify i n) s

/-! ## The ops of a message (R521, R524) -/

/-- What a message's ops have done so far: statuses with Aux, answers, whether one failed, subscriptions begun. -/
structure OpRun where
  st : State
  done : List (Nat × Nat) := []
  out : List Byte := []
  failed : Bool := false
  subs : List Nat := []

/-- One op applied; an Aux for which the spec states no value is free (log entry 58). -/
def State.opOne (s : State) (p key : Nat) (dest : AapDest) (o : AapOp) : OpAns × State :=
  let d := s.draw
  let f := d.1
  let s' := d.2
  let free := fun (a : OpAns) => { a with aux := f % 2 ^ 32 }
  match o.code with
  | 1 => let a := s.opRead p o
         (if a.status = 0 then a else free a, s')
  | 2 => let w := s'.opWrite p o
         (free ⟨w.1, 0, []⟩, w.2)
  | 3 => (free (s.opDescribe p (f / 2 ^ 32) o), s')
  | 4 => (free (s.opNext p o), s')
  | 5 => match dest with
    | .ring _ => (free ⟨8, 0, []⟩, s')
    | _ => let r := s'.opSubscribe p key dest o
           (if r.1.status = 0 then r.1 else free r.1, r.2)
  | 6 => match dest with
    | .ring _ => (free ⟨8, 0, []⟩, s')
    | _ => let r := s'.opUnsubscribe p o
           (free r.1, r.2)
  | _ => (free ⟨8, 0, []⟩, s')

/-- One op taken in its turn: skipped after a failure under StopOnError, or counted and applied. -/
def OpRun.step (p key : Nat) (dest : AapDest) (stop : Bool) (r : OpRun) (o : AapOp) : OpRun :=
  if r.failed && stop then
    let d := r.st.draw
    let a : OpAns := ⟨9, d.1 % 2 ^ 32, []⟩
    { r with st := d.2, done := r.done ++ [(9, a.aux)], out := r.out ++ o.answer a }
  else
    let x := r.st.opOne p key dest o
    let a := if o.bearsWrite then { x.1 with value := [] } else x.1
    let s := x.2.inc Reg.aapOps 0 1
    let s := if a.status = 1 ∨ a.status = 3 then s.inc Reg.principalDenied p 1 else s
    { st := s, done := r.done ++ [(a.status, a.aux)], out := r.out ++ o.answer a, failed := r.failed || a.status != 0
      subs := if o.code = 5 ∧ a.status = 0 then r.subs ++ [a.aux] else r.subs }

/-- One op answered from the cache: its status and Aux again, or executed again where it only reads (R521). -/
def OpRun.again (p key : Nat) (dest : AapDest) (r : OpRun) (x : AapOp × Nat × Nat) : OpRun :=
  let o := x.1
  if o.bearsWrite ∨ x.2.1 = 9 then { r with out := r.out ++ o.answer ⟨x.2.1, x.2.2, []⟩ }
  else
    let y := r.st.opOne p key dest o
    { r with st := y.2.inc Reg.aapOps 0 1, out := r.out ++ o.answer y.1 }

/-! ## Freshness (R520, R521) -/

/-- Whether a request number is fresh. -/
def KeyReplay.fresh (k : KeyReplay) (q : Nat) : Bool :=
  q != 0 && (decide (k.high < q) || (decide (k.high - q < 64) && !bit k.seen (k.high - q)))

/-- A fresh number taken: its bit set, and the highest raised. -/
def KeyReplay.take (k : KeyReplay) (q : Nat) : KeyReplay :=
  if k.high < q then { k with high := q, seen := (k.seen * 2 ^ (min 64 (q - k.high)) + 1) % 2 ^ 64 }
  else { k with seen := setBit k.seen (k.high - q) }

def State.replay (s : State) (p slot : Nat) : KeyReplay := Tab.get {} s.replays (2 * p + slot)
def State.modReplay (s : State) (p slot : Nat) (f : KeyReplay → KeyReplay) : State :=
  { s with replays := Tab.set {} s.replays (2 * p + slot) (f (s.replay p slot)) }

/-! ## A message (R523) -/

/-- The transport's limit on MessageBytes. -/
def AapDest.limit : AapDest → Nat
  | .udp _ _ _ _ => 8192
  | .relay _ => 8192
  | .mctp _ _ => 4096
  | .ring _ => 1048576

/-- Whether a principal is accepted on a transport (R514). -/
def State.accepts (s : State) (dest : AapDest) (p host : Nat) : Bool :=
  match dest with
  | .mctp _ _ => p == 16
  | .ring _ => p == host
  | _ => s.hostEnabled p

/-- Check 1: version, type, length and reserved fields; UDP and relay messages need AapUdpEnable. -/
def State.aapFormed (s : State) (dest : AapDest) (l : List Byte) (h : AapHead) : Bool :=
  let tag := match dest with
    | .ring _ => 0
    | _ => if h.noTag then 0 else 16
  let on := match dest with
    | .udp _ _ _ _ => s.rb Reg.aapUdpEnable 0
    | .relay _ => s.rb Reg.aapUdpEnable 0
    | _ => true
  decide (32 ≤ l.length) && h.version == 1 && h.msgType == 0 && h.bytes + tag == l.length && decide (32 ≤ h.bytes) &&
    decide (h.bytes ≤ dest.limit) && h.rsvd == 0 && on

/-- The one untagged message that board management may send while both its key slots are empty (R522). -/
def State.bootstrap (s : State) (dest : AapDest) (h : AapHead) (ops : Option (List AapOp)) : Bool :=
  (match dest with
    | .mctp _ _ => true
    | _ => false) && h.principal == 16 && s.rd Reg.keyState 16 % 4 == 0 &&
  match ops with
  | some [o] => o.code == 2 && o.ix == 2 && (o.sub == 1 || o.sub == 2) && o.inst == 16
  | _ => false

/-- Checks 2 and 3: principal, tag rule, key slot and tag. -/
def State.aapAuthentic (s : State) (dest : AapDest) (host : Nat) (l : List Byte) (h : AapHead) (ops : Option (List AapOp)) : Bool :=
  s.accepts dest h.principal host &&
  match dest with
  | .ring _ => h.noTag
  | _ =>
    if h.noTag then s.bootstrap dest h ops
    else s.keyLoaded h.principal h.keyId && l.drop h.bytes == aapTag (s.aapKey h.principal h.keyId) (l.take h.bytes)

/-- The response to a message, tagged with the key that authenticated it, sent where the request came from (R516, R518). -/
def State.respond (s : State) (dest : AapDest) (h : AapHead) (key : Option (List Byte)) (status : Nat) (body : List Byte) : State :=
  let r := { h with msgType := 1, msgStatus := status, target := s.nodeId, inc := s.rd Reg.incarnation 0 }
  let m := beBytes 32 r.number ++ body
  s.sendAap dest (match key with
    | some k => m ++ aapTag k m
    | none => m)

/-- A message that fails before its ops: its response's op records are open (log entry 58). -/
def State.respondFree (s : State) (dest : AapDest) (h : AapHead) (key : Option (List Byte)) (status : Nat) : State :=
  let b := s.drawBytes (h.bytes - 32)
  b.2.respond dest h key status b.1

/-- A message past its authentication (checks 4 to 6). -/
def State.aapApply (s : State) (dest : AapDest) (h : AapHead) (ops : Option (List AapOp)) : State :=
  let p := h.principal
  let ring := match dest with
    | .ring _ => true
    | _ => false
  let key := if h.noTag then none else some (s.aapKey p h.keyId)
  let s := s.inc Reg.principalMessages p 1
  let k := s.replay p h.keyId
  let fresh := ring || k.fresh h.seq
  let writes := (ops.getD []).any AapOp.bearsWrite
  let hit := if fresh ∨ !writes then none else (k.cache.find? fun c => c.1 == h.seq).map (·.2)
  let s := if fresh ∧ !ring then s.modReplay p h.keyId fun k => k.take h.seq else s
  if !fresh ∧ writes ∧ hit.isNone then (s.inc Reg.principalReplays p 1).respondFree dest h key 2
  else
    let s := if hit.isSome then s.inc Reg.principalCachedAnswers p 1 else s
    if h.target ≠ 0 ∧ h.target ≠ s.nodeId then s.respondFree dest h key 3
    else match ops with
      | none => s.respondFree dest h key 1
      | some l =>
        match hit with
        | some c =>
          let r := (l.zip c).foldl (OpRun.again p h.keyId dest) { st := s }
          r.st.respond dest h key 0 r.out
        | none =>
          let r := l.foldl (OpRun.step p h.keyId dest h.stop) { st := s }
          let s := if fresh ∧ writes ∧ !ring then r.st.modReplay p h.keyId fun k => { k with cache := ((h.seq, r.done) :: k.cache).take 8 }
            else r.st
          (s.respond dest h key 0 r.out).startSubs r.subs

/-- A message from a transport while the dictionary is awake (R523). -/
def State.aapTake (s : State) (dest : AapDest) (host : Nat) (l : List Byte) : State :=
  let h := aapHeadOf (beNat (l.take 32))
  let ops := if h.opCount = 0 then none else parseOps h.opCount ((l.take h.bytes).drop 32)
  if !s.aapFormed dest l h then s.inc Reg.aapMalformed 0 1
  else if !s.aapAuthentic dest host l h ops then s.inc Reg.aapAuthFailures 0 1
  else s.aapApply dest h ops

/-- A DICT command: denied by AapInBandEnable or by checks 1, 2 or 6, otherwise its message's ops (R530). -/
def State.dictCommand (s : State) (uid : Nat) : State :=
  match s.cmd uid with
  | none => s
  | some k =>
    let l := k.payload
    let h := aapHeadOf (beNat (l.take 32))
    let ops := if h.opCount = 0 then none else parseOps h.opCount ((l.take h.bytes).drop 32)
    let dest := AapDest.ring uid
    if !s.rb Reg.aapInBandEnable 0 then s.makeReady uid 0x19
    else if !s.aapFormed dest l h then (s.inc Reg.aapMalformed 0 1).makeReady uid 0x19
    else if !s.aapAuthentic dest k.host l h ops then (s.inc Reg.aapAuthFailures 0 1).makeReady uid 0x19
    else if ops.isNone then s.makeReady uid 0x19
    else s.aapApply dest h ops

/-- The DICT commands that have passed admission are served in their order (R525, R530). -/
def State.serveDict (s : State) : State :=
  let due := (s.cmds.filter fun c => hOp c.2.header == 9 && !c.2.ready && !c.2.denied && !c.2.admitting).map (·.1)
  if due.isEmpty ∨ !s.booted ∨ s.fatal ∨ s.power = 4 then s else due.foldl State.dictCommand s

/-! ## Arrival (R527 to R531, R550) -/

/-- Whether a message asks only for reads that Dormant answers: keep objects and the power objects (R492, R531). -/
def dormantReads (ops : Option (List AapOp)) : Bool :=
  match ops with
  | none => false
  | some l => l.all fun o => o.code == 1 && (match dictObj o.ix o.sub with
    | some b => b.keep || [0x9000, 0x9010, 0x9011, 0x9020, 0x9030].contains b.ix
    | none => false)

/-- A message from outside the rings: held in Dormant unless it only reads what the keeper island holds; only MCTP is served in Fatal pending and after (R531). -/
def State.aapArrive (s : State) (dest : AapDest) (l : List Byte) : State :=
  let mctp := match dest with
    | .mctp _ _ => true
    | _ => false
  if !s.booted ∨ (s.fatal && !mctp) then s
  else if s.power = 4 then
    if !mctp then s
    else
      let h := aapHeadOf (beNat (l.take 32))
      if dormantReads (parseOps h.opCount ((l.take h.bytes).drop 32)) then s.aapTake dest 0 l
      else { s with heldAap := s.heldAap ++ [(dest, l)] }.rouse
  else s.rouse.aapTake dest 0 l

/-- The messages held in Dormant, answered after the exit. -/
def State.serveHeldAap (s : State) : State :=
  s.heldAap.foldl (fun s m => s.aapTake m.1 0 m.2) { s with heldAap := [] }

/-- The OpCode of a message's first op; 0 where there is none. -/
def firstOp (l : List Byte) : Nat := bits (beNat (slice l 32 16)) 127 124

/-- The row a message belongs to: that of its first op, READ where that names no op. -/
def aapRow (l : List Byte) : Nat := if 2 ≤ firstOp l ∧ firstOp l ≤ 6 then firstOp l else 1

/-- A message over UDP or MCTP whose first op is a row's; another message is another row's event. -/
def State.aapMessage (s : State) (row : Nat) (dest : AapDest) (l : List Byte) : State :=
  match dest with
  | .udp _ _ _ _ => if aapRow l = row then s.aapArrive dest l else s
  | .mctp _ _ => if aapRow (l.drop 5) = row ∧ l.take 5 = s.mctpHead then s.aapArrive dest (l.drop 5) else s
  | _ => s

/-- An AAP relay frame from a Live peer carries one message (R528). -/
def State.aapRelay (s : State) (rx : Rx) (f : RFrame) : State :=
  if f.cls ≠ 5 ∨ f.op ≠ 0x10 then s
  else
    let a := s.arrivePlain rx f
    if !a.1 then a.2 else a.2.aapArrive (.relay f.src) f.payload

/-! ## MCTP control (R529) -/

/-- An answer to an MCTP control request: message type 0, the request's instance id with Rq 0, command, completion code and data (log entry 63). -/
def State.mctpAnswer (s : State) (dest : AapDest) (iid cmd code : Nat) (data : List Byte) : State :=
  s.emit (.message dest (leBytes 1 0 ++ leBytes 1 (iid % 32) ++ leBytes 1 cmd ++ leBytes 1 code ++ data))

/-- Set Endpoint ID: the endpoint takes the id; ids 0 and 0xFF are no endpoint's. -/
def State.mctpSet (s : State) (src tag iid eid : Nat) : State :=
  let e := eid % 256
  if e = 0 ∨ e = 255 then s.mctpAnswer (.mctp src tag) iid 1 2 []
  else { s with mctpEid := e }.mctpAnswer (.mctp src tag) iid 1 0 (leBytes 1 0 ++ leBytes 1 e ++ leBytes 1 0)

/-- Get Endpoint ID. -/
def State.mctpGet (s : State) (src tag iid : Nat) : State :=
  let d := s.draw
  d.2.mctpAnswer (.mctp src tag) iid 2 0 (leBytes 1 s.mctpEid ++ leBytes 1 0 ++ leBytes 1 d.1)

/-- Get MCTP Version Support: one version entry, whose value the spec leaves open. -/
def State.mctpVersions (s : State) (src tag iid : Nat) : State :=
  let d := s.draw
  d.2.mctpAnswer (.mctp src tag) iid 4 0 (leBytes 1 1 ++ beBytes 4 d.1)

/-- Get Message Type Support: message type 0x7F. -/
def State.mctpTypes (s : State) (src tag iid : Nat) : State :=
  s.mctpAnswer (.mctp src tag) iid 5 0 (leBytes 1 1 ++ leBytes 1 0x7F)

end Sys2Proof.Machine
end

