-- ==== Sys2Proof/Machine/Returns.lean ====
section
/-! DEFINITION. Arriving answers: the return checks of STC and what they write (R303 to R305). -/

set_option Elab.async false

set_option linter.unusedVariables false

namespace Sys2Proof.Machine

/-- A stitch counter of the host of a context counted up. -/
def State.stitchCount (s : State) (o : Obj) (x n : Nat) : State :=
  match s.contextHost x with
  | some h => s.inc o h n
  | none => s

/-- The half of a block's pour that a return frame's Op names: 0 cope, 1 drag (check 1 of R304). -/
def Block.returnHalf (b : Block) (op : Nat) : Option Bool :=
  if op = b.returnPour then some false else if b.split ∧ op = b.returnPour + 1 then some true else none

/-- The answers of a return frame and its segment: what its Length fits (check 1 of R304). -/
def Block.returnShape (b : Block) (f : RFrame) : Option (Nat × Nat) :=
  if b.a ≤ 8192 then (copiesOf b.a f.length).map fun n => (n, 0)
  else if f.offset % 8192 = 0 ∧ ((f.offset + 8192 < b.a ∧ f.length = 8192) ∨ (f.offset < b.a ∧ b.a ≤ f.offset + 8192 ∧ f.length = b.a - f.offset)) then
    some (1, f.offset / 8192)
  else none

/-- What becomes of one answer: none when it is written, or the counter of its discard (checks 2 to 5 of R304). -/
def State.answerFault (s : State) (b : Block) (f : RFrame) (drag : Bool) (tag seg : Nat) : Option Obj :=
  let row := bits tag 15 4
  let rank := bits tag 3 0
  let sl := b.slot row
  let node := match s.disp b.uid with
    | some d => match s.plan d.plan with
      | some p => (p.dests[Tab.get 0 sl.rankDest rank]?).map (·.node)
      | none => none
    | none => none
  if b.heat ≠ f.heat ∨ b.state = 1 then some Reg.dropCancelled
  else if b.state = 2 then some Reg.dropEnded
  else if b.rows ≤ row ∨ sl.drag ≠ drag ∨ !(bit sl.expected rank || bit sl.lost rank) then some Reg.answersInvalid
  else if node ≠ some f.src then some Reg.answersInvalid
  else if bit sl.received rank ∨ bit sl.segments (64 * rank + seg) then some Reg.duplicateRanks
  else if bit sl.lost rank then some Reg.lateAnswers
  else none

/-- One answer of a frame whose trailer checks: written, or discarded and counted. -/
def State.takeAnswer (s : State) (f : RFrame) (drag : Bool) (seg tag : Nat) (l : List Byte) : State :=
  match s.block f.ctx with
  | none => s.stitchCount Reg.dropCancelled f.ctx 1
  | some b => match s.answerFault b f drag tag seg with
    | some o => s.stitchCount o f.ctx 1
    | none => s.writeAnswer f.ctx (bits tag 15 4) (bits tag 3 0) seg l

/-- A streamed answer whose trailer fails leaves its bytes undefined (R305). -/
def State.spoilAnswer (s : State) (b : Block) (f : RFrame) (drag : Bool) (seg : Nat) : State :=
  if (s.answerFault b f drag f.tag seg).isSome then s
  else
    let d := s.drawBytes f.payload.length
    d.2.writeArea f.ctx (bits f.tag 15 4) (b.areaOf false (bits f.tag 3 0)) (seg * 8192) d.1 false

/-- A return frame that passed checks 1 to 6 of R203 (R303 to R305). -/
def State.landReturn (s : State) (rx : Rx) (f : RFrame) : State :=
  match s.block f.ctx with
  | none =>
    let tr := s.arriveTrailer rx f
    if !tr.1 then tr.2 else (tr.2.stitchCount Reg.dropCancelled f.ctx 1).settleFrame f 0
  | some b =>
    match b.returnHalf f.op, b.returnShape f with
    | some drag, some (n, seg) =>
      let tags := f.tags n b.a
      if !tagsAgree f.heat tags then s.inc Reg.malformed 0 1
      else
        let tr := s.arriveTrailer rx f
        if !tr.1 then (if n = 1 then tr.2.spoilAnswer b f drag seg else tr.2)
        else
          (tags.zipIdx.foldl (fun (s : State) (t : Nat × Nat) =>
            s.takeAnswer f drag seg t.1 (slice f.payload (t.2 * b.a) (min b.a f.length))) tr.2).settleFrame f 0
    | _, _ => (s.stitchCount Reg.returnsRefused f.ctx 1).settleFrame f 2

end Sys2Proof.Machine
end

