-- ==== Sys2Proof/Machine/Rows.lean ====
section
/-! DEFINITION. How a row's event meets the engine: waking, the slots of an issuing word, held frames, steps of a DISPATCH, and what follows every row. -/

set_option Elab.async false

set_option linter.unusedVariables false

namespace Sys2Proof.Machine

/-! ## Around every row -/

/-- A trigger inside the engine: any state but Dormant wakes (R490). -/
def State.stir (s : State) : State := if s.power = 4 then s else s.rouse

/-- An event of the engine: one whose conditions do not hold does not occur, and leaves the state as it is; any other wakes a shallow sleep first (R490; log entry 2). -/
def State.event (s : State) (op : State → State) : State := if op s = s then s else op s.stir

/-- An event that belongs to a Dormant entry under way does not end it (R490, R496). -/
def State.quietEvent (s : State) (op : State → State) : State := if s.entering then op s else s.event op

/-- The step boundaries told, and the interrupt pins showing the first errors (R462). -/
def State.pinned (s : State) : State := { s with boundaries := [], krdInt := s.intPins }

/-- What follows every row: BAL learns of the step boundaries reached, and the interrupt pins show the first errors (R350, R462). -/
def State.settle (s : State) : State :=
  (s.boundaries.foldl (fun (s : State) (b : Nat × Nat) => s.boundary b.1 b.2) { s with boundaries := [] }).pinned

/-- What passes while no command waits: one keeper tick (R481; log entry 1). -/
def State.idle (s : State) : State := s.keeperTick.settle

/-! ## Pattern rows (R366, R367) -/

/-- The word that sequencer n issues next, if one of its slots is the row's: the whole word issues. -/
def State.slotRow (s : State) (n : Nat) (is : PWord → Bool) : State :=
  match s.issueOf n with
  | none => s
  | some i => if is i.w then s.issueWord i else s

/-- A scalar row: slot A, or slot B. -/
def State.scalarRow (s : State) (n : Nat) (slotB : Bool) (x : ScalarSlot) : State :=
  s.slotRow n fun w => if slotB then w.b == x else w.a == x

def State.controlRow (s : State) (n : Nat) (x : ControlSlot) : State := s.slotRow n fun w => w.control == x
def State.tallyRow (s : State) (n : Nat) (x : TallySlot) : State := s.slotRow n fun w => w.tally == x
def State.stitchRow (s : State) (n : Nat) (x : StitchSlot) : State := s.slotRow n fun w => w.stitch == x
def State.copyRow (s : State) (n : Nat) (x : CopySlot) : State := s.slotRow n fun w => w.copy == x
def State.pourRow (s : State) (n : Nat) (x : ArmSlot) : State := s.slotRow n fun w => w.pour == x
def State.scoreRow (s : State) (n : Nat) (x : ArmSlot) : State := s.slotRow n fun w => w.score == x
def State.selectRow (s : State) (n : Nat) (x : SelectSlot) : State := s.slotRow n fun w => w.select == x

/-! ## Commands (R75, R530) -/

/-- A command reaches CMD from a ring, with the opcode of its row (R78). -/
def State.commandRow (s : State) (ring op : Nat) (h : Word512) (payload : List Byte) : State := s.submitted ring (withOp h op) payload

/-- A TALLY command with the Op of its row (R323). -/
def State.tallyCommand (s : State) (ring op : Nat) (h : Word512) (payload : List Byte) : State :=
  s.submitted ring (withField (withOp h 0x06) 258 256 op) payload

/-- A RAT with the AtomicOp of its row (R220). -/
def State.ratCommand (s : State) (ring op : Nat) (h : Word512) (payload : List Byte) : State :=
  s.submitted ring (withField (withOp h 0x12) 343 340 op) payload

/-- A COLL command with the CollOp of its row (R335). -/
def State.collCommand (s : State) (ring op : Nat) (h : Word512) (payload : List Byte) : State :=
  s.submitted ring (withOp h 0x07) (withCollOp payload op)

/-- A DICT command, taken by the dictionary at once (R530). -/
def State.dictRow (s : State) (ring : Nat) (h : Word512) (payload : List Byte) : State := (s.commandRow ring 0x09 h payload).serveDict

/-- CMD's own fetch; a DICT command among them goes to the dictionary (R75, R530). -/
def State.fetchRow (s : State) (ring : Nat) : State := (s.fetchNext ring).serveDict

/-! ## Pages and the dictionary -/

/-- An access of one row's kind: an access wakes the engine from every state, Dormant too (R490, R492). -/
def State.pageEvent (s : State) (row : Nat) (a : PageAccess) : State :=
  if a.row = row ∧ a.offset < 2 ^ 24 then s.rouse.pageRow row a else s

/-- A doorbell write that the latch takes in Dormant (R492). -/
def State.latchEvent (s : State) (a : PageAccess) : State :=
  if s.power = 4 ∧ s.latches a then s.rouse.doorbellLatch a else s

/-- A write of one object by a principal (R490, R524); in Dormant the AAP rows hold the message that carries it. -/
def State.regWrite (s : State) (p : Nat) (o : Obj) (i v : Nat) : State := if s.dictOpen p then s.rouse.dictWrite p o i v else s

/-- A write of any object by its address (R511). -/
def State.addressWrite (s : State) (p ix sub i len v : Nat) : State :=
  if s.dictOpen p ∧ v < 2 ^ (8 * len) then ((s.rouse.writeObj p ix sub i len v).2).inc Reg.aapOps 0 1 else s

/-! ## Frames -/

/-- A remote store frame (R204, R207). -/
def State.arriveStore (s : State) (rx : Rx) (f : RFrame) : State := s.arriveData rx f f.store fun s => s.landStore rx f
/-- A dispatch copy frame (R277). -/
def State.arriveCopy (s : State) (rx : Rx) (f : RFrame) : State :=
  s.arriveData rx f (!f.store && !f.close && !f.ret) fun s => s.landCopy rx f
/-- A close frame (R283). -/
def State.arriveClose (s : State) (rx : Rx) (f : RFrame) : State := s.arriveData rx f (f.close && !f.store) fun s => s.landClose rx f
/-- A return answer frame (R304). -/
def State.arriveReturn (s : State) (rx : Rx) (f : RFrame) : State :=
  s.arriveData rx f (f.ret && !f.store && !f.close) fun s => s.landReturn rx f

/-- Any frame for this node, taken by its class and flags. -/
def State.arriveAny (s : State) (rx : Rx) (f : RFrame) : State :=
  if f.hopCredit then s.arriveCredit rx f
  else match f.cls with
    | 0 => if f.store then s.arriveStore rx f else if f.close then s.arriveClose rx f
      else if f.ret then s.arriveReturn rx f else s.arriveCopy rx f
    | 1 => s.arriveAtomic rx f
    | 2 => s.arriveReply rx f
    | 3 => s.arriveAck rx f
    | 4 => s.collArrive rx f (f.op / 2 ^ 12)
    | _ => if f.op = 0x10 then s.aapRelay rx f else if f.op = 0x20 then s.arriveProbe rx f else if f.op = 0x21 then s.arriveSurveyReply rx f
      else s.arriveMgmt rx f f.op

/-- A frame as it arrives, not one that a fetch held. -/
def Rx.fresh (rx : Rx) : Rx := { rx with again := false }

/-- A directory entry has been read: the cache holds it, a join that waited for it begins, and the frames held for it are taken in order (R249). -/
def State.directoryFetch (s : State) (node : Nat) : State :=
  if !(s.peer node).fetching then s
  else
    let held := s.fetchHeld.filter fun x => x.1 == node
    let s := { s with fetchHeld := s.fetchHeld.filter fun x => x.1 != node }.modPeer node fun p =>
      { p with cached := true, fetching := false, used := s.tick }
    let p := s.peer node
    let s := if p.wantJoin then
        (if p.state = 0 ∨ (p.state = 4 ∧ s.elapsed p.deadTick (s.rd Reg.maxFrameLifeTicks 0)) then s.startJoin node
          else s.modPeer node fun p => { p with wantJoin := false })
      else s
    held.foldl (fun s x => s.arriveAny x.2.1 x.2.2) (s.flush node)

/-- A PFC frame received (R265). -/
def State.pfcFrame (s : State) (rx : Rx) (enable : Nat) (quanta : List Nat) : State :=
  if s.receives rx.port then (s.rxCount rx).pfc rx.port enable quanta else s

/-- An 802.3x PAUSE frame: dropped and counted (R255). -/
def State.pauseFrame (s : State) (rx : Rx) : State := if s.receives rx.port then (s.rxCount rx).inc Reg.pauseIgnored rx.port 1 else s

/-! ## Steps of a DISPATCH -/

/-- STC opens the block of a DISPATCH whose SCORE may start (R299). -/
def State.blockOpen (s : State) (uid : Nat) : State :=
  match s.stepOf uid with
  | some t => if s.works 2 ∧ s.works 9 ∧ s.mayStart t then s.openStep t else s
  | none => s

/-- The next row of a DISPATCH settles (R116, R118). -/
def State.rowSettle (s : State) (uid row : Nat) : State :=
  match s.stepOf uid with
  | some t => if s.works 2 ∧ s.works 3 ∧ t.d.phase = 1 ∧ !t.d.ended ∧ s.nextSettle t = some row then s.settleRow t row else s
  | none => s

/-- The scores of a settled and reserved row end (R145). -/
def State.scoreEnd (s : State) (uid row : Nat) : State :=
  match s.stepOf uid with
  | some t =>
    let w := t.d.row row
    if s.works 2 ∧ s.works 3 ∧ t.d.phase = 1 ∧ !t.d.ended ∧ w.settled ∧ w.reserved ∧ !w.weighted then s.endRow t row else s
  | none => s

/-- SRT sorts the next group of a DISPATCH (R174). -/
def State.groupSort (s : State) (uid : Nat) : State := if s.works 4 then s.sortGroup uid else s

/-- A pour lane takes a bin (R178). -/
def State.packetBuild (s : State) (uid half dest : Nat) : State :=
  match s.stepOf uid with
  | some t => if s.works 5 ∧ s.works 6 then s.buildPacket t half dest else s
  | none => s

/-- POR closes a half of a pour (R185). -/
def State.pourClose (s : State) (uid half : Nat) : State :=
  match s.stepOf uid with
  | some t => if s.works 5 ∧ s.works 6 then s.closePour t half else s
  | none => s

/-- A pour lane builds a return packet (R194). -/
def State.returnBuild (s : State) (plan flask : Nat) : State :=
  if s.works 5 ∧ s.works 6 then s.buildReturn (flaskKey plan flask) else s

/-- LND writes a pour use's group table (R290). -/
def State.tableWrite (s : State) (plan pour : Nat) : State := if s.works 8 then s.writeTable plan pour else s

/-- A flask Filling for UseLimitTicks closes by force (R286). -/
def State.forcedClose (s : State) (plan flask : Nat) : State := if s.works 8 then s.forceClose (flaskKey plan flask) else s

/-- A Closed flask whose answers are all away is released (R293). -/
def State.flaskRelease (s : State) (plan flask : Nat) : State := if s.works 8 then s.tryRelease (flaskKey plan flask) else s

/-- A shared post's reads are done (R302). -/
def State.sharedReadDone (s : State) (ix : Nat) : State :=
  match s.sharedPosts[ix]? with
  | some p => if s.works 9 then s.sharedDone p else s
  | none => s

/-- The combine pipe takes the row that is next (R308, R309). -/
def State.combine (s : State) (x row : Nat) : State := if s.works 9 ∧ s.firstQueued = some (x, row) then s.combineRow x row else s

/-- The write of a Written row becomes visible; a block still open, or kept for a replay, counts it in its StitchTally (R312, R315). -/
def State.writeVisible (s : State) (x row : Nat) : State :=
  match s.block x with
  | none => s
  | some b =>
    let sl := b.slot row
    if row < b.rows ∧ sl.state = 4 ∧ !sl.visible ∧ (b.state = 0 ∨ b.state = 3) ∧ s.works 9 then
      (s.modSlot x row fun sl => { sl with visible := true }).tallyCredit x b.heat b.stitchTally 1
    else s

/-- A row Waiting for StitchWaitTicks loses every rank it still expects (R306). -/
def State.stitchExpiry (s : State) (x row : Nat) : State :=
  match s.block x with
  | none => s
  | some b =>
    let sl := b.slot row
    if row < b.rows ∧ sl.state = 1 ∧ s.elapsed sl.reserveTick (s.rd Reg.stitchWaitTicks 0) ∧ (b.state = 0 ∨ b.state = 3) ∧ s.works 9 then
      s.loseExpected x row
    else s

/-- A runnable context ages: its class is a function of its ReadyTick, so that nothing is written (R440). -/
def State.age (s : State) (x : Nat) : State := s

/-! ## Resets and sleep -/

/-- A warm reset, and the messages that waited in Dormant answered after it (R546). -/
def State.warmRow (s : State) : State :=
  let t := s.warmServe
  if s.power = 4 ∧ t.power ≠ 4 then { t with heldAap := s.heldAap }.serveHeldAap else t

/-- A Dormant exit: subscriptions notify once, and the messages that waited are answered (R497, R531, R534). -/
def State.exitRow (s : State) : State :=
  let t := s.dormantExit
  if s.power = 4 ∧ t.power ≠ 4 then { t.subsAwake with heldAap := s.heldAap }.serveHeldAap else t

/-- A trigger in a sleep state, or during an entry to Dormant (R490). -/
def State.wakeTrigger (s : State) : State := if (s.power = 0 ∨ s.power = 4) ∧ !s.entering then s else s.stir

end Sys2Proof.Machine
end

