-- ==== Sys2Proof/Machine/Commands.lean ====
section
/-! DEFINITION. The rows of the command rings: each command as its ring hands it to CMD, the fetch and the posting (R75 to R99). -/

set_option Elab.async false

set_option linter.unusedVariables false

namespace Sys2Proof.Machine

/-- RUN (R364): command that starts the resident RUN pattern named by PatternId on the context's sequencer, with Arg0 to Arg2 in g1 to g3. -/
def execRun (ring : Nat) (h : Word512) (payload : List Byte) (s : State) : Out1 :=
  .next (State.settle (s.event fun s => s.commandRow ring 1 h payload))

/-- DISPATCH (R85): command that carries the router inputs or logits, hidden states and row map of one layer step, and runs the context's DispatchPattern. -/
def execDispatch (ring : Nat) (h : Word512) (payload : List Byte) (s : State) : Out1 :=
  .next (State.settle (s.event fun s => s.commandRow ring 2 h payload))

/-- COPY (R408): command that runs mould descriptors through MLD in staging, pad and valid phases. -/
def execCopy (ring : Nat) (h : Word512) (payload : List Byte) (s : State) : Out1 :=
  .next (State.settle (s.event fun s => s.commandRow ring 3 h payload))

/-- FENCE (R93): command that holds its ring until every earlier command of the ring is ready, end-to-end counts included. -/
def execFence (ring : Nat) (h : Word512) (payload : List Byte) (s : State) : Out1 :=
  .next (State.settle (s.event fun s => s.commandRow ring 4 h payload))

/-- CANCEL (R95): command that advances the context's heat and ends the context's earlier unready DISPATCH and RUN commands CANCELLED. -/
def execCancel (ring : Nat) (h : Word512) (payload : List Byte) (s : State) : Out1 :=
  .next (State.settle (s.event fun s => s.commandRow ring 5 h payload))

/-- TALLY_READ (R76): TALLY command with Op 0 that returns the tally's value as 8 result bytes. -/
def execTallyRead (ring : Nat) (h : Word512) (payload : List Byte) (s : State) : Out1 :=
  .next (State.settle (s.event fun s => s.tallyCommand ring 0 h payload))

/-- TALLY_SET (R323): TALLY command with Op 1 that sets a tally to Value. -/
def execTallySet (ring : Nat) (h : Word512) (payload : List Byte) (s : State) : Out1 :=
  .next (State.settle (s.event fun s => s.tallyCommand ring 1 h payload))

/-- TALLY_ADD (R323): TALLY command with Op 2 that adds Value to a tally. -/
def execTallyAdd (ring : Nat) (h : Word512) (payload : List Byte) (s : State) : Out1 :=
  .next (State.settle (s.event fun s => s.tallyCommand ring 2 h payload))

/-- TALLY_WAIT (R328): TALLY command with Op 3 that completes only when the tally reaches Value. -/
def execTallyWait (ring : Nat) (h : Word512) (payload : List Byte) (s : State) : Out1 :=
  .next (State.settle (s.event fun s => s.tallyCommand ring 3 h payload))

/-- ALLREDUCE (R339): COLL operation that reduces every member's operand and gives the result to every member by ring or tree. -/
def execAllreduce (ring : Nat) (h : Word512) (payload : List Byte) (s : State) : Out1 :=
  .next (State.settle (s.event fun s => s.collCommand ring 0 h payload))

/-- REDUCE (R338): COLL operation that reduces the operands up the tree to the root. -/
def execReduce (ring : Nat) (h : Word512) (payload : List Byte) (s : State) : Out1 :=
  .next (State.settle (s.event fun s => s.collCommand ring 1 h payload))

/-- ALLGATHER (R336): COLL operation that gathers every member's operand at every member in rank order. -/
def execAllgather (ring : Nat) (h : Word512) (payload : List Byte) (s : State) : Out1 :=
  .next (State.settle (s.event fun s => s.collCommand ring 2 h payload))

/-- BROADCAST (R336): COLL operation that sends the root's operand to every member. -/
def execBroadcast (ring : Nat) (h : Word512) (payload : List Byte) (s : State) : Out1 :=
  .next (State.settle (s.event fun s => s.collCommand ring 3 h payload))

/-- BIAS_SET (R356): command that makes E host-computed biases the layer's pending epoch from ApplyStep. -/
def execBiasSet (ring : Nat) (h : Word512) (payload : List Byte) (s : State) : Out1 :=
  .next (State.settle (s.event fun s => s.commandRow ring 8 h payload))

/-- DICT (R530): command that carries one untagged AAP message for the channel's host and returns its response. -/
def execDict (ring : Nat) (h : Word512) (payload : List Byte) (s : State) : Out1 :=
  .next (State.settle (s.event fun s => s.dictRow ring h payload))

/-- PARK (R451): command that sets the context's WakeTolerance and swaps an idle context out. -/
def execPark (ring : Nat) (h : Word512) (payload : List Byte) (s : State) : Out1 :=
  .next (State.settle (s.event fun s => s.commandRow ring 0x0A h payload))

/-- RLD (R223): command that loads bytes from a remote window as LOAD requests into the reserved completion space. -/
def execRld (ring : Nat) (h : Word512) (payload : List Byte) (s : State) : Out1 :=
  .next (State.settle (s.event fun s => s.commandRow ring 0x10 h payload))

/-- RST (R222): command that stores bytes to a remote window as store frames, after a PROBE when more than one frame is needed. -/
def execRst (ring : Nat) (h : Word512) (payload : List Byte) (s : State) : Out1 :=
  .next (State.settle (s.event fun s => s.commandRow ring 0x11 h payload))

/-- LOAD (R220): RAT operation that reads up to 4,096 bytes at the remote offset. -/
def execLoad (ring : Nat) (h : Word512) (payload : List Byte) (s : State) : Out1 :=
  .next (State.settle (s.event fun s => s.ratCommand ring 0 h payload))

/-- FETCH_ADD (R220): RAT operation that adds the operand to a remote 64-bit word and returns its old value. -/
def execFetchAdd (ring : Nat) (h : Word512) (payload : List Byte) (s : State) : Out1 :=
  .next (State.settle (s.event fun s => s.ratCommand ring 1 h payload))

/-- FETCH_AND (R220): RAT operation that ANDs the operand into a remote word and returns its old value. -/
def execFetchAnd (ring : Nat) (h : Word512) (payload : List Byte) (s : State) : Out1 :=
  .next (State.settle (s.event fun s => s.ratCommand ring 2 h payload))

/-- FETCH_OR (R220): RAT operation that ORs the operand into a remote word and returns its old value. -/
def execFetchOr (ring : Nat) (h : Word512) (payload : List Byte) (s : State) : Out1 :=
  .next (State.settle (s.event fun s => s.ratCommand ring 3 h payload))

/-- FETCH_XOR (R220): RAT operation that XORs the operand into a remote word and returns its old value. -/
def execFetchXor (ring : Nat) (h : Word512) (payload : List Byte) (s : State) : Out1 :=
  .next (State.settle (s.event fun s => s.ratCommand ring 4 h payload))

/-- SWAP (R220): RAT operation that replaces a remote word and returns its old value. -/
def execSwap (ring : Nat) (h : Word512) (payload : List Byte) (s : State) : Out1 :=
  .next (State.settle (s.event fun s => s.ratCommand ring 5 h payload))

/-- COMPARE_SWAP (R220): RAT operation that replaces a remote word when it equals the compare value, and returns its old value. -/
def execCompareSwap (ring : Nat) (h : Word512) (payload : List Byte) (s : State) : Out1 :=
  .next (State.settle (s.event fun s => s.ratCommand ring 6 h payload))

/-- FETCH_MAX_U (R220): RAT operation that stores the unsigned maximum into a remote word and returns its old value. -/
def execFetchMaxU (ring : Nat) (h : Word512) (payload : List Byte) (s : State) : Out1 :=
  .next (State.settle (s.event fun s => s.ratCommand ring 7 h payload))

/-- FETCH_MIN_U (R220): RAT operation that stores the unsigned minimum into a remote word and returns its old value. -/
def execFetchMinU (ring : Nat) (h : Word512) (payload : List Byte) (s : State) : Out1 :=
  .next (State.settle (s.event fun s => s.ratCommand ring 8 h payload))

/-- PROBE (R220): RAT operation that checks a remote window range without touching it. -/
def execProbe (ring : Nat) (h : Word512) (payload : List Byte) (s : State) : Out1 :=
  .next (State.settle (s.event fun s => s.ratCommand ring 15 h payload))

/-- COMMAND_FETCH (R75): CMD fetches a ring's next command once fewer than 16 are in flight and its completion space is reserved. -/
def execCommandFetch (ring : Nat) (s : State) : Out1 :=
  .next (State.settle (s.event fun s => s.fetchRow ring))

/-- COMPLETION_POST (R89): CMD posts a ready completion once all earlier entries of its ring have posted: payload, then record, then CompletionTail. -/
def execCompletionPost (ring : Nat) (s : State) : Out1 :=
  .next (State.settle (s.event fun s => s.postNext ring))

end Sys2Proof.Machine
end

