-- ==== Sys2Proof/Machine/FrameRows.lean ====
section
/-! DEFINITION. The rows of arriving frames (R203, R237, R245, R265). -/

set_option Elab.async false

set_option linter.unusedVariables false

namespace Sys2Proof.Machine

/-- DISPATCH_COPY_FRAME (R278): arriving dispatch copy frame that LND checks, streams into its slots and commits after the trailer. -/
def execDispatchCopyFrame (rx : Rx) (f : RFrame) (s : State) : Out1 :=
  .next (State.settle (s.event fun s => s.arriveCopy rx.fresh f))

/-- POUR_CLOSE_FRAME (R283): arriving close that LND records against the source's committed copies. -/
def execPourCloseFrame (rx : Rx) (f : RFrame) (s : State) : Out1 :=
  .next (State.settle (s.event fun s => s.arriveClose rx.fresh f))

/-- RETURN_ANSWER_FRAME (R304): arriving return frame whose answers STC checks and writes into rank areas. -/
def execReturnAnswerFrame (rx : Rx) (f : RFrame) (s : State) : Out1 :=
  .next (State.settle (s.event fun s => s.arriveReturn rx.fresh f))

/-- REMOTE_STORE_FRAME (R204): arriving remote store frame that XLT checks and writes after its trailer, incrementing its tally. -/
def execRemoteStoreFrame (rx : Rx) (f : RFrame) (s : State) : Out1 :=
  .next (State.settle (s.event fun s => s.arriveStore rx.fresh f))

/-- ATOMIC_FRAME (R226): arriving ATOMIC frame that the target applies once, answers from its reply cache, or answers STALE, BUSY or ACCESS. -/
def execAtomicFrame (rx : Rx) (f : RFrame) (s : State) : Out1 :=
  .next (State.settle (s.event fun s => s.arriveAtomic rx.fresh f))

/-- REPLY_FRAME (R227): arriving REPLY that completes an atomic, a load or a borrow fetch-add. -/
def execReplyFrame (rx : Rx) (f : RFrame) (s : State) : Out1 :=
  .next (State.settle (s.event fun s => s.arriveReply rx.fresh f))

/-- ACK_FRAME (R216): arriving ACK whose blocks advance CumSettled and report refusals. -/
def execAckFrame (rx : Rx) (f : RFrame) (s : State) : Out1 :=
  .next (State.settle (s.event fun s => s.arriveAck rx.fresh f))

/-- HOP_CREDIT_FRAME (R239): arriving hop credit frame that returns forwarding credits to the port. -/
def execHopCreditFrame (rx : Rx) (f : RFrame) (s : State) : Out1 :=
  .next (State.settle (s.event fun s => s.arriveCredit rx.fresh f))

/-- COLL_SEGMENT (R344): arriving collective segment that COL consumes into its working area. -/
def execCollSegment (rx : Rx) (f : RFrame) (s : State) : Out1 :=
  .next (State.settle (s.event fun s => s.collArrive rx.fresh f 0))

/-- COLL_REPORT (R345): arriving report that a subtree has finished its data phase. -/
def execCollReport (rx : Rx) (f : RFrame) (s : State) : Out1 :=
  .next (State.settle (s.event fun s => s.collArrive rx.fresh f 1))

/-- COLL_COMMIT (R345): arriving or decided commit that completes a collective OK. -/
def execCollCommit (rx : Rx) (f : RFrame) (s : State) : Out1 :=
  .next (State.settle (s.event fun s => s.collArrive rx.fresh f 2))

/-- COLL_ABORT (R346): arriving or decided abort that ends a collective COLL_ABORT on every member. -/
def execCollAbort (rx : Rx) (f : RFrame) (s : State) : Out1 :=
  .next (State.settle (s.event fun s => s.collArrive rx.fresh f 3))

/-- COLL_LAUNCH (R348): COL launches a queued collective or balance round once its group is free. -/
def execCollLaunch (group : Nat) (s : State) : Out1 :=
  .next (State.settle (s.event fun s => s.collLaunch group))

/-- JOIN (R245): arriving JOIN that is answered JOIN_ACK and makes the peer Live with its bases. -/
def execJoin (rx : Rx) (f : RFrame) (s : State) : Out1 :=
  .next (State.settle (s.event fun s => s.arriveMgmt rx.fresh f 1))

/-- JOIN_ACK (R245): arriving JOIN_ACK that makes the initiator's entry Live and releases held frames. -/
def execJoinAck (rx : Rx) (f : RFrame) (s : State) : Out1 :=
  .next (State.settle (s.event fun s => s.arriveMgmt rx.fresh f 2))

/-- LEAVE (R248): arriving LEAVE that makes a drained peer Unknown. -/
def execLeave (rx : Rx) (f : RFrame) (s : State) : Out1 :=
  .next (State.settle (s.event fun s => s.arriveMgmt rx.fresh f 3))

/-- LEAVE_ACK (R248): arriving LEAVE_ACK that ends a leave. -/
def execLeaveAck (rx : Rx) (f : RFrame) (s : State) : Out1 :=
  .next (State.settle (s.event fun s => s.arriveMgmt rx.fresh f 4))

/-- SLEEP (R494): arriving SLEEP that marks the peer Asleep and holds new frames to it. -/
def execSleep (rx : Rx) (f : RFrame) (s : State) : Out1 :=
  .next (State.settle (s.event fun s => s.arriveMgmt rx.fresh f 5))

/-- SLEEP_ACK (R494): arriving SLEEP_ACK that acknowledges a Dormant announcement. -/
def execSleepAck (rx : Rx) (f : RFrame) (s : State) : Out1 :=
  .next (State.settle (s.quietEvent fun s => s.arriveMgmt rx.fresh f 6))

/-- AWAKE (R494): arriving AWAKE that clears the Asleep mark and sends held frames. -/
def execAwake (rx : Rx) (f : RFrame) (s : State) : Out1 :=
  .next (State.settle (s.event fun s => s.arriveMgmt rx.fresh f 7))

/-- AWAKE_ACK (R494): arriving AWAKE_ACK that ends the woken engine's hold on frames to the peer. -/
def execAwakeAck (rx : Rx) (f : RFrame) (s : State) : Out1 :=
  .next (State.settle (s.event fun s => s.arriveMgmt rx.fresh f 8))

/-- AWAKE_REFUSED (R495): arriving AWAKE_REFUSED that sets the peer Unknown and starts a fresh join. -/
def execAwakeRefused (rx : Rx) (f : RFrame) (s : State) : Out1 :=
  .next (State.settle (s.event fun s => s.arriveMgmt rx.fresh f 9))

/-- AAP_RELAY (R528): arriving relay frame that carries one AAP message from a Live peer. -/
def execAapRelay (rx : Rx) (f : RFrame) (s : State) : Out1 :=
  .next (State.settle (s.event fun s => s.aapRelay rx.fresh f))

/-- SURVEY_PROBE (R264): arriving survey probe that the destination answers with a survey reply. -/
def execSurveyProbe (rx : Rx) (f : RFrame) (s : State) : Out1 :=
  .next (State.settle (s.event fun s => s.arriveProbe rx.fresh f))

/-- SURVEY_REPLY (R264): arriving survey reply that writes a result record with Hop 0xFF. -/
def execSurveyReply (rx : Rx) (f : RFrame) (s : State) : Out1 :=
  .next (State.settle (s.event fun s => s.arriveSurveyReply rx.fresh f))

/-- ICMPV6_TIME_EXCEEDED (R264): arriving Time Exceeded quoting a probe that writes a survey result record. -/
def execIcmpv6TimeExceeded (port : Nat) (source : Nat) (udpSource : Nat) (hop : Nat) (s : State) : Out1 :=
  .next (State.settle (s.event fun s => s.timeExceeded port source udpSource hop))

/-- TRANSIT_FRAME (R237): arriving raw frame for another node that is forwarded by the forward table of its epoch. -/
def execTransitFrame (rx : Rx) (f : RFrame) (s : State) : Out1 :=
  .next (State.settle (s.event fun s => s.arriveTransit rx.fresh f))

/-- PFC_FRAME (R265): arriving PFC frame that pauses the priorities it names, or is counted when PFC is off. -/
def execPfcFrame (rx : Rx) (enable : Nat) (quanta : List Nat) (s : State) : Out1 :=
  .next (State.settle (s.event fun s => s.pfcFrame rx.fresh enable quanta))

/-- PAUSE_FRAME (R255): arriving 802.3x PAUSE frame that is dropped and counted. -/
def execPauseFrame (rx : Rx) (s : State) : Out1 :=
  .next (State.settle (s.event fun s => s.pauseFrame rx.fresh))

/-- PFC_PAUSE_EXPIRY (R265): A priority's pause quanta run out and its frames may be sent again. -/
def execPfcPauseExpiry (port : Nat) (prio : Nat) (s : State) : Out1 :=
  .next (State.settle (s.event fun s => s.pauseOver port prio))

end Sys2Proof.Machine
end

