-- ==== Sys2Proof/Machine/KeeperRows.lean ====
section
/-! DEFINITION. The rows of faults in time, sleep states and background work (R461 to R505, R533). -/

set_option Elab.async false

set_option linter.unusedVariables false

namespace Sys2Proof.Machine

/-- ESCALATION_EXPIRY (R467): an Armed escalation slot reaches its deadline and its reaction at expiry is applied. -/
def execEscalationExpiry (unit : Nat) (slot : Nat) (s : State) : Out1 :=
  .next (State.settle (s.event fun s => s.escalate unit slot))

/-- FATAL_STOP (R477): at the Stop deadline the engine drops its links, halts its rings, writes back images and halts. -/
def execFatalStop (s : State) : Out1 :=
  .next (State.settle (s.event fun s => s.fatalStop))

/-- SUMMARY_WINDOW_END (R465): at a summary window boundary a unit appends summary records for sources it suppressed. -/
def execSummaryWindowEnd (s : State) : Out1 :=
  .next (State.settle (s.event fun s => s.summaryEnd))

/-- IDLE_ENTRY (R489): after IdleDelayCycles of quiescence PWR gates the core clock. -/
def execIdleEntry (s : State) : Out1 :=
  .next (State.settle (s.idleEntry))

/-- DOZE_ENTRY (R489): after DozeDelayTicks of its conditions PWR enters Doze. -/
def execDozeEntry (s : State) : Out1 :=
  .next (State.settle (s.dozeEntry))

/-- REST_ENTRY (R489): after RestDelayTicks of its conditions PWR enters Rest. -/
def execRestEntry (s : State) : Out1 :=
  .next (State.settle (s.restEntry))

/-- DORMANT_ENTRY (R496): after DormantDelayTicks the engine announces sleep, saves its state and drops to the keeper island. -/
def execDormantEntry (s : State) : Out1 :=
  .next (State.settle (s.dormantEntry))

/-- WAKE_AT_TICK (R490): keeperTick reaching WakeAtTick wakes the engine. -/
def execWakeAtTick (s : State) : Out1 :=
  .next (State.settle (s.wakeAt))

/-- WAKE_TRIGGER (R490): A page access, frame, tally update or timer in a sleep state wakes the engine within the state's latency. -/
def execWakeTrigger (s : State) : Out1 :=
  .next (State.settle (s.wakeTrigger))

/-- DORMANT_EXIT (R497): A wake in Dormant restores rails, stores, keys, ports and peers and applies the doorbell latch. -/
def execDormantExit (s : State) : Out1 :=
  .next (State.settle (s.exitRow))

/-- DOORBELL_LATCH (R492): A doorbell write in Dormant is latched and wakes the engine. -/
def execDoorbellLatch (a : PageAccess) (s : State) : Out1 :=
  .next (State.settle (s.latchEvent a))

/-- BURNISH_READ (R501): burnish reads a live word, correcting and writing back or reporting it. -/
def execBurnishRead (store : Nat) (word : Nat) (s : State) : Out1 :=
  .next (State.settle (s.burnishRead store word))

/-- KEEPER_BURNISH (R501): KPR reads one keeper-store word every 1,525 ticks in every state. -/
def execKeeperBurnish (word : Nat) (s : State) : Out1 :=
  .next (State.settle (s.keeperBurnish word))

/-- BURNISH_SLICE (R502): every BurnishSliceTicks in Doze or Rest the keeper wakes the clock for a burnish slice. -/
def execBurnishSlice (words : List (Nat × Nat)) (s : State) : Out1 :=
  .next (State.settle (s.burnishSlice words))

/-- CALIBRATION (R503): calibration reads the sensors and sets timing trims every CalibrationPeriodTicks. -/
def execCalibration (inRange : Bool) (s : State) : Out1 :=
  .next (State.settle (s.calibrate inRange))

/-- STRESS_ROTATION (R504): every RotationPeriodTicks BGD rotates the physical instances serving lanes, channels and adders. -/
def execStressRotation (s : State) : Out1 :=
  .next (State.settle (s.rotate))

/-- TELEMETRY_RECORD (R505): every TelemetryPeriodTicks BGD writes a telemetry record into its ring. -/
def execTelemetryRecord (s : State) : Out1 :=
  .next (State.settle (s.telemetry))

/-- SUBSCRIPTION_NOTIFICATION (R533): A periodic subscription builds a notification every period. -/
def execSubscriptionNotification (sub : Nat) (s : State) : Out1 :=
  .next (State.settle (s.event fun s => s.periodOver sub))

/-- CHANGE_SCAN (R533): every ChangeScanTicks an on-change subscription compares its value and notifies on a change. -/
def execChangeScan (s : State) : Out1 :=
  .next (State.settle (s.event fun s => s.changeScan))

/-- SUB_LEASE_EXPIRY (R534): A subscription ends SubLeaseTicks after its last SUBSCRIBE. -/
def execSubLeaseExpiry (sub : Nat) (s : State) : Out1 :=
  .next (State.settle (s.event fun s => s.leaseOver sub))

end Sys2Proof.Machine
end

