-- ==== Sys2Proof/Machine/Messages.lean ====
section
/-! DEFINITION. The rows of AAP and MCTP messages from outside the rings (R513 to R534). -/

set_option Elab.async false

set_option linter.unusedVariables false

namespace Sys2Proof.Machine

/-- READ (R517): AAP op that returns an object's value. -/
def execRead (dest : AapDest) (message : List Byte) (s : State) : Out1 :=
  .next (State.settle (s.aapMessage 1 dest message))

/-- WRITE (R517): AAP op that writes an object's value. -/
def execWrite (dest : AapDest) (message : List Byte) (s : State) : Out1 :=
  .next (State.settle (s.aapMessage 2 dest message))

/-- DESCRIBE (R517): AAP op that returns an object's type, access, keep flag, length and reset value. -/
def execDescribe (dest : AapDest) (message : List Byte) (s : State) : Out1 :=
  .next (State.settle (s.aapMessage 3 dest message))

/-- NEXT (R517): AAP op that returns the next address the principal may read. -/
def execNext (dest : AapDest) (message : List Byte) (s : State) : Out1 :=
  .next (State.settle (s.aapMessage 4 dest message))

/-- SUBSCRIBE (R532): AAP op that takes a subscription instance for periodic or on-change notifications. -/
def execSubscribe (dest : AapDest) (message : List Byte) (s : State) : Out1 :=
  .next (State.settle (s.aapMessage 5 dest message))

/-- UNSUBSCRIBE (R534): AAP op that ends a subscription. -/
def execUnsubscribe (dest : AapDest) (message : List Byte) (s : State) : Out1 :=
  .next (State.settle (s.aapMessage 6 dest message))

/-- SET_ENDPOINT_ID (R529): MCTP control message that sets the engine's endpoint id. -/
def execSetEndpointId (source : Nat) (tag : Nat) (iid : Nat) (eid : Nat) (s : State) : Out1 :=
  .next (State.settle (s.mctpSet source tag iid eid))

/-- GET_ENDPOINT_ID (R529): MCTP control message that returns the engine's endpoint id. -/
def execGetEndpointId (source : Nat) (tag : Nat) (iid : Nat) (s : State) : Out1 :=
  .next (State.settle (s.mctpGet source tag iid))

/-- GET_MCTP_VERSION_SUPPORT (R529): MCTP control message that returns the supported MCTP versions. -/
def execGetMctpVersionSupport (source : Nat) (tag : Nat) (iid : Nat) (s : State) : Out1 :=
  .next (State.settle (s.mctpVersions source tag iid))

/-- GET_MESSAGE_TYPE_SUPPORT (R529): MCTP control message that returns the supported message types. -/
def execGetMessageTypeSupport (source : Nat) (tag : Nat) (iid : Nat) (s : State) : Out1 :=
  .next (State.settle (s.mctpTypes source tag iid))

end Sys2Proof.Machine
end

