-- ==== Sys2Proof/Machine/ObjectRows.lean ====
section
/-! DEFINITION. The rows of dictionary writes, and of the reads and releases they begin (R509 to R511). -/

set_option Elab.async false

set_option linter.unusedVariables false

namespace Sys2Proof.Machine

/-- RING_ENABLE (R69): ringEnable written 1 validates the ring and zeroes its indices. -/
def execRingEnable (p : Nat) (ring : Nat) (s : State) : Out1 :=
  .next (State.settle (s.regWrite p Reg.ringEnable ring 1))

/-- RING_DISABLE (R70): ringEnable written 0 stops fetching and finishes the commands in flight. -/
def execRingDisable (p : Nat) (ring : Nat) (s : State) : Out1 :=
  .next (State.settle (s.regWrite p Reg.ringEnable ring 0))

/-- PLAN_LOAD_GO (R164): write that starts reading and checking a plan image into the plan cache. -/
def execPlanLoadGo (p : Nat) (host : Nat) (planId : Nat) (s : State) : Out1 :=
  .next (State.settle (s.regWrite p Reg.planLoadGo host planId))

/-- PLAN_IMAGE_READ_DONE (R164): the plan image read ends, and the plan becomes resident or is refused with a check code. -/
def execPlanImageReadDone (host : Nat) (s : State) : Out1 :=
  .next (State.settle (s.event fun s => s.planRead host))

/-- KEY_LOAD_DONE (R104): A layer's key image and norm table are loaded and the layer becomes usable. -/
def execKeyLoadDone (host : Nat) (s : State) : Out1 :=
  .next (State.settle (s.event fun s => s.keyLoad host))

/-- PLAN_UNLOAD (R173): write that puts a plan into unloading so that new DISPATCHes naming it are refused. -/
def execPlanUnload (p : Nat) (host : Nat) (planId : Nat) (s : State) : Out1 :=
  .next (State.settle (s.regWrite p Reg.planUnload host planId))

/-- PLAN_FREE (R173): an unloading plan is freed once no command uses it and no flask of it is open. -/
def execPlanFree (planId : Nat) (s : State) : Out1 :=
  .next (State.settle (s.event fun s => s.planFree planId))

/-- PATTERN_LOAD_GO (R363): write that starts reading and checking a pattern image. -/
def execPatternLoadGo (p : Nat) (host : Nat) (patternId : Nat) (s : State) : Out1 :=
  .next (State.settle (s.regWrite p Reg.patternLoadGo host patternId))

/-- PATTERN_LOAD_DONE (R363): the pattern image read ends and the pattern becomes resident or is refused. -/
def execPatternLoadDone (host : Nat) (s : State) : Out1 :=
  .next (State.settle (s.event fun s => s.patternRead host))

/-- PATTERN_UNLOAD (R364): write that puts a pattern into unloading. -/
def execPatternUnload (p : Nat) (host : Nat) (patternId : Nat) (s : State) : Out1 :=
  .next (State.settle (s.regWrite p Reg.patternUnload host patternId))

/-- PATTERN_FREE (R364): an unloading pattern is freed once no command runs it. -/
def execPatternFree (patternId : Nat) (s : State) : Out1 :=
  .next (State.settle (s.event fun s => s.patternFree patternId))

/-- TABLE_LOAD_GO (R233): write that starts loading a routing-table version from memory. -/
def execTableLoadGo (p : Nat) (version : Nat) (s : State) : Out1 :=
  .next (State.settle (s.regWrite p Reg.tableLoadGo version 1))

/-- TABLE_LOAD_DONE (R233): the table image read ends and the version becomes Ready or holds a refusal code. -/
def execTableLoadDone (version : Nat) (s : State) : Out1 :=
  .next (State.settle (s.event fun s => s.tableRead version))

/-- ACTIVE_VERSION (R233): write that makes a Ready version Active and the previous Active version Draining. -/
def execActiveVersion (p : Nat) (version : Nat) (s : State) : Out1 :=
  .next (State.settle (s.regWrite p Reg.activeVersion 0 version))

/-- VERSION_FREE (R233): write of VersionState 0 that frees a drained or refused version. -/
def execVersionFree (p : Nat) (version : Nat) (s : State) : Out1 :=
  .next (State.settle (s.regWrite p Reg.versionState version 0))

/-- PEER_JOIN (R245): peerCommand 1 that starts a join with the queried peer. -/
def execPeerJoin (p : Nat) (s : State) : Out1 :=
  .next (State.settle (s.regWrite p Reg.peerCommand 0 1))

/-- PEER_LEAVE (R248): peerCommand 2 that leaves a drained peer. -/
def execPeerLeave (p : Nat) (s : State) : Out1 :=
  .next (State.settle (s.regWrite p Reg.peerCommand 0 2))

/-- PEER_DECLARE_DEAD (R215): peerCommand 3 that declares the queried peer Dead. -/
def execPeerDeclareDead (p : Nat) (s : State) : Out1 :=
  .next (State.settle (s.regWrite p Reg.peerCommand 0 3))

/-- PORT_ENABLE (R268): portEnable written 1 lets the port train and run. -/
def execPortEnable (p : Nat) (port : Nat) (s : State) : Out1 :=
  .next (State.settle (s.regWrite p Reg.portEnable port 1))

/-- PORT_DISABLE (R268): portEnable written 0 takes the port down with event code 0x05. -/
def execPortDisable (p : Nat) (port : Nat) (s : State) : Out1 :=
  .next (State.settle (s.regWrite p Reg.portEnable port 0))

/-- SURVEY_GO (R263): write that starts a runner survey sending paced probes over source ports and hop limits. -/
def execSurveyGo (p : Nat) (s : State) : Out1 :=
  .next (State.settle (s.regWrite p Reg.surveyGo 0 1))

/-- SURVEY_WAIT_EXPIRY (R264): surveyWaitTicks after the last probe, the survey state becomes done. -/
def execSurveyWaitExpiry (s : State) : Out1 :=
  .next (State.settle (s.event fun s => s.surveyDone))

/-- LINK_EVENT_CLEAR (R556): write that clears LinkEventPending. -/
def execLinkEventClear (p : Nat) (s : State) : Out1 :=
  .next (State.settle (s.regWrite p Reg.linkEventClear 0 1))

/-- WATCH_SESSION (R162): write of a session watch that sets its three counters to zero. -/
def execWatchSession (p : Nat) (watch : Nat) (session : Nat) (s : State) : Out1 :=
  .next (State.settle (s.regWrite p Reg.watchSession watch session))

/-- MASK_APPLY_STEP (R157): write that arms the pending domain mask for its apply step. -/
def execMaskApplyStep (p : Nat) (planId : Nat) (step : Nat) (s : State) : Out1 :=
  .next (State.settle (s.regWrite p Reg.maskApplyStep planId step))

/-- GROUP_ENABLE (R333): groupEnable written 1 starts reading and checking the collective group's member list. -/
def execGroupEnable (p : Nat) (group : Nat) (s : State) : Out1 :=
  .next (State.settle (s.regWrite p Reg.groupEnable group 1))

/-- GROUP_LIST_READ_DONE (R333): the member list read ends and the group becomes ready or holds a refusal code. -/
def execGroupListReadDone (group : Nat) (s : State) : Out1 :=
  .next (State.settle (s.event fun s => s.groupRead group))

/-- BALANCE_ENABLE (R349): balanceEnable written 1 binds a plan's layer range, context and COL group into a balance group. -/
def execBalanceEnable (p : Nat) (balance : Nat) (s : State) : Out1 :=
  .next (State.settle (s.regWrite p Reg.balanceEnable balance 1))

/-- REJOIN (R355): write that makes a Left balance member Rejoining. -/
def execRejoin (p : Nat) (balance : Nat) (s : State) : Out1 :=
  .next (State.settle (s.regWrite p Reg.rejoin balance 1))

/-- SNAPSHOT_GO (R356): write that copies a layer's load accumulator into LoadSnapshot and clears it. -/
def execSnapshotGo (p : Nat) (s : State) : Out1 :=
  .next (State.settle (s.regWrite p Reg.snapshotGo 0 1))

/-- EXC_RESUME (R385): excAction 1 that resumes a stopped context at the faulting word. -/
def execExcResume (p : Nat) (n : Nat) (s : State) : Out1 :=
  .next (State.settle (s.regWrite p Reg.excAction n 1))

/-- EXC_SKIP (R385): excAction 2 that resumes a stopped context at the word after the faulting one. -/
def execExcSkip (p : Nat) (n : Nat) (s : State) : Out1 :=
  .next (State.settle (s.regWrite p Reg.excAction n 2))

/-- EXC_KILL (R385): excAction 3 that kills the stopped context at once. -/
def execExcKill (p : Nat) (n : Nat) (s : State) : Out1 :=
  .next (State.settle (s.regWrite p Reg.excAction n 3))

/-- HOST_ENABLE (R425): hostEnable write that puts a host's shares in force or withdraws them. -/
def execHostEnable (p : Nat) (host : Nat) (value : Nat) (s : State) : Out1 :=
  .next (State.settle (s.regWrite p Reg.hostEnable host value))

/-- CONTEXT_DEFINE (R430): write that defines a context at heat 0 and InitialStep and writes its image. -/
def execContextDefine (p : Nat) (x : Nat) (s : State) : Out1 :=
  .next (State.settle (s.regWrite p Reg.contextDefine x 1))

/-- CONTEXT_UNDEFINE (R431): write that discards a context's image and counters. -/
def execContextUndefine (p : Nat) (x : Nat) (s : State) : Out1 :=
  .next (State.settle (s.regWrite p Reg.contextUndefine x 1))

/-- CONTEXT_RESET (R548): write that cancels a context's work, ends its commands and zeroes its programmer's state. -/
def execContextReset (p : Nat) (x : Nat) (s : State) : Out1 :=
  .next (State.settle (s.regWrite p Reg.contextReset x 1))

/-- ACCOUNTING_CLEAR (R457): write that sets a context's accounting fields to zero. -/
def execAccountingClear (p : Nat) (x : Nat) (s : State) : Out1 :=
  .next (State.settle (s.regWrite p Reg.accountingClear x 1))

/-- HOST_ACCOUNTING_CLEAR (R457): write that sets a host's accounting sums to zero. -/
def execHostAccountingClear (p : Nat) (host : Nat) (s : State) : Out1 :=
  .next (State.settle (s.regWrite p Reg.hostAccountingClear host 1))

/-- WIN_ENABLE (R413): winEnable written 1 checks and enables a translation window. -/
def execWinEnable (p : Nat) (window : Nat) (s : State) : Out1 :=
  .next (State.settle (s.regWrite p Reg.winEnable window 1))

/-- WIN_DISABLE (R416): winEnable written 0 disables a window for checks from the next cycle. -/
def execWinDisable (p : Nat) (window : Nat) (s : State) : Out1 :=
  .next (State.settle (s.regWrite p Reg.winEnable window 0))

/-- OWNER_FLUSH (R419): write that drops an owner table's cached entries. -/
def execOwnerFlush (p : Nat) (table : Nat) (s : State) : Out1 :=
  .next (State.settle (s.regWrite p Reg.ownerFlush table 1))

/-- CHECK_GO (R421): write that starts a standalone CRC run of a check channel over a memory range. -/
def execCheckGo (p : Nat) (channel : Nat) (s : State) : Out1 :=
  .next (State.settle (s.regWrite p Reg.checkGo channel 1))

/-- CHECK_RUN_END (R422): A check run ends and compares RunningValue with Expected. -/
def execCheckRunEnd (channel : Nat) (s : State) : Out1 :=
  .next (State.settle (s.event fun s => s.checkRunEnd channel))

/-- FAULT_CLEAR (R462): write that clears FaultStatus bits of a unit. -/
def execFaultClear (p : Nat) (unit : Nat) (mask : Nat) (s : State) : Out1 :=
  .next (State.settle (s.regWrite p Reg.faultClear unit mask))

/-- FIRST_ERROR_REARM (R463): write that rearms a unit's first-error capture. -/
def execFirstErrorRearm (p : Nat) (unit : Nat) (s : State) : Out1 :=
  .next (State.settle (s.regWrite p Reg.firstErrorRearm unit 1))

/-- HISTORY_DRAIN (R464): write that empties a unit's history queue. -/
def execHistoryDrain (p : Nat) (unit : Nat) (s : State) : Out1 :=
  .next (State.settle (s.regWrite p Reg.historyDrain unit 1))

/-- FAULT_ACK (R469): board write that acknowledges an Armed escalation slot. -/
def execFaultAck (p : Nat) (unit : Nat) (slot : Nat) (s : State) : Out1 :=
  .next (State.settle (s.regWrite p Reg.faultAck unit slot))

/-- HOST_FAULT_ACK (R469): host write that acknowledges an Armed Kill slot of its context. -/
def execHostFaultAck (p : Nat) (host : Nat) (value : Nat) (s : State) : Out1 :=
  .next (State.settle (s.regWrite p Reg.hostFaultAck host value))

/-- FATAL_STOP_NOW (R470): write that brings the fatal stop forward to the next cycle. -/
def execFatalStopNow (p : Nat) (s : State) : Out1 :=
  .next (State.settle (s.regWrite p Reg.fatalStopNow 0 1))

/-- PROMOTE_COUNT (R461): write of PromoteCount or PromoteWindowTicks that closes the source's open window. -/
def execPromoteCount (p : Nat) (window : Bool) (source : Nat) (value : Nat) (s : State) : Out1 :=
  .next (State.settle (s.regWrite p (if window then Reg.promoteWindowTicks else Reg.promoteCount) source value))

/-- INJECT_GO (R479): write that arms one fault injection into the selected checker. -/
def execInjectGo (p : Nat) (s : State) : Out1 :=
  .next (State.settle (s.regWrite p Reg.injectGo 0 1))

/-- KEY_SLOT (R519): write of 32 bytes that loads a principal's key slot and resets its replay state. -/
def execKeySlot (p : Nat) (second : Bool) (principal : Nat) (key : Nat) (s : State) : Out1 :=
  .next (State.settle (s.regWrite p (if second then Reg.keySlot1 else Reg.keySlot0) principal key))

/-- KEY_REVOKE (R519): write that clears a principal's key slots. -/
def execKeyRevoke (p : Nat) (principal : Nat) (mask : Nat) (s : State) : Out1 :=
  .next (State.settle (s.regWrite p Reg.keyRevoke principal mask))

/-- PEER_WAKE_TOLERANCE (R493): write that sends every Live peer a JOIN carrying the new wake tolerance. -/
def execPeerWakeTolerance (p : Nat) (ticks : Nat) (s : State) : Out1 :=
  .next (State.settle (s.regWrite p Reg.peerWakeTolerance 0 ticks))

/-- WAKE_NOW (R490): write that wakes the engine to Active. -/
def execWakeNow (p : Nat) (s : State) : Out1 :=
  .next (State.settle (s.regWrite p Reg.wakeNow 0 1))

/-- ENGINE_RUN (R544): write that starts every halted unit. -/
def execEngineRun (p : Nat) (s : State) : Out1 :=
  .next (State.settle (s.regWrite p Reg.engineRun 0 1))

/-- UNIT_HALT (R544): write that requests the halt of units or starts them again. -/
def execUnitHalt (p : Nat) (units : Nat) (s : State) : Out1 :=
  .next (State.settle (s.regWrite p Reg.unitHalt 0 units))

/-- UNIT_HALTED (R544): A unit whose halt was requested halts once it holds no work. -/
def execUnitHalted (unit : Nat) (s : State) : Out1 :=
  .next (State.settle (s.event fun s => s.unitHalts unit))

/-- DICTIONARY_WRITE (R511): write of any other dictionary object, refused or applied under its access class. -/
def execDictionaryWrite (p : Nat) (ix : Nat) (sub : Nat) (inst : Nat) (len : Nat) (value : Nat) (s : State) : Out1 :=
  .next (State.settle (s.addressWrite p ix sub inst len value))

end Sys2Proof.Machine
end

