-- ==== Sys2Proof/Machine/PageRows.lean ====
section
/-! DEFINITION. The rows of page accesses (R71 to R73, R291, R324, R332, R393, R396). -/

set_option Elab.async false

set_option linter.unusedVariables false

namespace Sys2Proof.Machine

/-- SUBMIT_TAIL (R73): doorbell write of a ring's SubmitTail that the engine samples to fetch new commands. -/
def execSubmitTail (a : PageAccess) (s : State) : Out1 :=
  .next (State.settle (s.pageEvent 0 a))

/-- COMPLETION_HEAD (R72): write of CompletionHead that frees completion slots consumed by the host. -/
def execCompletionHead (a : PageAccess) (s : State) : Out1 :=
  .next (State.settle (s.pageEvent 1 a))

/-- POP (R291): read of the landing port page that returns the next group table and advances the cursor. -/
def execPop (a : PageAccess) (s : State) : Out1 :=
  .next (State.settle (s.pageEvent 2 a))

/-- MARK (R291): write that sets the group queue mark to the cursor. -/
def execMark (a : PageAccess) (s : State) : Out1 :=
  .next (State.settle (s.pageEvent 3 a))

/-- REWIND (R291): write that sets the group queue cursor back to the mark. -/
def execRewind (a : PageAccess) (s : State) : Out1 :=
  .next (State.settle (s.pageEvent 4 a))

/-- RELEASE (R291): write of tables consumed, which lets LND reuse group ring space below it. -/
def execRelease (a : PageAccess) (s : State) : Out1 :=
  .next (State.settle (s.pageEvent 5 a))

/-- TALLY_PAGE_ADD (R324): tally page write that adds the written amount to a tally of the host. -/
def execTallyPageAdd (a : PageAccess) (s : State) : Out1 :=
  .next (State.settle (s.pageEvent 6 a))

/-- WATCH (R332): tally page write that chooses the tally shown by Value. -/
def execWatch (a : PageAccess) (s : State) : Out1 :=
  .next (State.settle (s.pageEvent 7 a))

/-- ALLOC (R393): ladle page read that requests one buffer of a class and returns its handle. -/
def execAlloc (a : PageAccess) (s : State) : Out1 :=
  .next (State.settle (s.pageEvent 8 a))

/-- FREE (R396): ladle page write that returns a buffer after handle, generation and holder checks. -/
def execFree (a : PageAccess) (s : State) : Out1 :=
  .next (State.settle (s.pageEvent 9 a))

end Sys2Proof.Machine
end

