-- ==== Sys2Proof/Machine/PinRows.lean ====
section
/-! DEFINITION. The rows of pins, clocks, resets and port lanes (R267 to R269, R481 to R485, R537 to R550). -/

set_option Elab.async false

set_option linter.unusedVariables false

namespace Sys2Proof.Machine

/-- COLD_RESET (R547): KRD_COLD_RST_N low or ColdResetNow clears every store and object and restarts start-up. -/
def execColdReset (pin : Bool) (s : State) : Out1 :=
  .next (State.settle (s.coldReset pin))

/-- BOOT_READY (R550): PLL lock, calibration and store initialisation end and BootState becomes 2. -/
def execBootReady (s : State) : Out1 :=
  .next (State.settle (s.bootServe))

/-- WARM_RESET (R546): KRD_WARM_RST_N low, WarmResetNow or a fatal restart clears non-keep state and restarts at a new incarnation. -/
def execWarmReset (s : State) : Out1 :=
  .next (State.settle (s.warmRow))

/-- PORT_RESET (R549): KRD_PORT_RST_N or PortReset takes the port down and holds its lanes in reset. -/
def execPortReset (port : Nat) (pin : Bool) (s : State) : Out1 :=
  .next (State.settle (s.portReset port pin))

/-- MAIN_GOOD_FALL (R539): KRD_MAIN_GOOD falling while requested raises KeeperUncorrectable and stops the engine at once. -/
def execMainGoodFall (s : State) : Out1 :=
  .next (State.settle (s.mainFall))

/-- MAIN_GOOD_RISE (R539): KRD_MAIN_GOOD rising lets a start-up or Dormant exit continue. -/
def execMainGoodRise (s : State) : Out1 :=
  .next (State.settle (s.mainRise))

/-- KRD_WAKE (R490): the wake input asserted wakes the engine to Active. -/
def execKrdWake (s : State) : Out1 :=
  .next (State.settle (s.rouse))

/-- FEED_SWITCH_OVER (R484): KEEP_A below 0.68 V for 200 ns moves the keeper island to KEEP_B. -/
def execFeedSwitchOver (keepBGood : Bool) (s : State) : Out1 :=
  .next (State.settle (s.feedToB keepBGood))

/-- FEED_RETURN (R485): KEEP_A good for 1 ms returns the keeper island from KEEP_B. -/
def execFeedReturn (s : State) : Out1 :=
  .next (State.settle (s.feedToA))

/-- KEEPER_FEED_LOSS (R482): loss of every keeper feed loses the keeper store and KeeperTick. -/
def execKeeperFeedLoss (s : State) : Out1 :=
  .next (State.settle (s.keeperLoss))

/-- LINK_UP (R268): A port whose lanes held lock for LinkUpTicks comes up and its runners become eligible. -/
def execLinkUp (port : Nat) (s : State) : Out1 :=
  .next (State.settle (s.event fun s => s.linkUp port))

/-- LINK_DOWN (R269): loss of signal, alignment or FEC lock persisting for LinkDownTicks takes the port down. -/
def execLinkDown (port : Nat) (s : State) : Out1 :=
  .next (State.settle (s.event fun s => s.linkDown port))

/-- FEC_DEGRADE (R268): fecDownThreshold uncorrectable codewords within 1 ms take the port down. -/
def execFecDegrade (port : Nat) (corrected : Nat) (bad : Nat) (s : State) : Out1 :=
  .next (State.settle (s.fecWords port corrected bad))

/-- KEEPER_POWER_UP (R481): the keeper island powers up from no feed when KEEP_A (or KEEP_B) and the keeper clock come up, and KeeperTick starts at 0. -/
def execKeeperPowerUp (keepB : Bool) (s : State) : Out1 :=
  .next (State.settle (s.keeperUp keepB))

/-- COLD_RESET_RELEASE (R537): the release of KRD_COLD_RST_N samples the tied-off inputs and starts the keeper-store zeroing of start-up. -/
def execColdResetRelease (chip : Nat) (pen : Nat) (base : Nat) (s : State) : Out1 :=
  .next (State.settle (s.coldRelease chip pen base))

/-- KEEPER_STORE_ZEROED (R547): when the keeper store has been zeroed (20,480 ticks), the engine asserts KRD_MAIN_REQ to request the main rails. -/
def execKeeperStoreZeroed (s : State) : Out1 :=
  .next (State.settle (s.storeZeroed))

/-- LOSS_OF_SIGNAL (R268): PRT_RXLOS rises, or alignment or FEC lock is lost, on a used lane, starting the LinkDownTicks count or breaking the LinkUpTicks hold. -/
def execLossOfSignal (port : Nat) (lane : Nat) (kind : Nat) (s : State) : Out1 :=
  .next (State.settle (s.lockLoss port lane kind))

/-- LANE_LOCK (R268): every used lane gains PRT_RXLOCK, alignment lock and FEC lock, starting the LinkUpTicks hold (or ending a pending loss before LinkDownTicks). -/
def execLaneLock (port : Nat) (s : State) : Out1 :=
  .next (State.settle (s.laneLock port))

/-- PORT_RESET_END (R549): after 63 ticks, or when KRD_PORT_RST_N[p] rises if later, PRT_LANERST is released and the port trains again. -/
def execPortResetEnd (port : Nat) (s : State) : Out1 :=
  .next (State.settle (s.portResetEnd port))

/-- FRAME_DROP (R259): A received frame that fails FCS, length, tag, EtherType, address or header-CRC checks is dropped and counted before its class is known. -/
def execFrameDrop (rx : Rx) (reason : Nat) (s : State) : Out1 :=
  .next (State.settle (s.event fun s => s.dropFrame rx.fresh reason))

/-- PEER_DIRECTORY_FETCH (R249): A peer cache miss's read of the directory entry completes about 350 ns later, filling the entry and releasing the frames held for it. -/
def execPeerDirectoryFetch (node : Nat) (s : State) : Out1 :=
  .next (State.settle (s.event fun s => s.directoryFetch node))

/-- CORE_CLOCK_THROTTLE (R14): the core clock is throttled or restored, changing the ns length of every cycle-counted figure. -/
def execCoreClockThrottle (mhz : Nat) (s : State) : Out1 :=
  .next (State.settle (s.setClock mhz))

end Sys2Proof.Machine
end

