-- ==== Sys2Proof/Machine/Scalars.lean ====
section
/-! DEFINITION. The scalar rows: a scalar slot of the word that a sequencer issues (R366 to R369). -/

set_option Elab.async false

set_option linter.unusedVariables false

namespace Sys2Proof.Machine

/-- ADD (R367): scalar instruction gd := ga + gb modulo 2^64. -/
def execAdd (n : Nat) (slotB : Bool) (guard : Nat) (rd : Nat) (ra : Nat) (rb : Nat) (s : State) : Out1 :=
  .next (State.settle (s.event fun s => s.scalarRow n slotB { guard := guard, op := 0x1, rd := rd, ra := ra, rb := rb, pd := 0, rsvd := 0, imm := 0 }))

/-- SUB (R367): scalar instruction gd := ga − gb modulo 2^64. -/
def execSub (n : Nat) (slotB : Bool) (guard : Nat) (rd : Nat) (ra : Nat) (rb : Nat) (s : State) : Out1 :=
  .next (State.settle (s.event fun s => s.scalarRow n slotB { guard := guard, op := 0x2, rd := rd, ra := ra, rb := rb, pd := 0, rsvd := 0, imm := 0 }))

/-- AND (R367): scalar instruction gd := ga and gb. -/
def execAnd (n : Nat) (slotB : Bool) (guard : Nat) (rd : Nat) (ra : Nat) (rb : Nat) (s : State) : Out1 :=
  .next (State.settle (s.event fun s => s.scalarRow n slotB { guard := guard, op := 0x3, rd := rd, ra := ra, rb := rb, pd := 0, rsvd := 0, imm := 0 }))

/-- OR (R367): scalar instruction gd := ga or gb. -/
def execOr (n : Nat) (slotB : Bool) (guard : Nat) (rd : Nat) (ra : Nat) (rb : Nat) (s : State) : Out1 :=
  .next (State.settle (s.event fun s => s.scalarRow n slotB { guard := guard, op := 0x4, rd := rd, ra := ra, rb := rb, pd := 0, rsvd := 0, imm := 0 }))

/-- XOR (R367): scalar instruction gd := ga xor gb. -/
def execXor (n : Nat) (slotB : Bool) (guard : Nat) (rd : Nat) (ra : Nat) (rb : Nat) (s : State) : Out1 :=
  .next (State.settle (s.event fun s => s.scalarRow n slotB { guard := guard, op := 0x5, rd := rd, ra := ra, rb := rb, pd := 0, rsvd := 0, imm := 0 }))

/-- SHL (R367): scalar instruction that shifts ga left by gb mod 64. -/
def execShl (n : Nat) (slotB : Bool) (guard : Nat) (rd : Nat) (ra : Nat) (rb : Nat) (s : State) : Out1 :=
  .next (State.settle (s.event fun s => s.scalarRow n slotB { guard := guard, op := 0x6, rd := rd, ra := ra, rb := rb, pd := 0, rsvd := 0, imm := 0 }))

/-- SHR (R367): scalar instruction that shifts ga right by gb mod 64 with zero fill. -/
def execShr (n : Nat) (slotB : Bool) (guard : Nat) (rd : Nat) (ra : Nat) (rb : Nat) (s : State) : Out1 :=
  .next (State.settle (s.event fun s => s.scalarRow n slotB { guard := guard, op := 0x7, rd := rd, ra := ra, rb := rb, pd := 0, rsvd := 0, imm := 0 }))

/-- SAR (R367): scalar instruction that shifts ga right by gb mod 64 with sign fill. -/
def execSar (n : Nat) (slotB : Bool) (guard : Nat) (rd : Nat) (ra : Nat) (rb : Nat) (s : State) : Out1 :=
  .next (State.settle (s.event fun s => s.scalarRow n slotB { guard := guard, op := 0x8, rd := rd, ra := ra, rb := rb, pd := 0, rsvd := 0, imm := 0 }))

/-- MUL (R367): scalar instruction giving the low 64 bits of ga · gb. -/
def execMul (n : Nat) (slotB : Bool) (guard : Nat) (rd : Nat) (ra : Nat) (rb : Nat) (s : State) : Out1 :=
  .next (State.settle (s.event fun s => s.scalarRow n slotB { guard := guard, op := 0x9, rd := rd, ra := ra, rb := rb, pd := 0, rsvd := 0, imm := 0 }))

/-- MINU (R367): scalar instruction giving the unsigned minimum of ga and gb. -/
def execMinu (n : Nat) (slotB : Bool) (guard : Nat) (rd : Nat) (ra : Nat) (rb : Nat) (s : State) : Out1 :=
  .next (State.settle (s.event fun s => s.scalarRow n slotB { guard := guard, op := 0xa, rd := rd, ra := ra, rb := rb, pd := 0, rsvd := 0, imm := 0 }))

/-- MAXU (R367): scalar instruction giving the unsigned maximum of ga and gb. -/
def execMaxu (n : Nat) (slotB : Bool) (guard : Nat) (rd : Nat) (ra : Nat) (rb : Nat) (s : State) : Out1 :=
  .next (State.settle (s.event fun s => s.scalarRow n slotB { guard := guard, op := 0xb, rd := rd, ra := ra, rb := rb, pd := 0, rsvd := 0, imm := 0 }))

/-- ADDI (R367): scalar instruction gd := ga + sext(Imm). -/
def execAddi (n : Nat) (slotB : Bool) (guard : Nat) (rd : Nat) (ra : Nat) (imm : Nat) (s : State) : Out1 :=
  .next (State.settle (s.event fun s => s.scalarRow n slotB { guard := guard, op := 0x10, rd := rd, ra := ra, rb := 0, pd := 0, rsvd := 0, imm := imm }))

/-- ANDI (R367): scalar instruction gd := ga and sext(Imm). -/
def execAndi (n : Nat) (slotB : Bool) (guard : Nat) (rd : Nat) (ra : Nat) (imm : Nat) (s : State) : Out1 :=
  .next (State.settle (s.event fun s => s.scalarRow n slotB { guard := guard, op := 0x11, rd := rd, ra := ra, rb := 0, pd := 0, rsvd := 0, imm := imm }))

/-- ORI (R367): scalar instruction gd := ga or zext(Imm). -/
def execOri (n : Nat) (slotB : Bool) (guard : Nat) (rd : Nat) (ra : Nat) (imm : Nat) (s : State) : Out1 :=
  .next (State.settle (s.event fun s => s.scalarRow n slotB { guard := guard, op := 0x12, rd := rd, ra := ra, rb := 0, pd := 0, rsvd := 0, imm := imm }))

/-- SHLI (R367): scalar instruction that shifts ga left by Imm[5:0]. -/
def execShli (n : Nat) (slotB : Bool) (guard : Nat) (rd : Nat) (ra : Nat) (imm : Nat) (s : State) : Out1 :=
  .next (State.settle (s.event fun s => s.scalarRow n slotB { guard := guard, op := 0x13, rd := rd, ra := ra, rb := 0, pd := 0, rsvd := 0, imm := imm }))

/-- SHRI (R367): scalar instruction that shifts ga right by Imm[5:0] with zero fill. -/
def execShri (n : Nat) (slotB : Bool) (guard : Nat) (rd : Nat) (ra : Nat) (imm : Nat) (s : State) : Out1 :=
  .next (State.settle (s.event fun s => s.scalarRow n slotB { guard := guard, op := 0x14, rd := rd, ra := ra, rb := 0, pd := 0, rsvd := 0, imm := imm }))

/-- LI (R367): scalar instruction gd := sext(Imm). -/
def execLi (n : Nat) (slotB : Bool) (guard : Nat) (rd : Nat) (imm : Nat) (s : State) : Out1 :=
  .next (State.settle (s.event fun s => s.scalarRow n slotB { guard := guard, op := 0x15, rd := rd, ra := 0, rb := 0, pd := 0, rsvd := 0, imm := imm }))

/-- LIH (R367): scalar instruction that places Imm in the high 32 bits over the low 32 bits of ga. -/
def execLih (n : Nat) (slotB : Bool) (guard : Nat) (rd : Nat) (ra : Nat) (imm : Nat) (s : State) : Out1 :=
  .next (State.settle (s.event fun s => s.scalarRow n slotB { guard := guard, op := 0x16, rd := rd, ra := ra, rb := 0, pd := 0, rsvd := 0, imm := imm }))

/-- BFX (R367): scalar instruction that extracts a w-bit field of ga at shift Imm[5:0]. -/
def execBfx (n : Nat) (slotB : Bool) (guard : Nat) (rd : Nat) (ra : Nat) (imm : Nat) (s : State) : Out1 :=
  .next (State.settle (s.event fun s => s.scalarRow n slotB { guard := guard, op := 0x17, rd := rd, ra := ra, rb := 0, pd := 0, rsvd := 0, imm := imm }))

/-- CEQ (R367): predicate instruction pd := (ga = gb). -/
def execCeq (n : Nat) (slotB : Bool) (guard : Nat) (ra : Nat) (rb : Nat) (pd : Nat) (s : State) : Out1 :=
  .next (State.settle (s.event fun s => s.scalarRow n slotB { guard := guard, op := 0x20, rd := 0, ra := ra, rb := rb, pd := pd, rsvd := 0, imm := 0 }))

/-- CNE (R367): predicate instruction pd := (ga ≠ gb). -/
def execCne (n : Nat) (slotB : Bool) (guard : Nat) (ra : Nat) (rb : Nat) (pd : Nat) (s : State) : Out1 :=
  .next (State.settle (s.event fun s => s.scalarRow n slotB { guard := guard, op := 0x21, rd := 0, ra := ra, rb := rb, pd := pd, rsvd := 0, imm := 0 }))

/-- CLTU (R367): predicate instruction for unsigned ga < gb. -/
def execCltu (n : Nat) (slotB : Bool) (guard : Nat) (ra : Nat) (rb : Nat) (pd : Nat) (s : State) : Out1 :=
  .next (State.settle (s.event fun s => s.scalarRow n slotB { guard := guard, op := 0x22, rd := 0, ra := ra, rb := rb, pd := pd, rsvd := 0, imm := 0 }))

/-- CLTS (R367): predicate instruction for signed ga < gb. -/
def execClts (n : Nat) (slotB : Bool) (guard : Nat) (ra : Nat) (rb : Nat) (pd : Nat) (s : State) : Out1 :=
  .next (State.settle (s.event fun s => s.scalarRow n slotB { guard := guard, op := 0x23, rd := 0, ra := ra, rb := rb, pd := pd, rsvd := 0, imm := 0 }))

/-- CEQI (R367): predicate instruction pd := (ga = sext(Imm)). -/
def execCeqi (n : Nat) (slotB : Bool) (guard : Nat) (ra : Nat) (pd : Nat) (imm : Nat) (s : State) : Out1 :=
  .next (State.settle (s.event fun s => s.scalarRow n slotB { guard := guard, op := 0x24, rd := 0, ra := ra, rb := 0, pd := pd, rsvd := 0, imm := imm }))

/-- CLTUI (R367): predicate instruction for unsigned ga < sext(Imm). -/
def execCltui (n : Nat) (slotB : Bool) (guard : Nat) (ra : Nat) (pd : Nat) (imm : Nat) (s : State) : Out1 :=
  .next (State.settle (s.event fun s => s.scalarRow n slotB { guard := guard, op := 0x25, rd := 0, ra := ra, rb := 0, pd := pd, rsvd := 0, imm := imm }))

/-- PAND (R367): predicate instruction that ANDs two predicates. -/
def execPand (n : Nat) (slotB : Bool) (guard : Nat) (ra : Nat) (rb : Nat) (pd : Nat) (s : State) : Out1 :=
  .next (State.settle (s.event fun s => s.scalarRow n slotB { guard := guard, op := 0x28, rd := 0, ra := ra, rb := rb, pd := pd, rsvd := 0, imm := 0 }))

/-- POR (R367): predicate instruction that ORs two predicates. -/
def execPor (n : Nat) (slotB : Bool) (guard : Nat) (ra : Nat) (rb : Nat) (pd : Nat) (s : State) : Out1 :=
  .next (State.settle (s.event fun s => s.scalarRow n slotB { guard := guard, op := 0x29, rd := 0, ra := ra, rb := rb, pd := pd, rsvd := 0, imm := 0 }))

/-- PNOT (R367): predicate instruction that inverts a predicate. -/
def execPnot (n : Nat) (slotB : Bool) (guard : Nat) (ra : Nat) (pd : Nat) (s : State) : Out1 :=
  .next (State.settle (s.event fun s => s.scalarRow n slotB { guard := guard, op := 0x2a, rd := 0, ra := ra, rb := 0, pd := pd, rsvd := 0, imm := 0 }))

/-- RDS (R367): scalar instruction that reads a special value such as step, heat, context or keeper tick. -/
def execRds (n : Nat) (slotB : Bool) (guard : Nat) (rd : Nat) (imm : Nat) (s : State) : Out1 :=
  .next (State.settle (s.event fun s => s.scalarRow n slotB { guard := guard, op := 0x30, rd := rd, ra := 0, rb := 0, pd := 0, rsvd := 0, imm := imm }))

/-- LDT (R369): scalar instruction that loads a tally's value into gd. -/
def execLdt (n : Nat) (slotB : Bool) (guard : Nat) (rd : Nat) (ra : Nat) (s : State) : Out1 :=
  .next (State.settle (s.event fun s => s.scalarRow n slotB { guard := guard, op := 0x31, rd := rd, ra := ra, rb := 0, pd := 0, rsvd := 0, imm := 0 }))

/-- LDM (R369): scalar instruction that loads 64 bits from memory, scratch or command space. -/
def execLdm (n : Nat) (slotB : Bool) (guard : Nat) (rd : Nat) (ra : Nat) (imm : Nat) (s : State) : Out1 :=
  .next (State.settle (s.event fun s => s.scalarRow n slotB { guard := guard, op := 0x38, rd := rd, ra := ra, rb := 0, pd := 0, rsvd := 0, imm := imm }))

/-- STM (R369): scalar instruction that stores 64 bits to memory, scratch or result space. -/
def execStm (n : Nat) (slotB : Bool) (guard : Nat) (ra : Nat) (rb : Nat) (imm : Nat) (s : State) : Out1 :=
  .next (State.settle (s.event fun s => s.scalarRow n slotB { guard := guard, op := 0x39, rd := 0, ra := ra, rb := rb, pd := 0, rsvd := 0, imm := imm }))

end Sys2Proof.Machine
end

