-- ==== Sys2Proof/Machine/StepRows.lean ====
section
/-! DEFINITION. The rows of the steps of a DISPATCH and of the units that work beside it. -/

set_option Elab.async false

set_option linter.unusedVariables false

namespace Sys2Proof.Machine

/-- ROW_SETTLE (R116): after a chunk test proves its ranks, or after its last chunk, a row settles and goes to SEL. -/
def execRowSettle (uid : Nat) (row : Nat) (s : State) : Out1 :=
  .next (State.settle (s.event fun s => s.rowSettle uid row))

/-- SCORE_END (R145): the array finishes a row's scores and SEL writes its gate weights into the stitch slot. -/
def execScoreEnd (uid : Nat) (row : Nat) (s : State) : Out1 :=
  .next (State.settle (s.event fun s => s.scoreEnd uid row))

/-- BLOCK_OPEN (R299): STC opens the DISPATCH's stitch block once a free run and directory entry exist. -/
def execBlockOpen (uid : Nat) (s : State) : Out1 :=
  .next (State.settle (s.event fun s => s.blockOpen uid))

/-- DELIVERY_GROUP_SORT (R174): SRT sorts a delivery group by destination, expert and rank and appends it to the bins. -/
def execDeliveryGroupSort (uid : Nat) (s : State) : Out1 :=
  .next (State.settle (s.event fun s => s.groupSort uid))

/-- PACKET_BUILD (R178): A free pour lane takes an eligible bin, coalesces copies and hands a dispatch packet to RTT. -/
def execPacketBuild (uid : Nat) (half : Nat) (destination : Nat) (s : State) : Out1 :=
  .next (State.settle (s.event fun s => s.packetBuild uid half destination))

/-- POUR_CLOSE_SEND (R185): after the last copy is handed over, POR sends a close to every node of a live replica entry. -/
def execPourCloseSend (uid : Nat) (half : Nat) (s : State) : Out1 :=
  .next (State.settle (s.event fun s => s.pourClose uid half))

/-- RETURN_PACKET_BUILD (R194): A pour lane builds a return packet from ready answers of a flask. -/
def execReturnPacketBuild (planId : Nat) (flask : Nat) (s : State) : Out1 :=
  .next (State.settle (s.event fun s => s.returnBuild planId flask))

/-- GROUP_TABLE_WRITE (R290): when the last flask of a pour use closes, LND writes the group table into the host's group ring. -/
def execGroupTableWrite (planId : Nat) (pour : Nat) (s : State) : Out1 :=
  .next (State.settle (s.event fun s => s.tableWrite planId pour))

/-- GROUP_TABLE_WRITTEN (R290): the table's write responses return and LND increments GroupTally. -/
def execGroupTableWritten (host : Nat) (s : State) : Out1 :=
  .next (State.settle (s.event fun s => s.tableWritten host))

/-- FORCED_CLOSE (R286): A flask Filling for UseLimitTicks is closed by force and its missing sources become Late. -/
def execForcedClose (planId : Nat) (flask : Nat) (s : State) : Out1 :=
  .next (State.settle (s.event fun s => s.forcedClose planId flask))

/-- FLASK_RELEASE (R293): A Closed flask whose answers have all returned and settled is released to Free. -/
def execFlaskRelease (planId : Nat) (flask : Nat) (s : State) : Out1 :=
  .next (State.settle (s.event fun s => s.flaskRelease planId flask))

/-- SHARED_POST_READ_DONE (R302): A shared-expert output read completes and sets SharedPresent for its rows. -/
def execSharedPostReadDone (post : Nat) (s : State) : Out1 :=
  .next (State.settle (s.event fun s => s.sharedReadDone post))

/-- COMBINE (R309): the combine pipe takes a Queued row and sums its terms in fixed order, rounding once. -/
def execCombine (x : Nat) (row : Nat) (s : State) : Out1 :=
  .next (State.settle (s.event fun s => s.combine x row))

/-- ROW_WRITE_VISIBLE (R312): A row's result write becomes visible and STC increments StitchTally. -/
def execRowWriteVisible (x : Nat) (row : Nat) (s : State) : Out1 :=
  .next (State.settle (s.event fun s => s.writeVisible x row))

/-- STITCH_WAIT_EXPIRY (R306): A row Waiting for StitchWaitTicks has every still-expected rank lost. -/
def execStitchWaitExpiry (x : Nat) (row : Nat) (s : State) : Out1 :=
  .next (State.settle (s.event fun s => s.stitchExpiry x row))

/-- DISPATCH_READY (R372): A DISPATCH whose rows, results, pour and effects are all visible becomes ready. -/
def execDispatchReady (uid : Nat) (s : State) : Out1 :=
  .next (State.settle (s.event fun s => s.dispatchReady uid))

/-- TALLY_WAIT_RELEASE (R327): TLY releases a wait whose tally reaches its threshold, making its waiter runnable. -/
def execTallyWaitRelease (position : Nat) (s : State) : Out1 :=
  .next (State.settle (s.event fun s => s.watchRelease position))

/-- TALLY_POLL (R327): every 4 ticks TLY tests the waits on its poll list. -/
def execTallyPoll (s : State) : Out1 :=
  .next (State.settle (s.event fun s => s.pollTurn))

/-- CONTEXT_SCHEDULE (R439): an idle sequencer runs its best resident runnable context, starting a replay if pending. -/
def execContextSchedule (n : Nat) (s : State) : Out1 :=
  .next (State.settle (s.event fun s => s.schedule n))

/-- CONTEXT_SWAP (R441): the scheduler swaps a victim out and a runnable context into a chosen entry. -/
def execContextSwap (s : State) : Out1 :=
  .next (State.settle (s.event fun s => s.swapTurn))

/-- REST_WATCHDOG (R381): A context running RestWatchdogTicks without a WAIT or END raises RestWatchdog. -/
def execRestWatchdog (n : Nat) (s : State) : Out1 :=
  .next (State.settle (s.event fun s => s.restWatchdog n))

/-- STARVE_AGING (R440): A standard or background context runnable for StarveTicks takes the interactive class. -/
def execStarveAging (x : Nat) (s : State) : Out1 :=
  .next (State.settle (s.event fun s => s.age x))

/-- BIAS_LATE (R354): A held DISPATCH whose epoch is not armed within BiasLateTicks proceeds and the member becomes Left. -/
def execBiasLate (balance : Nat) (s : State) : Out1 :=
  .next (State.settle (s.event fun s => s.biasLate balance))

/-- COLL_WATCHDOG (R346): A collective step watchdog expiring sends an abort toward position 0. -/
def execCollWatchdog (group : Nat) (s : State) : Out1 :=
  .next (State.settle (s.event fun s => s.collWatchdog group))

/-- MOULD_PHASE_DONE (R408): A COPY phase's writes all have responses and the next phase starts or the COPY completes. -/
def execMouldPhaseDone (copy : Nat) (s : State) : Out1 :=
  .next (State.settle (s.event fun s => s.mouldPhase copy))

/-- GROUP_STALL_EXPIRY (R291): A held Pop read returns 0 after GroupStallTicks with no table. -/
def execGroupStallExpiry (host : Nat) (s : State) : Out1 :=
  .next (State.settle (s.event fun s => s.popExpiry host))

/-- ALLOC_STALL_EXPIRY (R393): A held Alloc read returns 0 after AllocStallTicks. -/
def execAllocStallExpiry (host : Nat) (cls : Nat) (s : State) : Out1 :=
  .next (State.settle (s.event fun s => s.allocExpiry host cls))

end Sys2Proof.Machine
end

