-- ==== Sys2Proof/Machine/TransportRows.lean ====
section
/-! DEFINITION. The rows of the transmit arbiter and the transport timers (R212 to R243). -/

set_option Elab.async false

set_option linter.unusedVariables false

namespace Sys2Proof.Machine

/-- FRAME_START (R234): pRT's transmit arbiter starts an eligible frame, stamping the Active epoch and drawing on its buckets. -/
def execFrameStart (port : Nat) (s : State) : Out1 :=
  .next (State.settle (s.quietEvent fun s => s.frameTurn port))

/-- ACK_SEND (R212): the destination sends an ACK 32 cycles after an unacknowledged settlement or at 16 pending. -/
def execAckSend (node : Nat) (s : State) : Out1 :=
  .next (State.settle (s.quietEvent fun s => s.ackDue node))

/-- ACK_HOLD_EXPIRY (R212): A received frame unsettled for AckHoldTicks is reported received. -/
def execAckHoldExpiry (node : Nat) (cls : Nat) (seq : Nat) (s : State) : Out1 :=
  .next (State.settle (s.event fun s => s.ackHold node cls seq))

/-- RETRANSMIT_TIMEOUT (R213): an outstanding frame unacknowledged for RetransmitTicks is resent with Retry set. -/
def execRetransmitTimeout (node : Nat) (cls : Nat) (seq : Nat) (s : State) : Out1 :=
  .next (State.settle (s.quietEvent fun s => s.retransmit node cls seq))

/-- SETTLE_LIMIT_EXPIRY (R215): A frame outstanding past its retransmit or settle limit makes the peer Dead. -/
def execSettleLimitExpiry (node : Nat) (cls : Nat) (seq : Nat) (s : State) : Out1 :=
  .next (State.settle (s.event fun s => s.settleLimit node cls seq))

/-- ATOMIC_RETRY_TIMEOUT (R227): an atomic without REPLY for AtomicRetryTicks is retried or abandoned as unknown. -/
def execAtomicRetryTimeout (node : Nat) (seq : Nat) (s : State) : Out1 :=
  .next (State.settle (s.event fun s => s.atomicTimeout node seq))

/-- CREDIT_RELEASE (R225): an atomic credit frees ReplyRetentionTicks after its REPLY, letting a waiting atomic go. -/
def execCreditRelease (node : Nat) (s : State) : Out1 :=
  .next (State.settle (s.event fun s => s.creditRelease node))

/-- REPLY_CACHE_EXPIRY (R224): A reply cache entry ends its retention of ReplyRetentionTicks. -/
def execReplyCacheExpiry (s : State) : Out1 :=
  .next (State.settle (s.event fun s => s.cacheExpiry))

/-- FRAME_LIFE_EXPIRY (R235): A frame leaves its port's EpochInFlight count MaxFrameLifeTicks after it started. -/
def execFrameLifeExpiry (port : Nat) (s : State) : Out1 :=
  .next (State.settle (s.event fun s => s.frameLife port))

/-- INCARNATION_QUIET_END (R243): maxFrameLifeTicks after its first port came up, a new incarnation may send frames other than JOIN. -/
def execIncarnationQuietEnd (s : State) : Out1 :=
  .next (State.settle (s.event fun s => s.quietEnd))

/-- PEER_SLEEP_HOLD_EXPIRY (R494): A peer Asleep for PeerSleepHoldTicks is declared Dead. -/
def execPeerSleepHoldExpiry (node : Nat) (s : State) : Out1 :=
  .next (State.settle (s.event fun s => s.sleepHoldOver node))

end Sys2Proof.Machine
end

