-- ==== Sys2Proof/Machine/Words.lean ====
section
/-! DEFINITION. The rows of the control slot and the wide slots of an issuing word (R370 to R380). -/

set_option Elab.async false

set_option linter.unusedVariables false

namespace Sys2Proof.Machine

/-- NOP (R366): control instruction that does nothing. -/
def execNop (n : Nat) (guard : Nat) (s : State) : Out1 :=
  .next (State.settle (s.event fun s => s.controlRow n { guard := guard, cop := 0, target := 0, tallyA := 0, threshA := 0, tallyB := 0, threshB := 0, combine := 0, rsvd := 0 }))

/-- BR (R370): control instruction that sets pc to Target. -/
def execBr (n : Nat) (guard : Nat) (target : Nat) (s : State) : Out1 :=
  .next (State.settle (s.event fun s => s.controlRow n { guard := guard, cop := 1, target := target, tallyA := 0, threshA := 0, tallyB := 0, threshB := 0, combine := 0, rsvd := 0 }))

/-- CALL (R370): control instruction that pushes pc + 1 and branches to Target. -/
def execCall (n : Nat) (guard : Nat) (target : Nat) (s : State) : Out1 :=
  .next (State.settle (s.event fun s => s.controlRow n { guard := guard, cop := 2, target := target, tallyA := 0, threshA := 0, tallyB := 0, threshB := 0, combine := 0, rsvd := 0 }))

/-- RET (R370): control instruction that pops pc from the return stack. -/
def execRet (n : Nat) (guard : Nat) (s : State) : Out1 :=
  .next (State.settle (s.event fun s => s.controlRow n { guard := guard, cop := 3, target := 0, tallyA := 0, threshA := 0, tallyB := 0, threshB := 0, combine := 0, rsvd := 0 }))

/-- WAIT (R371): control instruction that rests the context until its tally condition holds. -/
def execWait (n : Nat) (guard : Nat) (tallyA : Nat) (threshA : Nat) (tallyB : Nat) (threshB : Nat) (combine : Nat) (s : State) : Out1 :=
  .next (State.settle (s.event fun s => s.controlRow n { guard := guard, cop := 4, target := 0, tallyA := tallyA, threshA := threshA, tallyB := tallyB, threshB := threshB, combine := combine, rsvd := 0 }))

/-- END (R372): control instruction that ends the pattern and lets the command become ready. -/
def execEndPattern (n : Nat) (guard : Nat) (s : State) : Out1 :=
  .next (State.settle (s.event fun s => s.controlRow n { guard := guard, cop := 5, target := 0, tallyA := 0, threshA := 0, tallyB := 0, threshB := 0, combine := 0, rsvd := 0 }))

/-- TRAP (R370): control instruction that raises the Trap exception with its code. -/
def execTrap (n : Nat) (guard : Nat) (code : Nat) (s : State) : Out1 :=
  .next (State.settle (s.event fun s => s.controlRow n { guard := guard, cop := 6, target := code, tallyA := 0, threshA := 0, tallyB := 0, threshB := 0, combine := 0, rsvd := 0 }))

/-- SCORE (R374): wide slot that starts scoring of every row of the DISPATCH and fixes the fallback level. -/
def execScore (n : Nat) (guard : Nat) (tallyEnable : Nat) (tallyReg : Nat) (s : State) : Out1 :=
  .next (State.settle (s.event fun s => s.scoreRow n { guard := guard, op := 1, tallyEnable := tallyEnable, tallyReg := tallyReg, rsvd := 0 }))

/-- SELECT_ARM (R375): SELECT slot ARM that takes the deadline monitor's fallback level. -/
def execSelectArm (n : Nat) (guard : Nat) (s : State) : Out1 :=
  .next (State.settle (s.event fun s => s.selectRow n { guard := guard, op := 1, level := 0, rsvd := 0 }))

/-- ARM_LEVEL (R375): SELECT slot that takes the greater of Level and the monitor's choice. -/
def execArmLevel (n : Nat) (guard : Nat) (level : Nat) (s : State) : Out1 :=
  .next (State.settle (s.event fun s => s.selectRow n { guard := guard, op := 2, level := level, rsvd := 0 }))

/-- POUR_ARM (R376): POUR slot that lets POR send the command's dispatch pour. -/
def execPourArm (n : Nat) (guard : Nat) (tallyEnable : Nat) (tallyReg : Nat) (s : State) : Out1 :=
  .next (State.settle (s.event fun s => s.pourRow n { guard := guard, op := 1, tallyEnable := tallyEnable, tallyReg := tallyReg, rsvd := 0 }))

/-- STITCH_OPEN (R377): STITCH slot that names StitchTally for the block that opens when SCORE issues. -/
def execStitchOpen (n : Nat) (guard : Nat) (tallyReg : Nat) (s : State) : Out1 :=
  .next (State.settle (s.event fun s => s.stitchRow n { guard := guard, op := 1, reg := tallyReg, rsvd := 0 }))

/-- STITCH_SHARED (R377): STITCH slot that reads a shared post descriptor and starts the read of shared-expert outputs. -/
def execStitchShared (n : Nat) (guard : Nat) (descReg : Nat) (s : State) : Out1 :=
  .next (State.settle (s.event fun s => s.stitchRow n { guard := guard, op := 2, reg := descReg, rsvd := 0 }))

/-- TALLY_SLOT_ADD (R378): TALLY slot that adds a register value to a tally. -/
def execTallySlotAdd (n : Nat) (guard : Nat) (tallyReg : Nat) (valueReg : Nat) (s : State) : Out1 :=
  .next (State.settle (s.event fun s => s.tallyRow n { guard := guard, op := 1, tallyReg := tallyReg, valueReg := valueReg, rsvd := 0, imm := 0 }))

/-- TALLY_SLOT_SET (R378): TALLY slot that sets a tally to a register value. -/
def execTallySlotSet (n : Nat) (guard : Nat) (tallyReg : Nat) (valueReg : Nat) (s : State) : Out1 :=
  .next (State.settle (s.event fun s => s.tallyRow n { guard := guard, op := 2, tallyReg := tallyReg, valueReg := valueReg, rsvd := 0, imm := 0 }))

/-- TALLY_SLOT_ADDI (R378): TALLY slot that adds an immediate amount to a tally. -/
def execTallySlotAddi (n : Nat) (guard : Nat) (tallyReg : Nat) (imm : Nat) (s : State) : Out1 :=
  .next (State.settle (s.event fun s => s.tallyRow n { guard := guard, op := 3, tallyReg := tallyReg, valueReg := 0, rsvd := 0, imm := imm }))

/-- COPY_ISSUE (R379): COPY slot that hands consecutive mould descriptors to MLD. -/
def execCopyIssue (n : Nat) (guard : Nat) (descReg : Nat) (countM1 : Nat) (doneEnable : Nat) (doneReg : Nat) (s : State) : Out1 :=
  .next (State.settle (s.event fun s => s.copyRow n { guard := guard, op := 1, descReg := descReg, countM1 := countM1, doneEnable := doneEnable, doneReg := doneReg, rsvd := 0 }))

end Sys2Proof.Machine
end

