-- ==== Sys2Proof/Machine/Dispatch.lean ====
section
/-! DEFINITION. One arm for each row of the table: the meaning it calls. -/

namespace Sys2Proof.Machine

/-- The effect of a row on everything but the queue. -/
def exec (i : Instr) (s : State) : Host.Outcome State Fault Refusal :=
  match i with
  | .run ring h payload => Sys2Proof.Machine.execRun ring h payload s
  | .dispatch ring h payload => Sys2Proof.Machine.execDispatch ring h payload s
  | .copy ring h payload => Sys2Proof.Machine.execCopy ring h payload s
  | .fence ring h payload => Sys2Proof.Machine.execFence ring h payload s
  | .cancel ring h payload => Sys2Proof.Machine.execCancel ring h payload s
  | .tallyRead ring h payload => Sys2Proof.Machine.execTallyRead ring h payload s
  | .tallySet ring h payload => Sys2Proof.Machine.execTallySet ring h payload s
  | .tallyAdd ring h payload => Sys2Proof.Machine.execTallyAdd ring h payload s
  | .tallyWait ring h payload => Sys2Proof.Machine.execTallyWait ring h payload s
  | .allreduce ring h payload => Sys2Proof.Machine.execAllreduce ring h payload s
  | .reduce ring h payload => Sys2Proof.Machine.execReduce ring h payload s
  | .allgather ring h payload => Sys2Proof.Machine.execAllgather ring h payload s
  | .broadcast ring h payload => Sys2Proof.Machine.execBroadcast ring h payload s
  | .biasSet ring h payload => Sys2Proof.Machine.execBiasSet ring h payload s
  | .dict ring h payload => Sys2Proof.Machine.execDict ring h payload s
  | .park ring h payload => Sys2Proof.Machine.execPark ring h payload s
  | .rld ring h payload => Sys2Proof.Machine.execRld ring h payload s
  | .rst ring h payload => Sys2Proof.Machine.execRst ring h payload s
  | .load ring h payload => Sys2Proof.Machine.execLoad ring h payload s
  | .fetchAdd ring h payload => Sys2Proof.Machine.execFetchAdd ring h payload s
  | .fetchAnd ring h payload => Sys2Proof.Machine.execFetchAnd ring h payload s
  | .fetchOr ring h payload => Sys2Proof.Machine.execFetchOr ring h payload s
  | .fetchXor ring h payload => Sys2Proof.Machine.execFetchXor ring h payload s
  | .swap ring h payload => Sys2Proof.Machine.execSwap ring h payload s
  | .compareSwap ring h payload => Sys2Proof.Machine.execCompareSwap ring h payload s
  | .fetchMaxU ring h payload => Sys2Proof.Machine.execFetchMaxU ring h payload s
  | .fetchMinU ring h payload => Sys2Proof.Machine.execFetchMinU ring h payload s
  | .probe ring h payload => Sys2Proof.Machine.execProbe ring h payload s
  | .commandFetch ring => Sys2Proof.Machine.execCommandFetch ring s
  | .completionPost ring => Sys2Proof.Machine.execCompletionPost ring s
  | .add n slotB guard rd ra rb => Sys2Proof.Machine.execAdd n slotB guard rd ra rb s
  | .sub n slotB guard rd ra rb => Sys2Proof.Machine.execSub n slotB guard rd ra rb s
  | .and n slotB guard rd ra rb => Sys2Proof.Machine.execAnd n slotB guard rd ra rb s
  | .or n slotB guard rd ra rb => Sys2Proof.Machine.execOr n slotB guard rd ra rb s
  | .xor n slotB guard rd ra rb => Sys2Proof.Machine.execXor n slotB guard rd ra rb s
  | .shl n slotB guard rd ra rb => Sys2Proof.Machine.execShl n slotB guard rd ra rb s
  | .shr n slotB guard rd ra rb => Sys2Proof.Machine.execShr n slotB guard rd ra rb s
  | .sar n slotB guard rd ra rb => Sys2Proof.Machine.execSar n slotB guard rd ra rb s
  | .mul n slotB guard rd ra rb => Sys2Proof.Machine.execMul n slotB guard rd ra rb s
  | .minu n slotB guard rd ra rb => Sys2Proof.Machine.execMinu n slotB guard rd ra rb s
  | .maxu n slotB guard rd ra rb => Sys2Proof.Machine.execMaxu n slotB guard rd ra rb s
  | .addi n slotB guard rd ra imm => Sys2Proof.Machine.execAddi n slotB guard rd ra imm s
  | .andi n slotB guard rd ra imm => Sys2Proof.Machine.execAndi n slotB guard rd ra imm s
  | .ori n slotB guard rd ra imm => Sys2Proof.Machine.execOri n slotB guard rd ra imm s
  | .shli n slotB guard rd ra imm => Sys2Proof.Machine.execShli n slotB guard rd ra imm s
  | .shri n slotB guard rd ra imm => Sys2Proof.Machine.execShri n slotB guard rd ra imm s
  | .li n slotB guard rd imm => Sys2Proof.Machine.execLi n slotB guard rd imm s
  | .lih n slotB guard rd ra imm => Sys2Proof.Machine.execLih n slotB guard rd ra imm s
  | .bfx n slotB guard rd ra imm => Sys2Proof.Machine.execBfx n slotB guard rd ra imm s
  | .ceq n slotB guard ra rb pd => Sys2Proof.Machine.execCeq n slotB guard ra rb pd s
  | .cne n slotB guard ra rb pd => Sys2Proof.Machine.execCne n slotB guard ra rb pd s
  | .cltu n slotB guard ra rb pd => Sys2Proof.Machine.execCltu n slotB guard ra rb pd s
  | .clts n slotB guard ra rb pd => Sys2Proof.Machine.execClts n slotB guard ra rb pd s
  | .ceqi n slotB guard ra pd imm => Sys2Proof.Machine.execCeqi n slotB guard ra pd imm s
  | .cltui n slotB guard ra pd imm => Sys2Proof.Machine.execCltui n slotB guard ra pd imm s
  | .pand n slotB guard ra rb pd => Sys2Proof.Machine.execPand n slotB guard ra rb pd s
  | .por n slotB guard ra rb pd => Sys2Proof.Machine.execPor n slotB guard ra rb pd s
  | .pnot n slotB guard ra pd => Sys2Proof.Machine.execPnot n slotB guard ra pd s
  | .rds n slotB guard rd imm => Sys2Proof.Machine.execRds n slotB guard rd imm s
  | .ldt n slotB guard rd ra => Sys2Proof.Machine.execLdt n slotB guard rd ra s
  | .ldm n slotB guard rd ra imm => Sys2Proof.Machine.execLdm n slotB guard rd ra imm s
  | .stm n slotB guard ra rb imm => Sys2Proof.Machine.execStm n slotB guard ra rb imm s
  | .nop n guard => Sys2Proof.Machine.execNop n guard s
  | .br n guard target => Sys2Proof.Machine.execBr n guard target s
  | .call n guard target => Sys2Proof.Machine.execCall n guard target s
  | .ret n guard => Sys2Proof.Machine.execRet n guard s
  | .wait n guard tallyA threshA tallyB threshB combine => Sys2Proof.Machine.execWait n guard tallyA threshA tallyB threshB combine s
  | .endPattern n guard => Sys2Proof.Machine.execEndPattern n guard s
  | .trap n guard code => Sys2Proof.Machine.execTrap n guard code s
  | .score n guard tallyEnable tallyReg => Sys2Proof.Machine.execScore n guard tallyEnable tallyReg s
  | .selectArm n guard => Sys2Proof.Machine.execSelectArm n guard s
  | .armLevel n guard level => Sys2Proof.Machine.execArmLevel n guard level s
  | .pourArm n guard tallyEnable tallyReg => Sys2Proof.Machine.execPourArm n guard tallyEnable tallyReg s
  | .stitchOpen n guard tallyReg => Sys2Proof.Machine.execStitchOpen n guard tallyReg s
  | .stitchShared n guard descReg => Sys2Proof.Machine.execStitchShared n guard descReg s
  | .tallySlotAdd n guard tallyReg valueReg => Sys2Proof.Machine.execTallySlotAdd n guard tallyReg valueReg s
  | .tallySlotSet n guard tallyReg valueReg => Sys2Proof.Machine.execTallySlotSet n guard tallyReg valueReg s
  | .tallySlotAddi n guard tallyReg imm => Sys2Proof.Machine.execTallySlotAddi n guard tallyReg imm s
  | .copyIssue n guard descReg countM1 doneEnable doneReg => Sys2Proof.Machine.execCopyIssue n guard descReg countM1 doneEnable doneReg s
  | .read dest message => Sys2Proof.Machine.execRead dest message s
  | .write dest message => Sys2Proof.Machine.execWrite dest message s
  | .describe dest message => Sys2Proof.Machine.execDescribe dest message s
  | .next dest message => Sys2Proof.Machine.execNext dest message s
  | .subscribe dest message => Sys2Proof.Machine.execSubscribe dest message s
  | .unsubscribe dest message => Sys2Proof.Machine.execUnsubscribe dest message s
  | .setEndpointId source tag iid eid => Sys2Proof.Machine.execSetEndpointId source tag iid eid s
  | .getEndpointId source tag iid => Sys2Proof.Machine.execGetEndpointId source tag iid s
  | .getMctpVersionSupport source tag iid => Sys2Proof.Machine.execGetMctpVersionSupport source tag iid s
  | .getMessageTypeSupport source tag iid => Sys2Proof.Machine.execGetMessageTypeSupport source tag iid s
  | .submitTail a => Sys2Proof.Machine.execSubmitTail a s
  | .completionHead a => Sys2Proof.Machine.execCompletionHead a s
  | .pop a => Sys2Proof.Machine.execPop a s
  | .mark a => Sys2Proof.Machine.execMark a s
  | .rewind a => Sys2Proof.Machine.execRewind a s
  | .release a => Sys2Proof.Machine.execRelease a s
  | .tallyPageAdd a => Sys2Proof.Machine.execTallyPageAdd a s
  | .watch a => Sys2Proof.Machine.execWatch a s
  | .alloc a => Sys2Proof.Machine.execAlloc a s
  | .free a => Sys2Proof.Machine.execFree a s
  | .ringEnable p ring => Sys2Proof.Machine.execRingEnable p ring s
  | .ringDisable p ring => Sys2Proof.Machine.execRingDisable p ring s
  | .planLoadGo p host planId => Sys2Proof.Machine.execPlanLoadGo p host planId s
  | .planImageReadDone host => Sys2Proof.Machine.execPlanImageReadDone host s
  | .keyLoadDone host => Sys2Proof.Machine.execKeyLoadDone host s
  | .planUnload p host planId => Sys2Proof.Machine.execPlanUnload p host planId s
  | .planFree planId => Sys2Proof.Machine.execPlanFree planId s
  | .patternLoadGo p host patternId => Sys2Proof.Machine.execPatternLoadGo p host patternId s
  | .patternLoadDone host => Sys2Proof.Machine.execPatternLoadDone host s
  | .patternUnload p host patternId => Sys2Proof.Machine.execPatternUnload p host patternId s
  | .patternFree patternId => Sys2Proof.Machine.execPatternFree patternId s
  | .tableLoadGo p version => Sys2Proof.Machine.execTableLoadGo p version s
  | .tableLoadDone version => Sys2Proof.Machine.execTableLoadDone version s
  | .activeVersion p version => Sys2Proof.Machine.execActiveVersion p version s
  | .versionFree p version => Sys2Proof.Machine.execVersionFree p version s
  | .peerJoin p => Sys2Proof.Machine.execPeerJoin p s
  | .peerLeave p => Sys2Proof.Machine.execPeerLeave p s
  | .peerDeclareDead p => Sys2Proof.Machine.execPeerDeclareDead p s
  | .portEnable p port => Sys2Proof.Machine.execPortEnable p port s
  | .portDisable p port => Sys2Proof.Machine.execPortDisable p port s
  | .surveyGo p => Sys2Proof.Machine.execSurveyGo p s
  | .surveyWaitExpiry => Sys2Proof.Machine.execSurveyWaitExpiry s
  | .linkEventClear p => Sys2Proof.Machine.execLinkEventClear p s
  | .watchSession p watch session => Sys2Proof.Machine.execWatchSession p watch session s
  | .maskApplyStep p planId step => Sys2Proof.Machine.execMaskApplyStep p planId step s
  | .groupEnable p group => Sys2Proof.Machine.execGroupEnable p group s
  | .groupListReadDone group => Sys2Proof.Machine.execGroupListReadDone group s
  | .balanceEnable p balance => Sys2Proof.Machine.execBalanceEnable p balance s
  | .rejoin p balance => Sys2Proof.Machine.execRejoin p balance s
  | .snapshotGo p => Sys2Proof.Machine.execSnapshotGo p s
  | .excResume p n => Sys2Proof.Machine.execExcResume p n s
  | .excSkip p n => Sys2Proof.Machine.execExcSkip p n s
  | .excKill p n => Sys2Proof.Machine.execExcKill p n s
  | .hostEnable p host value => Sys2Proof.Machine.execHostEnable p host value s
  | .contextDefine p x => Sys2Proof.Machine.execContextDefine p x s
  | .contextUndefine p x => Sys2Proof.Machine.execContextUndefine p x s
  | .contextReset p x => Sys2Proof.Machine.execContextReset p x s
  | .accountingClear p x => Sys2Proof.Machine.execAccountingClear p x s
  | .hostAccountingClear p host => Sys2Proof.Machine.execHostAccountingClear p host s
  | .winEnable p window => Sys2Proof.Machine.execWinEnable p window s
  | .winDisable p window => Sys2Proof.Machine.execWinDisable p window s
  | .ownerFlush p table => Sys2Proof.Machine.execOwnerFlush p table s
  | .checkGo p channel => Sys2Proof.Machine.execCheckGo p channel s
  | .checkRunEnd channel => Sys2Proof.Machine.execCheckRunEnd channel s
  | .faultClear p unit mask => Sys2Proof.Machine.execFaultClear p unit mask s
  | .firstErrorRearm p unit => Sys2Proof.Machine.execFirstErrorRearm p unit s
  | .historyDrain p unit => Sys2Proof.Machine.execHistoryDrain p unit s
  | .faultAck p unit slot => Sys2Proof.Machine.execFaultAck p unit slot s
  | .hostFaultAck p host value => Sys2Proof.Machine.execHostFaultAck p host value s
  | .fatalStopNow p => Sys2Proof.Machine.execFatalStopNow p s
  | .promoteCount p window source value => Sys2Proof.Machine.execPromoteCount p window source value s
  | .injectGo p => Sys2Proof.Machine.execInjectGo p s
  | .keySlot p second principal key => Sys2Proof.Machine.execKeySlot p second principal key s
  | .keyRevoke p principal mask => Sys2Proof.Machine.execKeyRevoke p principal mask s
  | .peerWakeTolerance p ticks => Sys2Proof.Machine.execPeerWakeTolerance p ticks s
  | .wakeNow p => Sys2Proof.Machine.execWakeNow p s
  | .engineRun p => Sys2Proof.Machine.execEngineRun p s
  | .unitHalt p units => Sys2Proof.Machine.execUnitHalt p units s
  | .unitHalted unit => Sys2Proof.Machine.execUnitHalted unit s
  | .dictionaryWrite p ix sub inst len value => Sys2Proof.Machine.execDictionaryWrite p ix sub inst len value s
  | .coldReset pin => Sys2Proof.Machine.execColdReset pin s
  | .bootReady => Sys2Proof.Machine.execBootReady s
  | .warmReset => Sys2Proof.Machine.execWarmReset s
  | .portReset port pin => Sys2Proof.Machine.execPortReset port pin s
  | .mainGoodFall => Sys2Proof.Machine.execMainGoodFall s
  | .mainGoodRise => Sys2Proof.Machine.execMainGoodRise s
  | .krdWake => Sys2Proof.Machine.execKrdWake s
  | .feedSwitchOver keepBGood => Sys2Proof.Machine.execFeedSwitchOver keepBGood s
  | .feedReturn => Sys2Proof.Machine.execFeedReturn s
  | .keeperFeedLoss => Sys2Proof.Machine.execKeeperFeedLoss s
  | .linkUp port => Sys2Proof.Machine.execLinkUp port s
  | .linkDown port => Sys2Proof.Machine.execLinkDown port s
  | .fecDegrade port corrected bad => Sys2Proof.Machine.execFecDegrade port corrected bad s
  | .dispatchCopyFrame rx f => Sys2Proof.Machine.execDispatchCopyFrame rx f s
  | .pourCloseFrame rx f => Sys2Proof.Machine.execPourCloseFrame rx f s
  | .returnAnswerFrame rx f => Sys2Proof.Machine.execReturnAnswerFrame rx f s
  | .remoteStoreFrame rx f => Sys2Proof.Machine.execRemoteStoreFrame rx f s
  | .atomicFrame rx f => Sys2Proof.Machine.execAtomicFrame rx f s
  | .replyFrame rx f => Sys2Proof.Machine.execReplyFrame rx f s
  | .ackFrame rx f => Sys2Proof.Machine.execAckFrame rx f s
  | .hopCreditFrame rx f => Sys2Proof.Machine.execHopCreditFrame rx f s
  | .collSegment rx f => Sys2Proof.Machine.execCollSegment rx f s
  | .collReport rx f => Sys2Proof.Machine.execCollReport rx f s
  | .collCommit rx f => Sys2Proof.Machine.execCollCommit rx f s
  | .collAbort rx f => Sys2Proof.Machine.execCollAbort rx f s
  | .collLaunch group => Sys2Proof.Machine.execCollLaunch group s
  | .join rx f => Sys2Proof.Machine.execJoin rx f s
  | .joinAck rx f => Sys2Proof.Machine.execJoinAck rx f s
  | .leave rx f => Sys2Proof.Machine.execLeave rx f s
  | .leaveAck rx f => Sys2Proof.Machine.execLeaveAck rx f s
  | .sleep rx f => Sys2Proof.Machine.execSleep rx f s
  | .sleepAck rx f => Sys2Proof.Machine.execSleepAck rx f s
  | .awake rx f => Sys2Proof.Machine.execAwake rx f s
  | .awakeAck rx f => Sys2Proof.Machine.execAwakeAck rx f s
  | .awakeRefused rx f => Sys2Proof.Machine.execAwakeRefused rx f s
  | .aapRelay rx f => Sys2Proof.Machine.execAapRelay rx f s
  | .surveyProbe rx f => Sys2Proof.Machine.execSurveyProbe rx f s
  | .surveyReply rx f => Sys2Proof.Machine.execSurveyReply rx f s
  | .icmpv6TimeExceeded port source udpSource hop => Sys2Proof.Machine.execIcmpv6TimeExceeded port source udpSource hop s
  | .transitFrame rx f => Sys2Proof.Machine.execTransitFrame rx f s
  | .pfcFrame rx enable quanta => Sys2Proof.Machine.execPfcFrame rx enable quanta s
  | .pauseFrame rx => Sys2Proof.Machine.execPauseFrame rx s
  | .pfcPauseExpiry port prio => Sys2Proof.Machine.execPfcPauseExpiry port prio s
  | .frameStart port => Sys2Proof.Machine.execFrameStart port s
  | .ackSend node => Sys2Proof.Machine.execAckSend node s
  | .ackHoldExpiry node cls seq => Sys2Proof.Machine.execAckHoldExpiry node cls seq s
  | .retransmitTimeout node cls seq => Sys2Proof.Machine.execRetransmitTimeout node cls seq s
  | .settleLimitExpiry node cls seq => Sys2Proof.Machine.execSettleLimitExpiry node cls seq s
  | .atomicRetryTimeout node seq => Sys2Proof.Machine.execAtomicRetryTimeout node seq s
  | .creditRelease node => Sys2Proof.Machine.execCreditRelease node s
  | .replyCacheExpiry => Sys2Proof.Machine.execReplyCacheExpiry s
  | .frameLifeExpiry port => Sys2Proof.Machine.execFrameLifeExpiry port s
  | .incarnationQuietEnd => Sys2Proof.Machine.execIncarnationQuietEnd s
  | .peerSleepHoldExpiry node => Sys2Proof.Machine.execPeerSleepHoldExpiry node s
  | .rowSettle uid row => Sys2Proof.Machine.execRowSettle uid row s
  | .scoreEnd uid row => Sys2Proof.Machine.execScoreEnd uid row s
  | .blockOpen uid => Sys2Proof.Machine.execBlockOpen uid s
  | .deliveryGroupSort uid => Sys2Proof.Machine.execDeliveryGroupSort uid s
  | .packetBuild uid half destination => Sys2Proof.Machine.execPacketBuild uid half destination s
  | .pourCloseSend uid half => Sys2Proof.Machine.execPourCloseSend uid half s
  | .returnPacketBuild planId flask => Sys2Proof.Machine.execReturnPacketBuild planId flask s
  | .groupTableWrite planId pour => Sys2Proof.Machine.execGroupTableWrite planId pour s
  | .groupTableWritten host => Sys2Proof.Machine.execGroupTableWritten host s
  | .forcedClose planId flask => Sys2Proof.Machine.execForcedClose planId flask s
  | .flaskRelease planId flask => Sys2Proof.Machine.execFlaskRelease planId flask s
  | .sharedPostReadDone post => Sys2Proof.Machine.execSharedPostReadDone post s
  | .combine x row => Sys2Proof.Machine.execCombine x row s
  | .rowWriteVisible x row => Sys2Proof.Machine.execRowWriteVisible x row s
  | .stitchWaitExpiry x row => Sys2Proof.Machine.execStitchWaitExpiry x row s
  | .dispatchReady uid => Sys2Proof.Machine.execDispatchReady uid s
  | .tallyWaitRelease position => Sys2Proof.Machine.execTallyWaitRelease position s
  | .tallyPoll => Sys2Proof.Machine.execTallyPoll s
  | .contextSchedule n => Sys2Proof.Machine.execContextSchedule n s
  | .contextSwap => Sys2Proof.Machine.execContextSwap s
  | .restWatchdog n => Sys2Proof.Machine.execRestWatchdog n s
  | .starveAging x => Sys2Proof.Machine.execStarveAging x s
  | .biasLate balance => Sys2Proof.Machine.execBiasLate balance s
  | .collWatchdog group => Sys2Proof.Machine.execCollWatchdog group s
  | .mouldPhaseDone copy => Sys2Proof.Machine.execMouldPhaseDone copy s
  | .groupStallExpiry host => Sys2Proof.Machine.execGroupStallExpiry host s
  | .allocStallExpiry host cls => Sys2Proof.Machine.execAllocStallExpiry host cls s
  | .escalationExpiry unit slot => Sys2Proof.Machine.execEscalationExpiry unit slot s
  | .fatalStop => Sys2Proof.Machine.execFatalStop s
  | .summaryWindowEnd => Sys2Proof.Machine.execSummaryWindowEnd s
  | .idleEntry => Sys2Proof.Machine.execIdleEntry s
  | .dozeEntry => Sys2Proof.Machine.execDozeEntry s
  | .restEntry => Sys2Proof.Machine.execRestEntry s
  | .dormantEntry => Sys2Proof.Machine.execDormantEntry s
  | .wakeAtTick => Sys2Proof.Machine.execWakeAtTick s
  | .wakeTrigger => Sys2Proof.Machine.execWakeTrigger s
  | .dormantExit => Sys2Proof.Machine.execDormantExit s
  | .doorbellLatch a => Sys2Proof.Machine.execDoorbellLatch a s
  | .burnishRead store word => Sys2Proof.Machine.execBurnishRead store word s
  | .keeperBurnish word => Sys2Proof.Machine.execKeeperBurnish word s
  | .burnishSlice words => Sys2Proof.Machine.execBurnishSlice words s
  | .calibration inRange => Sys2Proof.Machine.execCalibration inRange s
  | .stressRotation => Sys2Proof.Machine.execStressRotation s
  | .telemetryRecord => Sys2Proof.Machine.execTelemetryRecord s
  | .subscriptionNotification sub => Sys2Proof.Machine.execSubscriptionNotification sub s
  | .changeScan => Sys2Proof.Machine.execChangeScan s
  | .subLeaseExpiry sub => Sys2Proof.Machine.execSubLeaseExpiry sub s
  | .keeperPowerUp keepB => Sys2Proof.Machine.execKeeperPowerUp keepB s
  | .coldResetRelease chip pen base => Sys2Proof.Machine.execColdResetRelease chip pen base s
  | .keeperStoreZeroed => Sys2Proof.Machine.execKeeperStoreZeroed s
  | .lossOfSignal port lane kind => Sys2Proof.Machine.execLossOfSignal port lane kind s
  | .laneLock port => Sys2Proof.Machine.execLaneLock port s
  | .portResetEnd port => Sys2Proof.Machine.execPortResetEnd port s
  | .frameDrop rx reason => Sys2Proof.Machine.execFrameDrop rx reason s
  | .peerDirectoryFetch node => Sys2Proof.Machine.execPeerDirectoryFetch node s
  | .coreClockThrottle mhz => Sys2Proof.Machine.execCoreClockThrottle mhz s

end Sys2Proof.Machine
end

