-- ==== Sys2Proof/Safety.lean ====
section
/-! DEFINITION. The terms in which claims speak of a row: that it runs, what it leaves, and the conditions it meets. -/

set_option Elab.async false

namespace Sys2Proof.Machine

/-- A row run in a state gives a next state, of which P holds. -/
def Runs (i : Instr) (s : State) (P : State → Prop) : Prop := ∃ t, exec i s = .next t ∧ P t

/-- The engine is Active (R487) and BAL has been told of every step boundary reached. -/
def State.awake (s : State) : Prop := s.power = 0 ∧ s.boundaries = []

/-- No stored word has inverted check symbols and no injection is armed (R64, R479). -/
def State.sound (s : State) : Prop := s.checks = [] ∧ s.inject = none

/-- The interrupt pins show the unacknowledged first errors, and no step boundary waits to be told (R350, R462). -/
def State.told (s : State) : Prop := s.krdInt = s.intPins ∧ s.boundaries = []

/-- Every object instance but those listed holds in t what it held in s. -/
def State.keepsObjects (s t : State) (but : List (Obj × Nat)) : Prop :=
  ∀ o i, (∀ b ∈ but, b.1.key b.2 ≠ o.key i) → t.rd o i = s.rd o i

/-- Every context but one is in t as it was in s. -/
def State.keepsContexts (s t : State) (x : Nat) : Prop := ∀ y, y ≠ x → t.ctx y = s.ctx y

/-- A free escalation slot of a unit (R467). -/
def State.slotOpen (s : State) (u : Nat) : Prop := ∃ n, n < 8 ∧ Tab.find (s.unitFaults u).slots n = none

/-! ## Words about to issue (R366, R367) -/

/-- Sequencer n is about to issue the word of i, whose context stands as i has it, and every issue check of the word passes. -/
def State.issues (s : State) (n : Nat) (i : Issue) : Prop :=
  s.issueOf n = some i ∧ s.ctx i.x = some i.c ∧ s.checkWord i = none

/-- Scalar slot A or B of the word. -/
def Issue.scalar (i : Issue) (slotB : Bool) : ScalarSlot := if slotB then i.w.b else i.w.a

/-- No wide slot of the word executes, nor its TALLY slot: the guards of all of them are false. -/
def Issue.narrow (i : Issue) : Prop :=
  i.exec i.w.stitch.guard = false ∧ i.exec i.w.select.guard = false ∧ i.exec i.w.pour.guard = false ∧
    i.exec i.w.score.guard = false ∧ i.exec i.w.copy.guard = false ∧ i.exec i.w.tally.guard = false

/-- The word's SCORE, COPY and TALLY slots do not execute, nor its STITCH slot as SHARED: at most OPEN, SELECT and POUR ARM do (R373). -/
def Issue.arms (i : Issue) : Prop :=
  i.exec i.w.score.guard = false ∧ i.exec i.w.copy.guard = false ∧ i.exec i.w.tally.guard = false ∧
    (i.exec i.w.stitch.guard = true → i.w.stitch.op = 1)

/-- A scalar slot that makes no memory access and no tally load. -/
def ScalarSlot.quiet (sl : ScalarSlot) : Prop := sl.op ≠ 0x31 ∧ sl.op ≠ 0x38 ∧ sl.op ≠ 0x39

/-- The control slot does nothing, branches, calls or returns. -/
def Issue.goesOn (i : Issue) : Prop := i.exec i.w.control.guard = false ∨ i.w.control.cop ≤ 3

/-- A scalar slot writes register r when it executes. -/
def Issue.writesReg (i : Issue) (sl : ScalarSlot) (r : Nat) : Prop :=
  i.exec sl.guard = true ∧ sl.rd = r ∧ (scalarValue sl.op 0 0 0 0).isSome

/-- A scalar slot writes predicate p when it executes. -/
def Issue.writesPred (i : Issue) (sl : ScalarSlot) (p : Nat) : Prop :=
  i.exec sl.guard = true ∧ sl.pd = p ∧ (predValue sl.op 0 0 0 0 0 0).isSome

/-- The register operations of two source registers: slot, row and value (R367, Scalar operations). -/
def aluRows (n : Nat) (slotB : Bool) (g rd ra rb : Nat) (a b : Word64) : List (ScalarSlot × Instr × Word64) :=
  [(⟨g, 0x01, rd, ra, rb, 0, 0, 0⟩, .add n slotB g rd ra rb, a + b),
   (⟨g, 0x02, rd, ra, rb, 0, 0, 0⟩, .sub n slotB g rd ra rb, a - b),
   (⟨g, 0x03, rd, ra, rb, 0, 0, 0⟩, .and n slotB g rd ra rb, a &&& b),
   (⟨g, 0x04, rd, ra, rb, 0, 0, 0⟩, .or n slotB g rd ra rb, a ||| b),
   (⟨g, 0x05, rd, ra, rb, 0, 0, 0⟩, .xor n slotB g rd ra rb, a ^^^ b),
   (⟨g, 0x06, rd, ra, rb, 0, 0, 0⟩, .shl n slotB g rd ra rb, a <<< (b.toNat % 64)),
   (⟨g, 0x07, rd, ra, rb, 0, 0, 0⟩, .shr n slotB g rd ra rb, a >>> (b.toNat % 64)),
   (⟨g, 0x08, rd, ra, rb, 0, 0, 0⟩, .sar n slotB g rd ra rb, a.sshiftRight (b.toNat % 64)),
   (⟨g, 0x09, rd, ra, rb, 0, 0, 0⟩, .mul n slotB g rd ra rb, BitVec.ofNat 64 (a.toNat * b.toNat)),
   (⟨g, 0x0A, rd, ra, rb, 0, 0, 0⟩, .minu n slotB g rd ra rb, BitVec.ofNat 64 (min a.toNat b.toNat)),
   (⟨g, 0x0B, rd, ra, rb, 0, 0, 0⟩, .maxu n slotB g rd ra rb, BitVec.ofNat 64 (max a.toNat b.toNat))]

/-- The register operations with an immediate: slot, row and value (R367, Scalar operations). -/
def immRows (n : Nat) (slotB : Bool) (g rd ra imm : Nat) (a : Word64) : List (ScalarSlot × Instr × Word64) :=
  let sext := BitVec.ofInt 64 (if imm < 2 ^ 31 then (imm : Int) else (imm : Int) - 2 ^ 32)
  [(⟨g, 0x10, rd, ra, 0, 0, 0, imm⟩, .addi n slotB g rd ra imm, a + sext),
   (⟨g, 0x11, rd, ra, 0, 0, 0, imm⟩, .andi n slotB g rd ra imm, a &&& sext),
   (⟨g, 0x12, rd, ra, 0, 0, 0, imm⟩, .ori n slotB g rd ra imm, a ||| BitVec.ofNat 64 imm),
   (⟨g, 0x13, rd, ra, 0, 0, 0, imm⟩, .shli n slotB g rd ra imm, a <<< (imm % 64)),
   (⟨g, 0x14, rd, ra, 0, 0, 0, imm⟩, .shri n slotB g rd ra imm, a >>> (imm % 64)),
   (⟨g, 0x15, rd, 0, 0, 0, 0, imm⟩, .li n slotB g rd imm, sext),
   (⟨g, 0x16, rd, ra, 0, 0, 0, imm⟩, .lih n slotB g rd ra imm, BitVec.ofNat 64 (imm * 2 ^ 32 + a.toNat % 2 ^ 32)),
   (⟨g, 0x17, rd, ra, 0, 0, 0, imm⟩, .bfx n slotB g rd ra imm, BitVec.ofNat 64 (a.toNat / 2 ^ (imm % 64) % 2 ^ (imm / 256 % 128)))]

/-- The comparisons: slot, row and the predicate's value (R367, Scalar operations). -/
def compareRows (n : Nat) (slotB : Bool) (g ra rb pd imm : Nat) (a b : Word64) : List (ScalarSlot × Instr × Bool) :=
  let sext := BitVec.ofInt 64 (if imm < 2 ^ 31 then (imm : Int) else (imm : Int) - 2 ^ 32)
  [(⟨g, 0x20, 0, ra, rb, pd, 0, 0⟩, .ceq n slotB g ra rb pd, decide (a = b)),
   (⟨g, 0x21, 0, ra, rb, pd, 0, 0⟩, .cne n slotB g ra rb pd, decide (a ≠ b)),
   (⟨g, 0x22, 0, ra, rb, pd, 0, 0⟩, .cltu n slotB g ra rb pd, decide (a.toNat < b.toNat)),
   (⟨g, 0x23, 0, ra, rb, pd, 0, 0⟩, .clts n slotB g ra rb pd, decide (a.toInt < b.toInt)),
   (⟨g, 0x24, 0, ra, 0, pd, 0, imm⟩, .ceqi n slotB g ra pd imm, decide (a = sext)),
   (⟨g, 0x25, 0, ra, 0, pd, 0, imm⟩, .cltui n slotB g ra pd imm, decide (a.toNat < sext.toNat))]

/-- The predicate operations: slot, row and the predicate's value (R367, Scalar operations). -/
def predicateRows (n : Nat) (slotB : Bool) (g ra rb pd preds : Nat) : List (ScalarSlot × Instr × Bool) :=
  [(⟨g, 0x28, 0, ra, rb, pd, 0, 0⟩, .pand n slotB g ra rb pd, bit preds (ra % 8) && bit preds (rb % 8)),
   (⟨g, 0x29, 0, ra, rb, pd, 0, 0⟩, .por n slotB g ra rb pd, bit preds (ra % 8) || bit preds (rb % 8)),
   (⟨g, 0x2A, 0, ra, 0, pd, 0, 0⟩, .pnot n slotB g ra pd, !bit preds (ra % 8))]

/-- The special values that RDS reads, by selector (R367, Scalar operations). -/
def specialValues (s : State) (n : Nat) (i : Issue) : List (Nat × Nat) :=
  [(0, i.c.step), (1, i.c.heat), (2, i.x), (3, n), (4, s.tick), (5, hPayloadBytes i.k.header), (6, hCommandId i.k.header),
   (7, if hDeadlineEnable i.k.header then hDeadline i.k.header else 0), (8, i.k.host)]

/-- Outside what the row's own slot writes, the context keeps the registers and predicates that the word's other scalar slot does not write. -/
def Issue.keepsRest (i : Issue) (slotB : Bool) (rd pd : Option Nat) (c : Ctx) : Prop :=
  c = { i.c with g := c.g, preds := c.preds, pc := c.pc, stack := c.stack } ∧
    (∀ r, some r ≠ rd → ¬ i.writesReg (i.scalar (!slotB)) r → c.greg r = i.c.greg r) ∧
    ∀ p, some p ≠ pd → ¬ i.writesPred (i.scalar (!slotB)) p → bit c.preds p = bit i.c.preds p

/-- Whether a WAIT's condition holds, its two tally conditions given: Combine 0 always, 1 A, 2 A and B, 3 A or B (R371). -/
def waitMet (combine : Nat) (a b : Bool) : Bool :=
  match combine with
  | 0 => true
  | 1 => a
  | 2 => a && b
  | _ => a || b

/-! ## Pattern memory (R369, R380, R383) -/

/-- The bytes that a read of n bytes finds at a place, where it is neither refused nor poisoned nor past the payload's end (R369, R379). -/
def State.placeRead (s : State) (i : Issue) (pl : Place) (n : Nat) : Option (List Byte) :=
  match pl with
  | .mem a => match s.xlt i.k.host a n false with
    | some (.noc p) => if s.memBad p n = 0 then some (s.memRead p n) else none
    | some (.landing q) => some (s.landingRead q n)
    | none => none
  | .scratch off => some (Tab.readBytes 0 s.scratch (i.n * 2 ^ 20 + off) n)
  | .payload off => if off + n ≤ i.k.payload.length then some ((i.k.payload.drop off).take n) else none
  | .result off => some ((List.range n).map fun j => Tab.get 0 i.k.result (off + j))

/-- The bytes of table u are those of table v but for a run of bytes at an address. -/
def onlyBytes (u v : Tab Byte) (a : Nat) (l : List Byte) : Prop :=
  ∀ b, Tab.get 0 v b = if a ≤ b ∧ b < a + l.length then l.getD (b - a) 0 else Tab.get 0 u b

/-- MLD accepts the descriptors that a COPY slot of the word hands it, as the given runs (R379, R401, R405). -/
def State.slotAccepts (s : State) (i : Issue) (l : List Byte) (count : Nat) (runs : List MRun) : Prop :=
  s.checkCopyDescs { uid := i.uid, host := i.k.host, ring := i.k.ring, heat := i.k.heat
                     slot := some (i.x, i.c.seq, hOp i.k.header == 1, i.k.resultBytes), payloadBytes := hPayloadBytes i.k.header }
    ((List.range count).map fun j => mdescOf (slice l (128 * j) 128)) = (0, runs)

/-- Bytes stored at a host address: at the one location it resolves to, and nowhere else (R414). -/
def State.storesAt (s : State) (h a : Nat) (l : List Byte) (t : State) : Prop :=
  match s.xlt h a l.length true with
  | some (.noc p) => onlyBytes s.mem t.mem p l ∧ t.landing = s.landing
  | some (.landing q) => onlyBytes s.landing t.landing q l ∧ t.mem = s.mem
  | none => False

/-- The host address of a host's store answers without error or poison: it resolves, and its memory is good (R414, R541). -/
def State.storable (s : State) (h a n : Nat) : Prop :=
  match s.xlt h a n true with
  | some (.noc p) => s.memBad p n = 0
  | some (.landing _) => True
  | none => False

/-- A place takes an 8-byte store. -/
def State.stores8 (s : State) (i : Issue) : Place → Prop
  | .mem a => s.storable i.k.host a 8
  | .scratch _ => True
  | .payload _ => False
  | .result off => s.storable i.k.host (s.resultAddr i.k off) 8

/-- 8 bytes stored at a place and nowhere else: in memory, in the sequencer's scratch, or in the command's result space, which lies in its completion ring (R369, R88). -/
def State.stored8 (s : State) (i : Issue) (pl : Place) (l : List Byte) (t : State) : Prop :=
  match pl with
  | .mem a => s.storesAt i.k.host a l t ∧ t.scratch = s.scratch ∧ t.cmds = s.cmds
  | .scratch off => onlyBytes s.scratch t.scratch (i.n * 2 ^ 20 + off) l ∧ t.mem = s.mem ∧ t.landing = s.landing ∧ t.cmds = s.cmds
  | .payload _ => False
  | .result off => s.storesAt i.k.host (s.resultAddr i.k off) l t ∧ t.scratch = s.scratch ∧
      (∃ k, t.cmd i.uid = some k ∧ k = { i.k with result := k.result } ∧ onlyBytes i.k.result k.result off l) ∧
      ∀ u, u ≠ i.uid → t.cmd u = s.cmd u

/-- The 24-byte record of an effect: kind and op as 8 bytes, then two numbers of 8 bytes, little-endian (R383). -/
def effectRecord (kind op a v : Nat) : List Byte := leBytes 4 kind ++ leBytes 4 op ++ leBytes 8 a ++ leBytes 8 v

/-- One effect counted and folded in a context (R383). -/
def Ctx.folds (c : Ctx) (kind op a v : Nat) (d : Ctx) : Prop :=
  d.effectCount = (c.effectCount + 1) % 2 ^ 16 ∧ d.effectCrc = crc32cMore c.effectCrc (effectRecord kind op a v)

/-- The word of i issued and only its context and its sequencer's counter of words changed: what no scalar, branch or predicate operation touches is as it was. -/
def State.onlyWord (s : State) (i : Issue) (t : State) : Prop :=
  t = { s with ctxs := t.ctxs, objs := t.objs, quietSince := t.quietSince, krdInt := t.krdInt } ∧
    s.keepsContexts t i.x ∧ s.keepsObjects t [(Reg.wordsIssued, i.n)] ∧
    t.rd Reg.wordsIssued i.n = (s.rd Reg.wordsIssued i.n + 1) % 2 ^ 64

/-! ## Commands at admission (R72 to R79) -/

/-- The command that ring i's slots hold, as CMD takes it into flight now (R76, R78, R91). -/
def State.fetched (s : State) (i host : Nat) (h : Word512) (payload : List Byte) : Cmd :=
  { ring := i, host := host, ctx := hContext h, header := h, payload := slice payload 0 (hPayloadBytes h)
    heat := match s.ctx (hContext h) with
      | some c => c.heat
      | none => 0
    admitTick := s.tick, slot := ((s.ring i).complTail + s.reservedSlots i) % 2 ^ 32, resultBytes := s.resultBytesOf h }

/-- CMD may take the command from ring i now, its slots are all written, its completion space is free, and every check of R79 passes. -/
def State.admits (s : State) (i host : Nat) (h : Word512) (payload : List Byte) : Prop :=
  s.fetches i = true ∧ s.ringHost i = some host ∧ 1 + ceilDiv (hPayloadBytes h) 64 ≤ s.submitSlots i ∧
    1 + ceilDiv (hPayloadBytes h) 64 ≤ (s.ring i).written ∧ hPayloadBytes h ≤ 0x400000 ∧
    (s.ring i).unread + s.reservedSlots i + complSlotsOf (s.resultBytesOf h) ≤ s.complSlots i ∧
    s.checkFirst i h = 0 ∧ s.checkArgs host h = 0 ∧
    ∃ ly, s.checkPlan host h = (0, ly) ∧
      (hOp h = 2 → (s.layerState (hPlan h) (hLayer h)).usable = true ∧ ly.any (s.blockTooBig host h) = false) ∧
      s.checkPayload (s.fetched i host h payload) ly = 0 ∧ s.checkDeadline (s.fetched i host h payload) ly s.tick = 0

/-- No unit writes trace records (R505). -/
def State.untraced (s : State) : Prop := s.rd Reg.traceUnitMask 0 = 0

/-- A command stands in flight in t as s admitted it: last in its ring's order, and the ring's head past its slots (R72, R91). -/
def State.taken (s : State) (i : Nat) (k : Cmd) (t : State) : Prop :=
  t.cmd s.nextUid = some k ∧ (t.ring i).rob = (s.ring i).rob ++ [s.nextUid] ∧
    (t.ring i).submitHead = ((s.ring i).submitHead + 1 + ceilDiv (hPayloadBytes k.header) 64) % 2 ^ 32

/-- The n bytes at a host address read as l, without error or poison (R414, R541). -/
def State.hostHolds (s : State) (h a n : Nat) (l : List Byte) : Prop :=
  match s.xlt h a n false with
  | some (.noc p) => s.memBad p n = 0 ∧ l = s.memRead p n
  | some (.landing q) => l = s.landingRead q n
  | none => False

/-- The n bytes of ring i's submission slots from slot number `from_` on read as l, the ring's end followed by its begin (R72). -/
def State.ringHolds (s : State) (i host from_ n : Nat) (l : List Byte) : Prop :=
  let start := from_ % s.submitSlots i * 64
  let first := min n (s.submitSlots i * 64 - start)
  if first = n then s.hostHolds host (s.rd Reg.submitBase i + start) n l
  else ∃ l1 l2, l = l1 ++ l2 ∧ s.hostHolds host (s.rd Reg.submitBase i + start) first l1 ∧ s.hostHolds host (s.rd Reg.submitBase i) (n - first) l2

/-! ## Writes of the dictionary (R509 to R511) -/

/-- The dictionary takes a write of value v to instance i of an object from principal p now, and answers it OK: the object is there for p, p may write it, its unit is halted where it must be, and it is neither LOCKED nor a BAD_VALUE (R511, R514, R550). -/
def State.writable (s : State) (p : Nat) (o : Obj) (i v : Nat) : Prop :=
  s.dictOpen p = true ∧ v < 2 ^ (8 * o.len) ∧ s.lookup p o.ix o.sub i = some o ∧ (s.writeObj p o.ix o.sub i o.len v).1 = 0

/-- Nothing but registers, and the first errors on the pins, differs: the commands, the contexts, the tallies, memory and all other records stand as they stood. -/
def State.onlyObjects (s t : State) : Prop := t = { s with objs := t.objs, quietSince := t.quietSince, krdInt := t.krdInt }

/-- A row that is a write, where the write is accepted: what P says holds after it, every object but those listed stays, and AapOps counts the op (R511, R536). -/
def State.writeRuns (s : State) (p : Nat) (r : Instr) (o : Obj) (i v : Nat) (but : List (Obj × Nat)) (P : State → Prop) : Prop :=
  s.writable p o i v → Runs r s fun t => P t ∧ s.keepsObjects t ((Reg.aapOps, 0) :: but) ∧ t.rd Reg.aapOps 0 = (s.rd Reg.aapOps 0 + 1) % 2 ^ 64

/-- No balance group is enabled, so that BAL begins no round at a step boundary (R350). -/
def State.unbalanced (s : State) : Prop := ∀ b, b < 16 → s.rb Reg.balanceEnable b = false

/-- The address of an object in the dictionary. -/
def Obj.address (o : Obj) : Nat := o.ix * 2 ^ 8 + o.sub

/-- Every register of an object not listed, in all its instances, holds in t what it held in s. -/
def State.keepsFamilies (s t : State) (but : List Obj) : Prop := ∀ o : Obj, (∀ b ∈ but, o.address ≠ b.address) → ∀ i, t.rd o i = s.rd o i

/-- A command in flight runs a pattern: a RUN of it, or a DISPATCH whose context has it (R364). -/
def State.runsPattern (s : State) (id : Nat) : Prop :=
  ∃ k ∈ s.cmds, k.2.ready = false ∧ ((hOp k.2.header = 1 ∧ fld k.2.header 271 256 = id) ∨ (hOp k.2.header = 2 ∧ ∃ c, s.ctx k.2.ctx = some c ∧ c.pattern = id))

/-- A command in flight or an open flask uses a plan (R173). -/
def State.usesPlan (s : State) (id : Nat) : Prop :=
  (∃ k ∈ s.cmds, k.2.denied = false ∧ hOp k.2.header = 2 ∧ hPlan k.2.header = id) ∨ ∃ f ∈ s.flasks, f.1 / 2 ^ 16 = id ∧ f.2.state ≠ 0

/-- No DISPATCH waits for a layer of a plan to be loaded (R79). -/
def State.noneWaits (s : State) : Prop := ∀ k ∈ s.cmds, k.2.admitting = false

/-! ## Messages (R514 to R529) -/

/-- What stands before an AAP message on its transport (R529). -/
def State.before (s : State) : AapDest → List Byte
  | .mctp _ _ => s.mctpHead
  | _ => []

/-- A well-formed and authentic message of one op, fresh and for this node, over UDP or MCTP (R523). -/
def State.hears (s : State) (dest : AapDest) (l : List Byte) (h : AapHead) (o : AapOp) : Prop :=
  ((∃ a p e v, dest = .udp a p e v) ∨ ∃ e t, dest = .mctp e t) ∧ h = aapHeadOf (beNat (l.take 32)) ∧ h.opCount = 1 ∧
    parseOps 1 ((l.take h.bytes).drop 32) = some [o] ∧ aapRow l = o.code ∧ s.aapFormed dest l h = true ∧
    s.aapAuthentic dest 0 l h (some [o]) = true ∧ (s.replay h.principal h.keyId).fresh h.seq = true ∧ (h.target = 0 ∨ h.target = s.nodeId)

/-- The state in which a fresh message's ops are applied: the message is counted and its number taken (R520, R536). -/
def State.heard (s : State) (h : AapHead) : State :=
  ((s.seen s.tick).inc Reg.principalMessages h.principal 1).modReplay h.principal h.keyId fun k => k.take h.seq

/-- The response of a message of one op, sent last: its header, the op's answer, and the tag of the request's key (R516, R518). -/
def State.answered (s : State) (dest : AapDest) (h : AapHead) (o : AapOp) (a : OpAns) (t : State) : Prop :=
  let m := beBytes 32 ({ h with msgType := 1, msgStatus := 0, target := s.nodeId, inc := s.rd Reg.incarnation 0 } : AapHead).number ++ o.answer a
  t.out = .message dest (s.before dest ++ (if h.noTag then m else m ++ aapTag (s.aapKey h.principal h.keyId) m)) :: s.out

/-- A message's op is answered, and nothing but what P says is done: its one op is counted, its message and its number are (R520, R536). -/
def State.serves (s : State) (r : Instr) (dest : AapDest) (h : AapHead) (o : AapOp) (but : List (Obj × Nat)) (P : OpAns → State → Prop) : Prop :=
  Runs r s fun t => ∃ a, s.answered dest h o a t ∧ P a t ∧ t.rd Reg.aapOps 0 = (s.rd Reg.aapOps 0 + 1) % 2 ^ 64 ∧
    t.rd Reg.principalMessages h.principal = (s.rd Reg.principalMessages h.principal + 1) % 2 ^ 64 ∧
    s.keepsObjects t ((Reg.aapOps, 0) :: (Reg.principalMessages, h.principal) :: but) ∧
    t = { s with out := t.out, objs := t.objs, free := t.free, replays := t.replays, subs := t.subs, quietSince := t.quietSince, krdInt := t.krdInt }

/-! ## Sleep and background work (R487 to R505) -/

/-- The engine is Active, from the shallow sleep state p: the state's time and its entry are counted, its longest wake noted, and nothing else done (R490). -/
def State.wokenFrom (s : State) (p : Nat) (t : State) : Prop :=
  t.power = 0 ∧ t.rd Reg.stateTicks p = (s.rd Reg.stateTicks p + s.since s.stateSince) % 2 ^ 64 ∧
    t.rd Reg.stateEntries 0 = (s.rd Reg.stateEntries 0 + 1) % 2 ^ 64 ∧ s.rd Reg.wakeMaxTicks p ≤ t.rd Reg.wakeMaxTicks p ∧
    s.keepsObjects t [(Reg.powerState, 0), (Reg.stateTicks, p), (Reg.stateEntries, 0), (Reg.wakeMaxTicks, p)] ∧
    t = { s with objs := t.objs, stateSince := s.tick, quietSince := s.tick, krdInt := t.krdInt }

/-- The engine has reached sleep state n from the one before it: the time in that state and the entry are counted (R487). -/
def State.asleepIn (s : State) (n : Nat) (t : State) : Prop :=
  t.power = n ∧ t.rd Reg.stateTicks s.power = (s.rd Reg.stateTicks s.power + s.since s.stateSince) % 2 ^ 64 ∧
    t.rd Reg.stateEntries n = (s.rd Reg.stateEntries n + 1) % 2 ^ 64

/-- The objects that the record of a fault may change. -/
def faultObjects : List Obj :=
  [Reg.eventCount, Reg.faultStatus, Reg.telemetryRecords, Reg.telemetryOverwritten, Reg.historyLost, Reg.summarisedCount, Reg.promotedCount,
    Reg.fatalState, Reg.fatalSource]

/-- A fault record in t, and nothing else done to s: its counters, its unit's records, and the record rings (R460 to R470, R505). -/
def State.onlyRecords (s t : State) : Prop :=
  s.keepsFamilies t faultObjects ∧
    t = { s with objs := t.objs, mem := t.mem, units := t.units, promo := t.promo, summary := t.summary, stopDeadline := t.stopDeadline, krdInt := t.krdInt }

/-! ## The fatal stop (R477) -/

/-- The engine has made its fatal stop: FatalState 2, every port down, each ring with commands in flight in State 3, and every context that was resident or whose image is lost Killed. -/
def State.halted (s t : State) : Prop :=
  t.rd Reg.fatalState 0 = 2 ∧ (∀ p, p < s.variant.ports → t.portUp p = false) ∧
    (∀ i, t.ring i = if (s.ring i).rob = [] then s.ring i else { s.ring i with state := 3 }) ∧
    ∀ x, t.ctx x = (s.ctx x).map fun c =>
      if c.state ≠ 7 ∧ (c.residency = 1 ∨ c.imageBad = true) then { c with state := 7, replayPending := false, killTick := s.tick, residency := 3, place := 0 } else c

/-! ## Ports (R259, R268, R269) -/

/-- Nothing but one port's record, and the first errors on the pins, differs. -/
def State.onlyPort (s : State) (p : Nat) (t : State) : Prop :=
  (∀ q, q ≠ p → t.portRec q = s.portRec q) ∧ t = { s with ports := t.ports, krdInt := t.krdInt }

/-- A port has gone down and is the only one that has: the event is counted and recorded, what waited in its buffers is dropped, its plan buckets are full, no control frame waits for it, and every outstanding frame last sent on it is due again and has no way (R214, R269). -/
def State.fallsDown (s : State) (p : Nat) (t : State) : Prop :=
  t.portUp p = false ∧ (∀ q, q ≠ p → t.portUp q = s.portUp q) ∧ t.rd Reg.linkEventPending 0 = 1 ∧
    t.rd Reg.linkDownEvents p = (s.rd Reg.linkDownEvents p + 1) % 2 ^ 64 ∧
    t.rd Reg.forwardDrops p = (s.rd Reg.forwardDrops p + (s.portRec p).transit.length) % 2 ^ 64 ∧ (t.portRec p).transit = [] ∧ (t.portRec p).paused = [] ∧
    (∀ plan ret, p < 2 ^ 8 → t.planBucket plan p ret = bucketFull) ∧
    (∀ n c k, Tab.find ((t.peer n).flow c).sent k = (Tab.find ((s.peer n).flow c).sent k).map fun r =>
      if r.route.any (fun w => w.port == p) then { r with due := true, route := none } else r) ∧
    t.control = s.control.filter (fun r => !r.route.any fun w => w.port == p) ∧
    s.keepsFamilies t (Reg.linkDownEvents :: Reg.forwardDrops :: Reg.linkEventPending :: Reg.fecCorrected :: Reg.fecUncorrectable :: faultObjects) ∧
    t = { s with
      objs := t.objs, ports := t.ports, peers := t.peers, control := t.control, planBuckets := t.planBuckets, out := t.out
      mem := t.mem, units := t.units, summary := t.summary, quietSince := t.quietSince, krdInt := t.krdInt }

/-- A frame with a good FCS is counted in on its port (R271), and no object but its counters and those listed differs. -/
def State.countedIn (s : State) (rx : Rx) (but : List (Obj × Nat)) (t : State) : Prop :=
  t.rd Reg.rxFrames rx.port = (s.rd Reg.rxFrames rx.port + 1) % 2 ^ 64 ∧ t.rd Reg.rxBytes rx.port = (s.rd Reg.rxBytes rx.port + rx.bytes) % 2 ^ 64 ∧
    t.rd Reg.ecnCe rx.port = (s.rd Reg.ecnCe rx.port + b2n (rx.ce && !rx.raw)) % 2 ^ 64 ∧
    s.keepsObjects t ((Reg.rxFrames, rx.port) :: (Reg.rxBytes, rx.port) :: (Reg.ecnCe, rx.port) :: but)

/-! ## Frames heard and sent (R203, R236, R249) -/

/-- A runner frame for this node arrives whole, and its sender's entry is in the peer cache: it passes checks 1 to 3, and check 4 has its entry (R203, R249). -/
def State.hearsFrame (s : State) (rx : Rx) (f : RFrame) : Prop :=
  s.receives rx.port = true ∧ s.rb Reg.transportEnable 0 = true ∧ s.works 6 = true ∧ f.headerCrc = f.crc ∧ f.dst = s.nodeId ∧ f.wellFormed = true ∧
    f.hopCredit = false ∧ (s.peer f.src).cached = true

/-- The trailer, and the UDP checksum where there is one, check (R203, R259). -/
def RFrame.sound (f : RFrame) (rx : Rx) : Prop := rx.udpBad = false ∧ f.trailerGood = true

/-- A frame for this node counted, and its sender's entry touched: what checks 1 to 4 leave (R249, R271). -/
def State.took (s : State) (rx : Rx) (but : List (Obj × Nat)) (t : State) : Prop :=
  s.countedIn rx ((Reg.framesReceived, 0) :: but) t ∧ t.rd Reg.framesReceived 0 = (s.rd Reg.framesReceived 0 + 1) % 2 ^ 64

/-- The way that a frame for a node that is no pour frame takes now (R236). -/
def State.wayTo (s : State) (n : Nat) : Option Route := (s.pickRoute n).1

/-- A MGMT frame of an operation, made with what entry p says of the peer, waits last for its way to a node; with no way it is dropped (R236, R244). -/
def State.sendsMgmt (s : State) (n op : Nat) (p : Peer) (t : State) : Prop :=
  match s.wayTo n with
  | none => t.control = s.control
  | some w => ∃ r, t.control = s.control ++ [r] ∧ r.route = some w ∧ r.due = true ∧ r.pace = 4 ∧ r.frame.cls = 5 ∧ r.frame.op = op ∧
      r.frame.src = s.nodeId ∧ r.frame.dst = n ∧ r.frame.payload = s.joinPayload p (mgmtKind op)

/-- An entry of t as a peer's entry with frames that waited sent: the flows' bases, the credits held and all that is received are as p has them. -/
def Peer.sentFrom (p q : Peer) : Prop :=
  q = { p with data := q.data, atomic := q.atomic, coll := q.coll, waiting := q.waiting, creditsOut := q.creditsOut, runnerPtr := q.runnerPtr, routePtr := q.routePtr } ∧
    q.data.base = p.data.base ∧ q.atomic.base = p.atomic.base ∧ q.coll.base = p.coll.base

/-- No frame that may go waits at an entry (R206, R225, R245). -/
def Peer.flushed (p : Peer) : Prop := ∀ r ∈ p.waiting, p.ready r.frame.cls = false

/-- Nothing but the entry of one peer, what waits to be sent, and the registers differs. -/
def State.onlyPeer (s : State) (n : Nat) (t : State) : Prop :=
  (∀ m, m ≠ n → t.peer m = s.peer m) ∧
    t = { s with
      objs := t.objs, peers := t.peers, control := t.control, queueSeq := t.queueSeq, atomReqs := t.atomReqs, quietSince := t.quietSince, krdInt := t.krdInt }

/-- No DISPATCH, flask or running collective depends on a peer, no frame of it waits for a buffer, and only frames of ended collectives are outstanding to it. -/
def State.lone (s : State) (n : Nat) : Prop :=
  s.disps = [] ∧ s.blocks = [] ∧ s.flasks = [] ∧ (∀ x ∈ s.heldFrames, x.frame.src ≠ n) ∧ (∀ g, (s.group g).running = none) ∧
    ∀ r, (r ∈ ((s.peer n).data.sent ++ (s.peer n).atomic.sent ++ (s.peer n).coll.sent).map (·.2) ∨ r ∈ (s.peer n).waiting) → ∃ g, r.why = .coll g

/-- A peer is declared Dead: the declaration is counted, what was outstanding or waiting is abandoned, the flows keep their numbers, and the requests to it and the frames held for its entry are gone (R215, R247). -/
def State.drops (s : State) (n : Nat) (t : State) : Prop :=
  t.rd Reg.peersDeclaredDead 0 = (s.rd Reg.peersDeclaredDead 0 + 1) % 2 ^ 64 ∧
    t.peer n = { s.peer n with
      state := 4, deadTick := s.tick, data := { (s.peer n).data with sent := [] }, atomic := { (s.peer n).atomic with sent := [] }
      coll := { (s.peer n).coll with sent := [] }, waiting := [], rdata := {}, ratomic := {}, rcoll := {}, credits := 0, creditsOut := 0, creditEnds := []
      asleep := false, waking := false, sleepSent := false, sleepAcked := false, mgmtSends := 0 } ∧
    (∀ m, m ≠ n → t.peer m = s.peer m) ∧ t.atomReqs = Tab.keep s.atomReqs (fun _ q => q.dst != n) ∧ t.fetchHeld = s.fetchHeld.filter (fun x => x.1 != n) ∧
    t = { s with objs := t.objs, peers := t.peers, atomReqs := t.atomReqs, fetchHeld := t.fetchHeld, quietSince := t.quietSince, krdInt := t.krdInt }

/-! ## Surveys, relays and messages in commands (R264, R528, R530) -/

/-- A runner frame for this node arrives whole, and passes checks 1 to 3, whoever sent it (R203). -/
def State.reaches (s : State) (rx : Rx) (f : RFrame) : Prop :=
  s.receives rx.port = true ∧ s.rb Reg.transportEnable 0 = true ∧ s.works 6 = true ∧ f.headerCrc = f.crc ∧ f.dst = s.nodeId ∧ f.wellFormed = true ∧
    f.hopCredit = false

/-- The survey that runs takes a record of the probe with source port u, and a is where it lies (R263, R264). -/
def State.records (s : State) (u a : Nat) : Prop :=
  s.rd Reg.surveyState 0 = 1 ∧ (∃ h, (u, h) ∈ s.probesSent) ∧ s.rd Reg.surveyRecords 0 < s.rd Reg.surveyResultMax 0 ∧
    s.engineXlt (s.rd Reg.surveyResultAddr 0 + 32 * s.rd Reg.surveyRecords 0) 32 = some a

/-- A survey record: the responder, the tick, the probe's source port and its hop limit, written at a, and no other byte of memory (R264). -/
def State.surveyed (s : State) (a ip u hop : Nat) (t : State) : Prop :=
  onlyBytes s.mem t.mem a (leBytes 32 (ip % 2 ^ 128 * 2 ^ 128 + s.tick * 2 ^ 80 + u % 2 ^ 16 * 2 ^ 64 + hop % 2 ^ 8 * 2 ^ 56)) ∧
    t.rd Reg.surveyRecords 0 = (s.rd Reg.surveyRecords 0 + 1) % 2 ^ 16 ∧ t = { s with objs := t.objs, mem := t.mem, quietSince := t.quietSince, krdInt := t.krdInt }

/-- A well-formed and authentic message of one READ op for this node (R515, R523). -/
def State.asked (s : State) (dest : AapDest) (host : Nat) (l : List Byte) (h : AapHead) (o : AapOp) : Prop :=
  h = aapHeadOf (beNat (l.take 32)) ∧ h.opCount = 1 ∧ parseOps 1 ((l.take h.bytes).drop 32) = some [o] ∧ o.code = 1 ∧ s.aapFormed dest l h = true ∧
    s.aapAuthentic dest host l h (some [o]) = true ∧ (h.target = 0 ∨ h.target = s.nodeId)

/-- The response to a message of one op with the op's answer: the request's header with this node and its incarnation, the op record, and the tag of the request's key where it had one (R516, R518). -/
def State.response (s : State) (h : AapHead) (o : AapOp) (a : OpAns) : List Byte :=
  let m := beBytes 32 ({ h with msgType := 1, msgStatus := 0, target := s.nodeId, inc := s.rd Reg.incarnation 0 } : AapHead).number ++ o.answer a
  if h.noTag then m else m ++ aapTag (s.aapKey h.principal h.keyId) m

/-- The answer of a READ: what the dictionary holds as it is read, when only the listed objects may differ from s (R517). -/
def State.readAnswer (s : State) (but : List (Obj × Nat)) (p : Nat) (o : AapOp) (a : OpAns) : Prop :=
  ∃ u : State, s.keepsObjects u but ∧ a.status = (u.opRead p o).status ∧ a.value = (u.opRead p o).value

/-- The objects that count a served message of one op (R536). -/
def askObjects (p : Nat) : List (Obj × Nat) := [(Reg.aapOps, 0), (Reg.principalMessages, p), (Reg.principalDenied, p)]

/-! ## Sequenced frames received (R203, R207 to R212) -/

/-- A whole frame of DATA or COLL from a Live peer for this node, whose number is FRESH: it passes checks 1 to 6, and 8 (R203, R208). -/
def State.hearsFresh (s : State) (rx : Rx) (f : RFrame) : Prop :=
  s.hearsFrame rx f ∧ f.sound rx ∧ (f.cls = 0 ∨ f.cls = 4) ∧ (s.peer f.src).state = 2 ∧ f.tagOk = true ∧ (((s.peer f.src).rflow f.cls).check f.seq).1 = 0

/-- An incoming flow once a FRESH frame of it is received. -/
def RecvFlow.got (fl : RecvFlow) (f : RFrame) : RecvFlow :=
  let r := (fl.check f.seq).2.2.receive f.seq
  if f.ackNow then { r with ackNow := f.seq :: r.ackNow } else r

/-- Whether the ACK of a FRESH frame that settles goes at once: for AckNow, a refusal, or 16 settlements to report (R212, R554). -/
def RecvFlow.acksNow (fl : RecvFlow) (f : RFrame) (reason : Nat) : Bool :=
  (fl.got f).ackNow.contains f.seq || reason != 0 || decide (16 ≤ ((fl.got f).settle f.seq reason).unacked)

/-- A FRESH frame has been received and has settled with a reason: its flow says so, an ACK has gone at once where it must, no other peer's entry and nothing that waited to go is changed (R207, R208, R212). -/
def State.settlesFrame (s : State) (f : RFrame) (reason : Nat) (t : State) : Prop :=
  let fl := (s.peer f.src).rflow f.cls
  let now := fl.acksNow f reason
  t.peer f.src = { (s.peer f.src).modRflow f.cls fun _ => if now then ((fl.got f).settle f.seq reason).acked else (fl.got f).settle f.seq reason with
    used := s.tick, routePtr := (t.peer f.src).routePtr } ∧
  (∀ n, n ≠ f.src → t.peer n = s.peer n) ∧ (now = false → t.control = s.control) ∧ ∀ r ∈ s.control, r ∈ t.control

/-! ## Requests and replies (R220, R225 to R227) -/

/-- A whole ATOMIC frame from a Live peer for this node and its incarnation (R203, R226). -/
def State.hearsRequest (s : State) (rx : Rx) (f : RFrame) : Prop :=
  s.hearsFrame rx f ∧ f.sound rx ∧ f.cls = 1 ∧ (s.peer f.src).state = 2 ∧ f.aux % 2 ^ 14 = s.rd Reg.incarnation 0 % 2 ^ 14

/-- A REPLY with a status and bytes waits last for its way to the requester; with no way it is dropped (R226, R236). -/
def State.replies (s : State) (f : RFrame) (status : Nat) (data : List Byte) (t : State) : Prop :=
  match s.wayTo f.src with
  | none => t.control = s.control
  | some w => ∃ r, t.control = s.control ++ [r] ∧ r.route = some w ∧ r.due = true ∧ r.frame.cls = 2 ∧ r.frame.src = s.nodeId ∧ r.frame.dst = f.src ∧
      r.frame.seq = f.seq ∧ r.frame.ctx = f.ctx ∧ r.frame.heat = f.heat ∧ r.frame.op = status * 2 ^ 8 ∧ r.frame.payload = data

/-- The sender's entry after its request, with what its ATOMIC flow has become; no other entry is changed. -/
def State.servedPeer (s : State) (n : Nat) (fl : RecvFlow) (t : State) : Prop :=
  t.peer n = { s.peer n with used := s.tick, ratomic := fl, routePtr := (t.peer n).routePtr } ∧ ∀ m, m ≠ n → t.peer m = s.peer m

/-- What may change when a request is served that touches no landing store. -/
def State.onlyServed (s t : State) : Prop :=
  t = { s with objs := t.objs, mem := t.mem, peers := t.peers, control := t.control, queueSeq := t.queueSeq, replyCache := t.replyCache
               quietSince := t.quietSince, krdInt := t.krdInt }

/-- How many of the frames that an ACK ended are of a purpose. -/
def endedFor (l : List (SendRec × Nat)) (is : Purpose → Bool) : Nat := (l.filter fun x => is x.1.why).length

def Purpose.ofDispatch (uid : Nat) : Purpose → Bool
  | .copies u _ _ => u == uid
  | .close u => u == uid
  | _ => false

def Purpose.ofFlask (key : Nat) : Purpose → Bool
  | .answers k _ _ => k == key
  | _ => false

/-- Frames settled with effect that carried copies, closes or answers. -/
def plainEnds (l : List (SendRec × Nat)) : Prop :=
  ∀ x ∈ l, x.2 = 0 ∧ ((∃ u i n, x.1.why = .copies u i n) ∨ (∃ u, x.1.why = .close u) ∨ ∃ k i n, x.1.why = .answers k i n)

/-! ## Flasks (R282 to R287) -/

/-- A source of a flask beside number ix is neither closed nor Late, so that the flask's use goes on. -/
def State.othersOpen (s : State) (p : Plan) (h : Hosted) (key ix : Nat) : Prop :=
  ∃ y j, (y, j) ∈ (p.listOf h).sources.zipIdx ∧ j ≠ ix ∧ ((s.flask key).src j).closed = false ∧ ((s.flask key).src j).late = none

/-! ## Frames sent, and sent again (R187, R213, R227, R234 to R239) -/

/-- A frame has left a port: its bytes cross the boundary and are counted, the frame counts in its epoch, and its class's bucket on the port is lower by its bytes with preamble and gap (R187, R235, R271). -/
def State.leaves (s : State) (p pace plan node : Nat) (f : RFrame) (l : List Byte) (t : State) : Prop :=
  t.out = .frame p f.cls f.dst l :: s.out ∧ t.rd Reg.txFrames p = (s.rd Reg.txFrames p + 1) % 2 ^ 64 ∧ t.rd Reg.txBytes p = (s.rd Reg.txBytes p + l.length) % 2 ^ 64 ∧
    (t.portRec p).inFlight = (s.portRec p).inFlight ++ [(f.epoch, s.tick, node, f.cls, f.seq)] ∧
    t.classBucket pace plan p = s.classBucket pace plan p - ((l.length + 20) * 256 : Nat) ∧
    s.keepsObjects t [(Reg.txFrames, p), (Reg.txBytes, p), (Reg.framesSent, 0), (Reg.retransmits, 0), (Reg.forwardedFrames, p), (Reg.controlOverdraft, p)] ∧
    t = { s with objs := t.objs, ports := t.ports, peers := t.peers, atomReqs := t.atomReqs, control := t.control, planBuckets := t.planBuckets
                 pathBuckets := t.pathBuckets, out := t.out, free := t.free, surveyTick := t.surveyTick, quietSince := t.quietSince, krdInt := t.krdInt }

/-- A frame that this engine originates has left a port on its way: beside that, it is counted as sent, and as sent again when it is; its path's bucket is drawn on, and a raw frame takes a hop credit of its pair (R187, R213, R234, R239). -/
def State.leavesOwn (s : State) (p : Nat) (r : SendRec) (w : Route) (e : PathEntry) (f : RFrame) (l : List Byte) (t : State) : Prop :=
  let pcp := s.originPcp (s.rd Reg.activeVersion 0) (e.kind == 0) r.frame
  l = s.wireFrame p pcp e (match r.udpSrc with | some u => u.2 | none => s.rd Reg.hopLimit 0) f ∧ s.leaves p r.pace r.plan f.dst f l t ∧
    t.rd Reg.framesSent 0 = (s.rd Reg.framesSent 0 + 1) % 2 ^ 64 ∧ t.rd Reg.retransmits 0 = (s.rd Reg.retransmits 0 + b2n (0 < r.sends)) % 2 ^ 64 ∧
    (∀ b, w.bucket = some b → t.pathBucket b.1 b.2 = s.pathBucket b.1 b.2 - ((l.length + 20) * 256 : Nat)) ∧
    (t.portRec p).creditUsed = (if e.kind = 0 ∧ f.dst ≠ Config.neighbour p then
      Tab.set 0 (s.portRec p).creditUsed pcp ((Tab.get 0 (s.portRec p).creditUsed pcp + 1) % 256) else (s.portRec p).creditUsed) ∧
    ∀ q, q ≠ p → t.portRec q = s.portRec q

/-- The way that an outstanding frame takes when it is sent again: the next eligible runner of its destination for a pour frame, otherwise the next way to the node (R188, R213, R236). -/
def State.wayAgain (s : State) (n : Nat) (r : SendRec) : Option Route := if r.pace ≤ 1 then (s.pickRunner r.plan n r.pace).1 else s.wayTo n

/-- Frame k of a flow is due again on a way; one that is no pour frame and has no way counts as sent (R213, R227, R236). -/
def State.resent (s : State) (n c k : Nat) (r : SendRec) (t : State) : Prop :=
  ∃ x, t.peer n = { (s.peer n).modFlow c fun f => { f with sent := Tab.put f.sent k x } with runnerPtr := (t.peer n).runnerPtr, routePtr := (t.peer n).routePtr } ∧
    (∀ m, m ≠ n → t.peer m = s.peer m) ∧
    match s.wayAgain n r with
    | some w => x = { r with frame := { r.frame with retry := decide (0 < r.sends) }, route := some w, due := true, ord := s.queueSeq }
    | none => x = { r with route := none, due := false, sends := r.sends + 1, lastTick := s.tick }

/-- An ACK frame of one or two blocks waits last for its way to a node, and nothing but it and the node's entry is new; with no way it is dropped (R211, R236). -/
def State.acked (s : State) (n : Nat) (blocks : List Nat) (t : State) : Prop :=
  (match s.wayTo n with
    | none => t.control = s.control
    | some w => ∃ r, t.control = s.control ++ [r] ∧ r.route = some w ∧ r.due = true ∧ r.pace = 5 ∧
        r.frame = { cls := 3, src := s.nodeId, dst := n, op := blocks.length * 2 ^ 8, payload := blocks.flatMap (beBytes 64) }) ∧
    s.keepsObjects t [(Reg.noRoute, 0)] ∧
    t = { s with objs := t.objs, peers := t.peers, control := t.control, queueSeq := t.queueSeq, quietSince := t.quietSince, krdInt := t.krdInt }

/-! ## The scheduler, waits and moves (R359, R360, R381, R408, R439, R457) -/

/-- Context x, as c was, runs from now as d on sequencer n: its wait is counted, its watchdog starts, and no take, hold or rest is on it; no other context changes (R381, R439, R457). -/
def State.schedules (s : State) (n x : Nat) (c d : Ctx) (t : State) : Prop :=
  t.ctx x = some d ∧ s.keepsContexts t x ∧ d.state = 3 ∧ d.waitTicks = (c.waitTicks + s.since c.readyTick) % 2 ^ 64 ∧ d.runTick = s.tick ∧
    d.watchOn = true ∧ d.watchdog = false ∧ d.take = false ∧ d.hold = 0 ∧ d.rest = none ∧
    t.rd Reg.contextSwitches n = (s.rd Reg.contextSwitches n + 1) % 2 ^ 64 ∧
    t.rd Reg.hostWaitTicks c.host = (s.rd Reg.hostWaitTicks c.host + s.since c.readyTick) % 2 ^ 64 ∧
    s.keepsObjects t [(Reg.contextSwitches, n), (Reg.hostWaitTicks, c.host)] ∧
    t = { s with ctxs := t.ctxs, cmds := t.cmds, objs := t.objs, quietSince := t.quietSince, krdInt := t.krdInt }

/-- A context at word 0 of command u: the command's arguments in g1 to g3, g4 to g15 as kept, the other registers and the predicates 0, the return stack empty, and no effect counted (R359, R360, R383). -/
def Ctx.enters (d : Ctx) (u : Nat) (h : Word512) (kept : Nat → Word64) : Prop :=
  d.cmd = some u ∧ d.cls = hClass h ∧ d.pc = 0 ∧ d.preds = 0 ∧ d.stack = [] ∧ d.effectCount = 0 ∧ d.effectCrc = 0 ∧ d.wide = 0 ∧
    (∀ r, d.greg r =
      if r = 1 then BitVec.ofNat 64 (if hOp h = 1 then fld h 351 288 else fld h 319 256)
      else if r = 2 then BitVec.ofNat 64 (if hOp h = 1 then fld h 415 352 else fld h 383 320)
      else if r = 3 then (if hOp h = 1 then BitVec.ofNat 64 (fld h 479 416) else 0)
      else if 4 ≤ r ∧ r < 16 then kept r else 0) ∧
    ∀ r, 4 ≤ r → r < 16 → d.entryReg r = kept r

/-- The on-chip byte of a run's source, and of its destination, at an offset of its descriptor, the two sides being memory at sa and da (R402). -/
def MRun.srcByte (r : MRun) (sa : Nat) (o : Int) : Nat := sa + ((r.desc.src : Int) + o - r.srcLo).toNat
def MRun.dstByte (r : MRun) (da : Nat) (o : Int) : Nat := da + ((r.desc.dst : Int) + o - r.dstLo).toNat

/-- A COPY of one unswizzled descriptor from memory at sa to memory at da, in a phase, alone in MLD and not killed; memory answers without error. -/
def State.moves (s : State) (id : Nat) (c : MCopy) (r : MRun) (sa da phase : Nat) : Prop :=
  s.copies = [(id, c)] ∧ s.works 14 = true ∧ c.killed = false ∧ c.phase = phase ∧ c.runs = [r] ∧ r.desc.check = 0 ∧ r.desc.srcSw = false ∧
    r.desc.dstSw = false ∧ r.srcLoc = .loc (.noc sa) ∧ r.dstLoc = .loc (.noc da) ∧ s.memStatus = [] ∧ c.slotCtx = none

/-! ## Words and checks as the spec lays them out (R198, R366) -/

/-- Every field of the word's slots is within its width (R366 to R379). -/
def PWord.fits (p : PWord) : Prop :=
  (p.control.guard < 2 ^ 5 ∧ p.control.cop < 2 ^ 4 ∧ p.control.target < 2 ^ 14 ∧ p.control.tallyA < 2 ^ 5 ∧ p.control.threshA < 2 ^ 5 ∧
    p.control.tallyB < 2 ^ 5 ∧ p.control.threshB < 2 ^ 5 ∧ p.control.combine < 2 ^ 2 ∧ p.control.rsvd < 2 ^ 19) ∧
  (∀ sl ∈ [p.a, p.b], sl.guard < 2 ^ 5 ∧ sl.op < 2 ^ 7 ∧ sl.rd < 2 ^ 5 ∧ sl.ra < 2 ^ 5 ∧ sl.rb < 2 ^ 5 ∧ sl.pd < 2 ^ 3 ∧ sl.rsvd < 2 ^ 2 ∧
    sl.imm < 2 ^ 32) ∧
  (p.tally.guard < 2 ^ 5 ∧ p.tally.op < 2 ^ 3 ∧ p.tally.tallyReg < 2 ^ 5 ∧ p.tally.valueReg < 2 ^ 5 ∧ p.tally.rsvd < 2 ^ 14 ∧ p.tally.imm < 2 ^ 32) ∧
  (p.stitch.guard < 2 ^ 5 ∧ p.stitch.op < 2 ^ 3 ∧ p.stitch.reg < 2 ^ 5 ∧ p.stitch.rsvd < 2 ^ 51) ∧
  (p.copy.guard < 2 ^ 5 ∧ p.copy.op < 2 ^ 3 ∧ p.copy.descReg < 2 ^ 5 ∧ p.copy.countM1 < 2 ^ 8 ∧ p.copy.doneEnable < 2 ∧ p.copy.doneReg < 2 ^ 5 ∧
    p.copy.rsvd < 2 ^ 37) ∧
  (∀ sl ∈ [p.pour, p.score], sl.guard < 2 ^ 5 ∧ sl.op < 2 ^ 3 ∧ sl.tallyEnable < 2 ∧ sl.tallyReg < 2 ^ 5 ∧ sl.rsvd < 2 ^ 34) ∧
  p.select.guard < 2 ^ 5 ∧ p.select.op < 2 ^ 3 ∧ p.select.level < 2 ^ 2 ∧ p.select.rsvd < 2 ^ 22

/-- Long division of a binary polynomial by x^16 + 0x8BB7, from quotient bit n - 1 down: the remainder (R198). -/
def remainder16 : Nat → Nat → Nat
  | 0, v => v
  | n + 1, v => remainder16 n (if bit v (n + 16) then v ^^^ (0x18BB7 * 2 ^ n) else v)

end Sys2Proof.Machine
end

