-- ==== Sys2Proof/Certificates/Slice0/Obligations.lean ====
section
/-! DEFINITION. The statements about the engine. -/

set_option Elab.async false

open Sys2Proof Sys2Proof.Machine


/-- R367, Scalar operations: each register operation gives its destination the value the table states, of the sources as they stood at the start of the word; g0 stays 0 (R359); nothing else of the machine changes but the context's place in its pattern, the word's other scalar result, and WordsIssued. -/
def Obligations.RegisterOperationsGiveTheirValues : Prop :=
  ∀ (s : State) (n : Nat) (i : Issue) (slotB : Bool) (g rd ra rb imm : Nat), s.awake → s.sound → s.issues n i → i.narrow → i.goesOn →
    i.w.a.quiet → i.w.b.quiet → i.exec g = true → imm < 2 ^ 32 → ¬ i.writesReg (i.scalar (!slotB)) rd →
    ∀ e ∈ aluRows n slotB g rd ra rb (i.reg ra) (i.reg rb) ++ immRows n slotB g rd ra imm (i.reg ra), i.scalar slotB = e.1 →
      Runs e.2.1 s fun t => ∃ c, t.ctx i.x = some c ∧ c.greg rd = (if rd = 0 then 0 else e.2.2) ∧
        i.keepsRest slotB (some rd) none c ∧ s.onlyWord i t

/-- R367, Scalar operations: each comparison and predicate operation gives its destination predicate the value the table states, of the sources as they stood at the start of the word. R367, Scalar operations: RDS gives its destination the special value that Imm[3:0] selects. -/
def Obligations.PredicatesAndSpecialValuesAreGiven : Prop :=
  (∀ (s : State) (n : Nat) (i : Issue) (slotB : Bool) (g ra rb pd imm : Nat), s.awake → s.sound → s.issues n i → i.narrow → i.goesOn →
    i.w.a.quiet → i.w.b.quiet → i.exec g = true → imm < 2 ^ 32 → ¬ i.writesPred (i.scalar (!slotB)) pd →
    ∀ e ∈ compareRows n slotB g ra rb pd imm (i.reg ra) (i.reg rb) ++ predicateRows n slotB g ra rb pd i.c.preds, i.scalar slotB = e.1 →
      Runs e.2.1 s fun t => ∃ c, t.ctx i.x = some c ∧ bit c.preds pd = e.2.2 ∧ i.keepsRest slotB none (some pd) c ∧ s.onlyWord i t) ∧
  (∀ (s : State) (n : Nat) (i : Issue) (slotB : Bool) (g rd imm : Nat), s.awake → s.sound → s.issues n i → i.narrow → i.goesOn →
    i.w.a.quiet → i.w.b.quiet → i.exec g = true → ¬ i.writesReg (i.scalar (!slotB)) rd → i.scalar slotB = ⟨g, 0x30, rd, 0, 0, 0, 0, imm⟩ →
    ∀ e ∈ specialValues s n i, imm % 16 = e.1 →
      Runs (.rds n slotB g rd imm) s fun t => ∃ c, t.ctx i.x = some c ∧ c.greg rd = (if rd = 0 then 0 else BitVec.ofNat 64 e.2) ∧
        i.keepsRest slotB (some rd) none c ∧ s.onlyWord i t)

/-- R369 and R367, Scalar operations: LDT gives its destination the value of the tally that ga[16:0] names, a tally of the host's range (the issue check) and not poisoned. R369: LDM gives its destination the 64-bit little-endian number at ga + sext(Imm), in memory, scratch, the command's payload or its result space. R369, R383: STM stores gb as 64 bits little-endian at ga + sext(Imm), in memory, scratch or the command's result space, changes no other byte of any of them, and counts and folds one effect of kind 2. -/
def Obligations.PatternLoadsAndStoresReachTheirPlace : Prop :=
  (∀ (s : State) (n : Nat) (i : Issue) (slotB : Bool) (g rd ra : Nat), s.awake → s.sound → s.issues n i → i.narrow → i.goesOn →
    (i.scalar (!slotB)).quiet → i.exec g = true → ¬ i.writesReg (i.scalar (!slotB)) rd → i.scalar slotB = ⟨g, 0x31, rd, ra, 0, 0, 0, 0⟩ →
    s.tallyFlip.contains ((i.reg ra).toNat % 2 ^ 17) = false → s.tallyBad.contains ((i.reg ra).toNat % 2 ^ 17) = false →
      Runs (.ldt n slotB g rd ra) s fun t => ∃ c, t.ctx i.x = some c ∧
        c.greg rd = (if rd = 0 then 0 else BitVec.ofNat 64 (s.tally ((i.reg ra).toNat % 2 ^ 17))) ∧
        i.keepsRest slotB (some rd) none c ∧ s.onlyWord i t) ∧
  (∀ (s : State) (n : Nat) (i : Issue) (g rd ra imm : Nat) (pl : Place) (l : List Byte), s.awake → s.sound → s.issues n i → i.narrow →
    i.goesOn → i.w.b.quiet → i.exec g = true → ¬ i.writesReg i.w.b rd → i.w.a = ⟨g, 0x38, rd, ra, 0, 0, 0, imm⟩ →
    i.place false (i.reg ra + sextImm imm).toNat 8 = some pl → s.placeRead i pl 8 = some l →
      Runs (.ldm n false g rd ra imm) s fun t => ∃ c, t.ctx i.x = some c ∧
        c.greg rd = (if rd = 0 then 0 else BitVec.ofNat 64 (leNat l)) ∧ i.keepsRest false (some rd) none c ∧ s.onlyWord i t) ∧
  (∀ (s : State) (n : Nat) (i : Issue) (g ra rb imm : Nat) (pl : Place), s.awake → s.sound → s.issues n i → i.narrow →
    i.goesOn → i.w.b.quiet → i.exec g = true → i.w.a = ⟨g, 0x39, 0, ra, rb, 0, 0, imm⟩ →
    i.place true (i.reg ra + sextImm imm).toNat 8 = some pl → s.stores8 i pl → i.c.suppress ≤ i.c.effectCount →
      Runs (.stm n false g ra rb imm) s fun t =>
        s.stored8 i pl (leBytes 8 (i.reg rb).toNat) t ∧
        (∃ c, t.ctx i.x = some c ∧ i.c.folds 2 0x39 (i.reg ra + sextImm imm).toNat (i.reg rb).toNat c ∧
          (∀ r, ¬ i.writesReg i.w.b r → c.greg r = i.c.greg r)) ∧ s.keepsContexts t i.x ∧ s.keepsObjects t [(Reg.wordsIssued, i.n)] ∧
        t = { s with ctxs := t.ctxs, objs := t.objs, quietSince := t.quietSince, krdInt := t.krdInt, mem := t.mem, landing := t.landing,
                     scratch := t.scratch, cmds := t.cmds })

/-- R366, R370: NOP goes on to the next word, BR to its target, CALL to its target with the next word pushed, RET to the word popped; one whose guard is false goes on. -/
def Obligations.BranchesSetThePc : Prop :=
  ∀ (s : State) (n : Nat) (i : Issue) (g target : Nat), s.awake → s.sound → s.issues n i → i.narrow → i.w.a.quiet → i.w.b.quiet →
    ∀ e ∈ [((⟨g, 0, 0, 0, 0, 0, 0, 0, 0⟩ : ControlSlot), Instr.nop n g, i.c.pc + 1, i.c.stack),
           (⟨g, 1, target, 0, 0, 0, 0, 0, 0⟩, .br n g target, target, i.c.stack),
           (⟨g, 2, target, 0, 0, 0, 0, 0, 0⟩, .call n g target, target, (i.c.pc + 1) :: i.c.stack),
           (⟨g, 3, 0, 0, 0, 0, 0, 0, 0⟩, .ret n g, i.c.stack.headD 0, i.c.stack.drop 1)], i.w.control = e.1 →
      Runs e.2.1 s fun t => ∃ c, t.ctx i.x = some c ∧
        c.pc = (if i.exec g = true then e.2.2.1 else i.c.pc + 1) ∧ c.stack = (if i.exec g = true then e.2.2.2 else i.c.stack) ∧
        c = { i.c with g := c.g, preds := c.preds, pc := c.pc, stack := c.stack } ∧
        (∀ r, ¬ i.writesReg i.w.a r → ¬ i.writesReg i.w.b r → c.greg r = i.c.greg r) ∧ s.onlyWord i t

/-- R371, R321: a WAIT whose combination of tally conditions holds, with no take pending and no COPY of the command in scratch, lets the context go on with the next word and invalidates its sequencer's scratch (R380). One whose condition does not hold rests: the context keeps the wait, pc past it, and leaves its sequencer unless its command's pour or scoring still holds it there (R113, R184). -/
def Obligations.WaitGoesOnOrRests : Prop :=
  ∀ (s : State) (n : Nat) (i : Issue) (g ra ta rb tb m : Nat), s.awake → s.sound → s.issues n i → i.narrow → i.w.a.quiet → i.w.b.quiet →
    i.exec g = true → i.w.control = ⟨g, 4, 0, ra, ta, rb, tb, m, 0⟩ → m < 4 → i.c.take = false → s.scratchCopies i.uid = false →
    s.tallyFlip = [] → s.tallyBad = [] → s.watchTable.length + 2 ≤ 4096 →
    ∀ A B : Bool, A = tallySat (s.tally ((i.reg ra).toNat % 2 ^ 17)) ((i.reg ta).toNat % 2 ^ 48) →
      B = tallySat (s.tally ((i.reg rb).toNat % 2 ^ 17)) ((i.reg tb).toNat % 2 ^ 48) →
      Runs (.wait n g ra ta rb tb m) s fun t => ∃ c, t.ctx i.x = some c ∧ c.pc = i.c.pc + 1 ∧
        (waitMet m A B = true → c.state = 3 ∧ c.rest = none ∧ c.runTick = s.tick ∧ t.watchTable = s.watchTable) ∧
        (waitMet m A B = false → c.state = (if s.held i.c then 4 else 5) ∧
          c.rest = some ⟨m, (i.reg ra).toNat % 2 ^ 17, (i.reg ta).toNat % 2 ^ 48, (i.reg rb).toNat % 2 ^ 17, (i.reg tb).toNat % 2 ^ 48⟩ ∧
          (A = false → ⟨(i.reg ra).toNat % 2 ^ 17, (i.reg ta).toNat % 2 ^ 48, .context i.x 0, false⟩ ∈ t.watchTable)) ∧
        t.rd Reg.waitsIssued i.n = (s.rd Reg.waitsIssued i.n + 1) % 2 ^ 64 ∧
        (∀ off, off < 2 ^ 20 → Tab.get 0 t.scratch (i.c.seq * 2 ^ 20 + off) = 0) ∧ t.mem = s.mem ∧ t.tallies = s.tallies ∧
        s.keepsContexts t i.x

/-- R372: at END the command's pattern has ended, the sequencer's scratch is invalid (R380), and the context leaves its sequencer unless the command's scoring or pour still holds it there; a RUN with no COPY outstanding becomes ready with status OK at this tick. R370, R384: TRAP stops its context at its own word with the exception Trap, before any effect of the word, and records the stop in its sequencer's exception state; PatternException is reported with the code. -/
def Obligations.EndAndTrapStopThePattern : Prop :=
  (∀ (s : State) (n : Nat) (i : Issue) (g : Nat), s.awake → s.sound → s.issues n i → i.narrow → i.w.a.quiet → i.w.b.quiet →
    i.exec g = true → i.w.control = ⟨g, 5, 0, 0, 0, 0, 0, 0, 0⟩ → s.scratchCopies i.uid = false → i.k.copies = 0 → i.k.marked = 0 →
    i.k.ready = false →
      Runs (.endPattern n g) s fun t => ∃ k, t.cmd i.uid = some k ∧ k.ended = true ∧
        (hOp i.k.header = 1 → k.ready = true ∧ k.status = 0 ∧ k.readyTick = s.tick) ∧
        (hOp i.k.header = 2 → k = { i.k with ended := true } ∧ ∃ c, t.ctx i.x = some c ∧ c.state = (if s.held i.c then 4 else 5)) ∧
        (∀ off, off < 2 ^ 20 → Tab.get 0 t.scratch (i.c.seq * 2 ^ 20 + off) = 0) ∧ t.mem = s.mem) ∧
  (∀ (s : State) (n : Nat) (i : Issue) (g code : Nat), s.awake → s.sound → s.issueOf n = some i → s.ctx i.x = some i.c →
    i.exec g = true → i.w.control = ⟨g, 6, code, 0, 0, 0, 0, 0, 0⟩ → s.checkWord i = some 9 → s.slotOpen 1 →
      Runs (.trap n g code) s fun t =>
        (∃ r, Tab.find t.excs i.n = some r ∧ r.stopped = true ∧ r.ctx = i.x ∧ r.code = 9 ∧ r.pc = i.c.pc) ∧
        t.ctx i.x = some { i.c with state := 6, watchdog := false } ∧ s.keepsContexts t i.x ∧
        t.tallies = s.tallies ∧ t.scratch = s.scratch ∧ t.cmds = s.cmds ∧ t.landing = s.landing)

/-- R373, R375 to R377: STITCH OPEN names the command's StitchTally, SELECT ARM and ARM_LEVEL its level, POUR ARM its pour with the tally to increment; each is recorded as issued in this attempt, for SCORE to take. R374, R146: SCORE puts its DISPATCH last among those whose scoring waits for its turn, with every row of the command, the plan and layer of its header, and the tallies that SCORE and POUR ARM name. -/
def Obligations.WideSlotsArmAndScoreQueues : Prop :=
  (∀ (s : State) (n : Nat) (i : Issue) (g r e l : Nat), s.awake → s.sound → s.issues n i → i.arms → i.goesOn → i.w.a.quiet → i.w.b.quiet →
    i.exec g = true →
    (i.w.stitch = ⟨g, 1, r, 0⟩ → Runs (.stitchOpen n g r) s fun t => ∃ c, t.ctx i.x = some c ∧ bit c.wide 0 = true ∧
      c.stitchTally = (i.reg r).toNat % 2 ^ 17 ∧ s.onlyWord i t) ∧
    (i.w.select = ⟨g, 1, 0, 0⟩ → Runs (.selectArm n g) s fun t => ∃ c, t.ctx i.x = some c ∧ bit c.wide 1 = true ∧ c.armLevel = 0 ∧ s.onlyWord i t) ∧
    (i.w.select = ⟨g, 2, l, 0⟩ → Runs (.armLevel n g l) s fun t => ∃ c, t.ctx i.x = some c ∧ bit c.wide 1 = true ∧ c.armLevel = l ∧ s.onlyWord i t) ∧
    (i.w.pour = ⟨g, 1, e, r, 0⟩ → Runs (.pourArm n g e r) s fun t => ∃ c, t.ctx i.x = some c ∧ bit c.wide 2 = true ∧
      c.pourTally = (if e = 1 then some ((i.reg r).toNat % 2 ^ 17) else none) ∧ s.onlyWord i t)) ∧
  (∀ (s : State) (n : Nat) (i : Issue) (g e r : Nat), s.awake → s.sound → s.issues n i → i.goesOn → i.w.a.quiet → i.w.b.quiet →
    i.exec g = true → i.w.score = ⟨g, 1, e, r, 0⟩ → i.exec i.w.copy.guard = false → i.exec i.w.tally.guard = false →
    (i.exec i.w.stitch.guard = true → i.w.stitch.op = 1) → i.k.ctx = i.x → s.disp i.uid = none →
      Runs (.score n g e r) s fun t => ∃ c d, t.ctx i.x = some c ∧ bit c.wide 3 = true ∧ t.disp i.uid = some d ∧
        d.phase = 0 ∧ d.rows = hRows i.k.header ∧ d.plan = hPlan i.k.header ∧ d.layer = hLayer i.k.header ∧ d.host = i.k.host ∧
        d.scoreTally = (if e = 1 then some ((i.reg r).toNat % 2 ^ 17) else none) ∧ d.pourTally = c.pourTally ∧
        t.pourQueue = s.pourQueue ++ [i.uid] ∧ (∀ u, u ≠ i.uid → t.disp u = s.disp u) ∧ s.keepsContexts t i.x ∧
        t.mem = s.mem ∧ t.tallies = s.tallies)

/-- R378, R325, R383: a TALLY slot adds its amount to the tally that its register names, or sets it, modulo 2^48, leaves every other tally alone, and counts and folds one effect of kind 1, when the command's heat is current (R331). -/
def Obligations.TallySlotsUpdateTheTally : Prop :=
  ∀ (s : State) (n : Nat) (i : Issue) (g r v imm : Nat), s.awake → s.sound → s.issues n i → i.goesOn → i.w.a.quiet → i.w.b.quiet →
    i.exec g = true → i.exec i.w.score.guard = false → i.exec i.w.copy.guard = false → (i.exec i.w.stitch.guard = true → i.w.stitch.op = 1) →
    i.c.suppress ≤ i.c.effectCount → s.tallyFlip = [] → s.tallyBad.contains ((i.reg r).toNat % 2 ^ 17) = false →
    ∀ e ∈ [((⟨g, 1, r, v, 0, 0⟩ : TallySlot), Instr.tallySlotAdd n g r v, (i.reg v).toNat % 2 ^ 48,
              s.tally ((i.reg r).toNat % 2 ^ 17) + (i.reg v).toNat % 2 ^ 48),
           (⟨g, 2, r, v, 0, 0⟩, .tallySlotSet n g r v, (i.reg v).toNat % 2 ^ 48, (i.reg v).toNat % 2 ^ 48),
           (⟨g, 3, r, 0, 0, imm⟩, .tallySlotAddi n g r imm, imm, s.tally ((i.reg r).toNat % 2 ^ 17) + imm)], i.w.tally = e.1 →
      Runs e.2.1 s fun t => t.tally ((i.reg r).toNat % 2 ^ 17) = e.2.2.2 % 2 ^ 48 ∧
        (∀ u, u ≠ (i.reg r).toNat % 2 ^ 17 → t.tally u = s.tally u) ∧
        (∃ c, t.ctx i.x = some c ∧ i.c.folds 1 e.1.op ((i.reg r).toNat % 2 ^ 17) e.2.2.1 c) ∧ s.keepsContexts t i.x ∧
        s.keepsObjects t [(Reg.wordsIssued, i.n), (Reg.tallyUpdates, 0)] ∧
        t = { s with ctxs := t.ctxs, objs := t.objs, quietSince := t.quietSince, krdInt := t.krdInt, tallies := t.tallies
                     watchTable := t.watchTable, tallyBad := t.tallyBad, tallyFlip := t.tallyFlip }

/-- R379, R383: COPY ISSUE whose descriptors pass MLD's checks hands MLD one copy, for this command, with its descriptors and the tally to increment at its end; the command waits for it, and one effect of kind 3 is counted and folded. R377, R302: STITCH SHARED whose 32-byte descriptor STC accepts begins the read of the rows it names into the shared areas of the command's block. -/
def Obligations.CopyAndSharedSlotsHandOver : Prop :=
  (∀ (s : State) (n : Nat) (i : Issue) (g r m e d : Nat) (pl : Place) (l : List Byte) (runs : List MRun), s.awake → s.sound → s.issues n i →
    i.goesOn → i.w.a.quiet → i.w.b.quiet → i.exec g = true → i.w.copy = ⟨g, 1, r, m, e, d, 0⟩ → i.exec i.w.score.guard = false →
    i.exec i.w.tally.guard = false → (i.exec i.w.stitch.guard = true → i.w.stitch.op = 1) → i.c.suppress ≤ i.c.effectCount →
    i.place false (i.reg r).toNat (128 * (m + 1)) = some pl → s.placeRead i pl (128 * (m + 1)) = some l →
    s.slotAccepts i l (m + 1) runs →
      Runs (.copyIssue n g r m e d) s fun t =>
        (∃ c, Tab.find t.copies s.nextCopy = some c ∧ c.uid = i.uid ∧ c.runs = runs ∧ c.host = i.k.host ∧ c.slotCtx = some i.x ∧
          c.doneTally = (if e = 1 then some ((i.reg d).toNat % 2 ^ 17) else none)) ∧
        t.nextCopy = s.nextCopy + 1 ∧ (∃ k, t.cmd i.uid = some k ∧ k = { i.k with copies := i.k.copies + 1 }) ∧
        (∃ c, t.ctx i.x = some c ∧ i.c.folds 3 1 (i.reg r).toNat (m + 1) c) ∧ t.mem = s.mem ∧ t.tallies = s.tallies) ∧
  (∀ (s : State) (n : Nat) (i : Issue) (g r p : Nat), s.awake → s.sound → s.issues n i → i.goesOn → i.w.a.quiet → i.w.b.quiet →
    i.exec g = true → i.w.stitch = ⟨g, 2, r, 0⟩ → i.exec i.w.select.guard = false → i.exec i.w.pour.guard = false →
    i.exec i.w.score.guard = false → i.exec i.w.copy.guard = false → i.exec i.w.tally.guard = false →
    s.xlt i.k.host (i.reg r).toNat 32 false = some (.noc p) → s.memBad p 32 = 0 → s.sharedRefused i.x i.uid (s.memRead p 32) = false →
      Runs (.stitchShared n g r) s fun t =>
        t.sharedPosts = s.sharedPosts ++ [⟨i.x, i.uid, sharedAddr (leNat (s.memRead p 32)), sharedStride (leNat (s.memRead p 32)),
          sharedFirst (leNat (s.memRead p 32)), sharedRows (leNat (s.memRead p 32)), sharedIx (leNat (s.memRead p 32))⟩] ∧
        t.blocks = s.blocks ∧ t.mem = s.mem ∧ s.keepsContexts t i.x)

/-- R323, R325, R328, R76: TALLY_READ gives the tally's value as 8 result bytes, TALLY_SET sets the tally to Value, TALLY_ADD adds Value modulo 2^48, and each is ready with status OK; TALLY_WAIT is ready at once where the tally satisfies Value, and otherwise waits in TLY. No other tally changes. -/
def Obligations.TallyCommandsActOnTheirTally : Prop :=
  ∀ (s : State) (i host : Nat) (h : Word512) (payload : List Byte) (op : Nat) (r : Instr) (H : Word512) (T V : Nat),
    s.awake → s.sound → s.untraced → s.tallyFlip = [] → s.tallyBad = [] → s.watchTable.length < 4096 →
    (op, r) ∈ [(0, Instr.tallyRead i h payload), (1, .tallySet i h payload), (2, .tallyAdd i h payload), (3, .tallyWait i h payload)] →
    H = withField (withOp h 6) 258 256 op → s.admits i host H payload → T = fld H 275 259 → V = fld H 323 276 →
      Runs r s fun t => ∃ k, t.cmd s.nextUid = some k ∧ k.header = H ∧
        (op ≤ 2 ∨ tallySat (s.tally T) V = true → k.ready = true ∧ k.status = 0 ∧ k.readyTick = s.tick) ∧
        (op = 3 ∧ tallySat (s.tally T) V = false → k.ready = false ∧ ⟨T, V, .command s.nextUid, false⟩ ∈ t.watchTable) ∧
        (op = 0 → ∀ j, j < 8 → Tab.get 0 k.result j = (leBytes 8 (s.tally T)).getD j 0) ∧
        t.tally T = (if op = 1 then V % 2 ^ 48 else if op = 2 then (s.tally T + V) % 2 ^ 48 else s.tally T) ∧
        (∀ u, u ≠ T → t.tally u = s.tally u) ∧ t.mem = s.mem ∧ s.keepsContexts t (hContext H)

/-- R78, R361, R439: an admitted RUN or DISPATCH stands in flight; a context that was Idle with no command in execution becomes Runnable at this tick, any other context state stays. -/
def Obligations.RunAndDispatchMakeTheirContextRunnable : Prop :=
  ∀ (s : State) (i host : Nat) (h : Word512) (payload : List Byte) (r : Instr) (H : Word512) (c : Ctx), s.awake → s.untraced →
    (r, H) ∈ [(Instr.run i h payload, withOp h 1), (.dispatch i h payload, withOp h 2)] → s.admits i host H payload →
    s.ctx (hContext H) = some c → s.running c.seq = none →
      Runs r s fun t => s.taken i (s.fetched i host H payload) t ∧ t.nextUid = s.nextUid + 1 ∧
        t.ctx (hContext H) = some (if c.state = 1 ∧ c.cmd = none then { c with state := 2, readyTick := s.tick } else c) ∧
        s.keepsContexts t (hContext H) ∧ (∀ u, u ≠ s.nextUid → t.cmd u = s.cmd u) ∧ t.mem = s.mem ∧ t.tallies = s.tallies

/-- R401, R408: an admitted COPY whose descriptors pass MLD's checks is one copy in MLD, with its descriptors in order. -/
def Obligations.CopyCommandsGoToTheMould : Prop :=
  ∀ (s : State) (i host : Nat) (h : Word512) (payload : List Byte) (runs : List MRun) (k : Cmd), s.awake → s.untraced →
    s.admits i host (withOp h 3) payload → k = s.fetched i host (withOp h 3) payload →
    s.checkCopyDescs { uid := s.nextUid, host := host, ring := i, heat := k.heat } ((chunks 128 (k.payload.length + 1) k.payload).map mdescOf) = (0, runs) →
      Runs (.copy i h payload) s fun t => s.taken i k t ∧ t.nextCopy = s.nextCopy + 1 ∧
        (∃ c, Tab.find t.copies s.nextCopy = some c ∧ c.uid = s.nextUid ∧ c.runs = runs ∧ c.host = host ∧ c.slotCtx = none) ∧
        t.mem = s.mem ∧ t.ctxs = s.ctxs

/-- R93: a FENCE is ready at once where every earlier command of its ring is ready; where one that is neither FENCE nor CANCEL is not, it is not ready and holds its ring. R95, R52: CANCEL advances its context's heat, and is ready at once where no other command of the context is in flight unready. -/
def Obligations.FenceWaitsAndCancelAdvancesTheHeat : Prop :=
  ∀ (s : State) (i host : Nat) (h : Word512) (payload : List Byte), s.awake → s.untraced → (∀ u ∈ (s.ring i).rob, u < s.nextUid) →
    (s.admits i host (withOp h 4) payload →
      ((∀ u ∈ (s.ring i).rob, ∃ k, s.cmd u = some k ∧ k.ready = true) →
        Runs (.fence i h payload) s fun t => ∃ k, t.cmd s.nextUid = some k ∧ k.ready = true ∧ k.status = 0 ∧ k.readyTick = s.tick) ∧
      ((∃ u ∈ (s.ring i).rob, ∃ k, s.cmd u = some k ∧ k.ready = false ∧ hOp k.header ≠ 4 ∧ hOp k.header ≠ 5) →
        Runs (.fence i h payload) s fun t => (∃ k, t.cmd s.nextUid = some k ∧ k.ready = false) ∧ (t.ring i).fenceWait = true)) ∧
    (∀ (H : Word512) (c : Ctx), H = withOp h 5 → s.admits i host H payload → s.ctx (hContext H) = some c →
      (∀ p ∈ s.cmds, p.2.ctx = hContext H → p.2.ready = true) →
        Runs (.cancel i h payload) s fun t =>
          (∃ c', t.ctx (hContext H) = some c' ∧
            c' = { c with heat := (c.heat + 1) % 2 ^ 16, deadlineMisses := c'.deadlineMisses, resetting := c'.resetting }) ∧
          (∃ k, t.cmd s.nextUid = some k ∧ k.ready = true ∧ k.status = 0 ∧ k.heat = (c.heat + 1) % 2 ^ 16) ∧
          s.keepsContexts t (hContext H) ∧ t.mem = s.mem ∧ t.tallies = s.tallies)

/-- R334, R335: an admitted COLL operation is the last of its group's queue, with the group's next number and the operation of its row. -/
def Obligations.CollectivesQueueInTheirGroup : Prop :=
  ∀ (s : State) (i host : Nat) (h : Word512) (payload : List Byte) (op : Nat) (r : Instr) (g : Nat) (k : Cmd), s.awake → s.untraced →
    (op, r) ∈ [(0, Instr.allreduce i h payload), (1, .reduce i h payload), (2, .allgather i h payload), (3, .broadcast i h payload)] →
    s.admits i host (withOp h 7) (withCollOp payload op) → k = s.fetched i host (withOp h 7) (withCollOp payload op) → 64 ≤ payload.length → 64 ≤ hPayloadBytes (withOp h 7) →
    g = fld (withOp h 7) 271 256 →
      Runs r s fun t => s.taken i k t ∧ (t.group g).issued = (s.group g).issued + 1 ∧ (collOf s.nextUid k.payload).op = op ∧
        (t.group g).queue = (s.group g).queue ++ [{ collOf s.nextUid k.payload with number := (s.group g).issued }] ∧
        (∀ j, j ≠ g → t.group j = s.group j) ∧ t.mem = s.mem ∧ t.ctxs = s.ctxs

/-- R352, R356: an admitted BIAS_SET arms its table, ApplyStep and the next epoch number for its plan's layer, and is ready with status OK. R451: PARK sets its context's wake tolerance and is ready with status OK; a context not resident is otherwise as it was. -/
def Obligations.BiasSetArmsAndParkSetsTheTolerance : Prop :=
  ∀ (s : State) (i host : Nat) (h : Word512) (payload : List Byte) (H : Word512) (k : Cmd), s.awake → s.untraced →
    s.admits i host H payload → k = s.fetched i host H payload →
    (H = withOp h 8 → Runs (.biasSet i h payload) s fun t =>
      (t.layerState (fld H 271 256) (fld H 279 272)).pendBias = some ((List.range (k.payload.length / 2)).map fun j => leAt k.payload (2 * j) 2) ∧
      (t.layerState (fld H 271 256) (fld H 279 272)).pendStep = fld H 311 280 ∧
      (∃ k', t.cmd s.nextUid = some k' ∧ k'.ready = true ∧ k'.status = 0) ∧ t.mem = s.mem ∧ s.keepsContexts t (hContext H)) ∧
    (∀ c, H = withOp h 0xA → s.ctx (hContext H) = some c → c.residency ≠ 1 → Runs (.park i h payload) s fun t =>
      (∃ c', t.ctx (hContext H) = some c' ∧
        c' = { c with wakeTol := fld H 287 256, deadlineMisses := c'.deadlineMisses, resetting := c'.resetting }) ∧ (∃ k', t.cmd s.nextUid = some k' ∧ k'.ready = true ∧ k'.status = 0) ∧
      s.keepsContexts t (hContext H) ∧ t.mem = s.mem)

/-- R222, R223, R418: an RLD whose target node is this node reads the bytes through this node's own window as its result; an RST stores its payload's bytes there and nothing else; each is ready with status OK. R220, R221, R418: an atomic command whose target node is this node gives the old 64-bit word as its result and leaves the word that its operation gives; PROBE writes nothing; each is ready with status OK. -/
def Obligations.TransfersAndAtomicsOnThisNode : Prop :=
  (∀ (s : State) (i host : Nat) (h : Word512) (payload : List Byte) (H : Word512) (k : Cmd) (w a : Nat), s.awake → s.untraced →
    s.admits i host H payload → k = s.fetched i host H payload → hNode H = s.nodeId → s.nodeId ≠ 0 →
    (H = withOp h 0x10 → s.xltRemote (hWindow H) s.nodeId 4 (hOffset H) (hLength H) = some (w, a) → s.memBad a (hLength H) = 0 →
      Runs (.rld i h payload) s fun t => (∃ k', t.cmd s.nextUid = some k' ∧ k'.ready = true ∧ k'.status = 0 ∧ k'.resultBytes = k.resultBytes ∧
        ∀ j, j < hLength H → Tab.get 0 k'.result j = s.memByte (a + j)) ∧ t.mem = s.mem ∧ s.keepsContexts t (hContext H)) ∧
    (H = withOp h 0x11 → hLength H ≤ k.payload.length → s.xltRemote (hWindow H) s.nodeId 8 (hOffset H) (hLength H) = some (w, a) →
      s.memBad a (hLength H) = 0 →
      Runs (.rst i h payload) s fun t => (∃ k', t.cmd s.nextUid = some k' ∧ k'.ready = true ∧ k'.status = 0) ∧
        onlyBytes s.mem t.mem a (k.payload.take (hLength H)) ∧ s.keepsContexts t (hContext H))) ∧
  (∀ (s : State) (i host : Nat) (h : Word512) (payload : List Byte) (H : Word512) (k : Cmd) (w a m x y : Nat), s.awake → s.untraced →
    (∀ e ∈ [(0, Instr.load i h payload, m), (1, .fetchAdd i h payload, (m + x) % 2 ^ 64), (2, .fetchAnd i h payload, m &&& x),
            (3, .fetchOr i h payload, m ||| x), (4, .fetchXor i h payload, m ^^^ x), (5, .swap i h payload, x),
            (6, .compareSwap i h payload, if m = x then y else m), (7, .fetchMaxU i h payload, max m x), (8, .fetchMinU i h payload, min m x)],
      H = withField (withOp h 0x12) 343 340 e.1 → s.admits i host H payload → k = s.fetched i host H payload → hNode H = s.nodeId → s.nodeId ≠ 0 →
      (e.1 = 0 ∨ hLength H ≤ k.payload.length) → s.xltRemote (hWindow H) s.nodeId (if e.1 = 0 then 4 else 16) (hOffset H) 8 = some (w, a) → s.memBad a 8 = 0 →
      m = leNat (s.memRead a 8) → x = leAt k.payload 0 8 → y = leAt k.payload 8 8 →
        Runs e.2.1 s fun t => (∃ k', t.cmd s.nextUid = some k' ∧ k'.ready = true ∧ k'.status = 0 ∧
          ∀ j, j < 8 → Tab.get 0 k'.result j = (leBytes 8 m).getD j 0) ∧
          onlyBytes s.mem t.mem a (leBytes 8 e.2.2) ∧ s.keepsContexts t (hContext H)) ∧
    (H = withField (withOp h 0x12) 343 340 15 → s.admits i host H payload → k = s.fetched i host H payload → hNode H = s.nodeId → s.nodeId ≠ 0 →
      4 ≤ k.payload.length → s.xltRemote (hWindow H) s.nodeId 4 (hOffset H) (leAt k.payload 0 4) = some (w, a) →
        Runs (.probe i h payload) s fun t => (∃ k', t.cmd s.nextUid = some k' ∧ k'.ready = true ∧ k'.status = 0) ∧ t.mem = s.mem ∧
          s.keepsContexts t (hContext H)))

/-- R72, R75: COMMAND_FETCH reads the next command's header and payload from its ring's slots in memory; an admitted RUN or DISPATCH among them stands in flight, last in its ring's order. -/
def Obligations.CommandFetchReadsTheRing : Prop :=
  ∀ (s : State) (i host : Nat) (H : Word512) (payload : List Byte) (c : Ctx), s.awake → s.sound → s.untraced → hOp H = 1 ∨ hOp H = 2 →
    s.admits i host H payload → s.ringHolds i host (s.ring i).submitHead 64 (leBytes 64 H.toNat) →
    s.ringHolds i host ((s.ring i).submitHead + 1) (hPayloadBytes H) payload →
    (∀ p ∈ s.cmds, hOp p.2.header = 9 → p.2.ready = true) → s.ctx (hContext H) = some c → s.running c.seq = none →
      Runs (.commandFetch i) s fun t => s.taken i (s.fetched i host H payload) t ∧ t.nextUid = s.nextUid + 1 ∧
        t.ctx (hContext H) = some (if c.state = 1 ∧ c.cmd = none then { c with state := 2, readyTick := s.tick } else c) ∧
        s.keepsContexts t (hContext H) ∧ (∀ u, u ≠ s.nextUid → t.cmd u = s.cmd u) ∧ t.mem = s.mem ∧ t.tallies = s.tallies

/-- R88, R89, R91, R82: COMPLETION_POST takes the oldest command of a ring, which is ready: its 32-byte record is stored at the ring's completion tail, and the tail goes on; the command is gone, its DoneTally is increased by 1. R88: the completion record holds the opcode, the status, the context, the command's identifier, the tick at which it became ready, its heat and the phase, each in its field. -/
def Obligations.CompletionPostWritesTheFields : Prop :=
  (∀ (s : State) (i u : Nat) (rest : List Nat) (k : Cmd) (tail : Nat), s.awake → s.sound → s.untraced → s.works 0 = true →
    (s.ring i).rob = u :: rest → s.cmd u = some k → k.ready = true → (s.ring i).state ≠ 3 → (s.ring i).closing = false → k.resultNow = 0 →
    tail = (s.ring i).complTail → s.storable k.host (s.rd Reg.completionBase i + tail % s.complSlots i * 32) 32 →
    hNotify k.header = false → s.tallyFlip = [] → s.tallyBad = [] →
      Runs (.completionPost i) s fun t =>
        s.storesAt k.host (s.rd Reg.completionBase i + tail % s.complSlots i * 32) (leBytes 32 ({ k with slot := tail }.record (1 - tail / s.complSlots i % 2))) t ∧
        t.cmd u = none ∧ (t.ring i).rob = rest ∧ (t.ring i).complTail = (tail + 1) % 2 ^ 32 ∧
        t.rd Reg.completionsPosted i = (s.rd Reg.completionsPosted i + 1) % 2 ^ 64 ∧
        (∀ T, t.tally T = if (hDoneTallyEnable k.header && !k.denied && !isRefusal k.status && s.tallyOwned k.host (hDoneTally k.header)) = true ∧
          T = hDoneTally k.header then (s.tally T + 1) % 2 ^ 48 else s.tally T) ∧ t.ctxs = s.ctxs) ∧
  (∀ (k : Cmd) (phase : Nat), phase ≤ 1 → k.status < 2 ^ 8 → k.ctx < 2 ^ 16 → k.readyTick < 2 ^ 48 → k.heat < 2 ^ 16 → k.modes < 2 ^ 16 → k.resultNow < 2 ^ 32 →
    bits (k.record phase) 7 0 = hOp k.header ∧ bits (k.record phase) 15 8 = k.status ∧ bits (k.record phase) 31 16 = k.ctx ∧
      bits (k.record phase) 63 32 = hCommandId k.header ∧ bits (k.record phase) 95 64 = k.resultNow ∧ bits (k.record phase) 111 96 = min k.numExc 0xFFFF ∧
      bits (k.record phase) 175 128 = k.readyTick ∧ bits (k.record phase) 191 176 = k.heat ∧ bit (k.record phase) 255 = decide (phase = 1))

/-- R163, R173, R363, R364: a load's GO write marks its host's load as reading, and its object as Loading where the object was not there; an unload write marks the object as unloading, and no other object changes. R233: TableLoadGo makes a version Loading; ActiveVersion makes the named version Active and the one before it Draining; a freed version is Empty, with no CRC loaded. -/
def Obligations.PlanPatternAndTableWrites : Prop :=
  (∀ (s : State) (p h id : Nat), s.awake → (∀ k ∈ s.cmds, k.2.admitting = false) →
    s.writeRuns p (.planLoadGo p h id) Reg.planLoadGo h id [(Reg.planLoadStatus, h)] (fun t => t.rd Reg.planLoadStatus h = 1 ∧
      Tab.find t.planLoads h = some { planId := id, stage := 1 } ∧ t.plan id = some ((s.plan id).getD (emptyPlan h)) ∧
      (∀ j, j ≠ id → t.plan j = s.plan j) ∧
      t = { s with planLoads := t.planLoads, plans := t.plans, objs := t.objs, quietSince := t.quietSince, krdInt := t.krdInt }) ∧
    s.writeRuns p (.patternLoadGo p h id) Reg.patternLoadGo h id [(Reg.patternLoadStatus, h)] (fun t => t.rd Reg.patternLoadStatus h = 1 ∧
      Tab.find t.patLoads h = some id ∧ Tab.find t.patterns id = some ((Tab.find s.patterns id).getD (emptyPattern h)) ∧
      (∀ j, j ≠ id → Tab.find t.patterns j = Tab.find s.patterns j) ∧
      t = { s with patLoads := t.patLoads, patterns := t.patterns, objs := t.objs, quietSince := t.quietSince, krdInt := t.krdInt }) ∧
    s.writeRuns p (.planUnload p h id) Reg.planUnload h id [] (fun t => t.plan id = (s.plan id).map (fun q => { q with state := 3 }) ∧
      (∀ j, j ≠ id → t.plan j = s.plan j) ∧ t = { s with plans := t.plans, objs := t.objs, quietSince := t.quietSince, krdInt := t.krdInt }) ∧
    s.writeRuns p (.patternUnload p h id) Reg.patternUnload h id [] (fun t =>
      Tab.find t.patterns id = (Tab.find s.patterns id).map (fun q => { q with state := 3 }) ∧
      (∀ j, j ≠ id → Tab.find t.patterns j = Tab.find s.patterns j) ∧
      t = { s with patterns := t.patterns, objs := t.objs, quietSince := t.quietSince, krdInt := t.krdInt })) ∧
  (∀ (s : State) (p v old : Nat), s.awake → v < 2 → old = s.rd Reg.activeVersion 0 →
    s.writeRuns p (.tableLoadGo p v) Reg.tableLoadGo v 1 [(Reg.versionState, v)] (fun t => t.rd Reg.versionState v = 1 ∧ s.onlyObjects t) ∧
    s.writeRuns p (.activeVersion p v) Reg.activeVersion 0 v [(Reg.versionState, v), (Reg.versionState, old), (Reg.activeVersion, 0)]
      (fun t => t.rd Reg.activeVersion 0 = v ∧ t.rd Reg.versionState v = 3 ∧ (old < 2 → old ≠ v → t.rd Reg.versionState old = 4) ∧ s.onlyObjects t) ∧
    s.writeRuns p (.versionFree p v) Reg.versionState v 0 [(Reg.versionState, v), (Reg.tableCrcLoaded, v)]
      (fun t => t.rd Reg.versionState v = 0 ∧ t.rd Reg.tableCrcLoaded v = 0 ∧ Tab.find t.versions v = none ∧
        t = { s with versions := t.versions, objs := t.objs, quietSince := t.quietSince, krdInt := t.krdInt }))

/-- R69, R70: RingEnable 1 on a disabled ring gives it indices of zero and State 1, with no completion posted; RingEnable 0 closes an enabled ring that has not halted: an empty ring is disabled (State 0), one with commands in flight runs out. -/
def Obligations.RingEnableOpensAndClosesARing : Prop :=
  ∀ (s : State) (p i : Nat), s.awake →
    (s.rb Reg.ringEnable i = false → s.writeRuns p (.ringEnable p i) Reg.ringEnable i 1 [(Reg.ringEnable, i), (Reg.completionsPosted, i)]
      (fun t => t.rd Reg.ringEnable i = 1 ∧ t.rd Reg.completionsPosted i = 0 ∧ t.ring i = { state := 1 } ∧ (∀ j, j ≠ i → t.ring j = s.ring j) ∧
        t = { s with rings := t.rings, objs := t.objs, quietSince := t.quietSince, krdInt := t.krdInt })) ∧
    (s.rb Reg.ringEnable i = true → (s.ring i).state ≠ 3 → (∀ u k, s.cmd u = some k → k.ready = true ∨ hOp k.header ≠ 6) →
      s.writeRuns p (.ringDisable p i) Reg.ringEnable i 0 [(Reg.ringEnable, i)] (fun t => t.rd Reg.ringEnable i = 0 ∧
        t.ring i = { s.ring i with complWait := false, closing := !(s.ring i).rob.isEmpty, state := if (s.ring i).rob.isEmpty then 0 else (s.ring i).state } ∧
        (∀ j, j ≠ i → t.ring j = s.ring j) ∧ t = { s with rings := t.rings, objs := t.objs, quietSince := t.quietSince, krdInt := t.krdInt }))

/-- R268, R333, R349, R413, R424, R425: the other enables take their written value, with what the spec says begins with it: a port's lane drivers, a group's reading of its member list (GroupStatus 1), a balance group In (BalanceState 1); nothing else of the machine changes. -/
def Obligations.EnableWritesTakeTheirValue : Prop :=
  ∀ (s : State) (p i v : Nat), s.awake →
    (s.rb Reg.portEnable i = false → s.writeRuns p (.portEnable p i) Reg.portEnable i 1 [(Reg.portEnable, i)] (fun t => t.rd Reg.portEnable i = 1 ∧
      t.out = .pin 1 (2 * i + 1) (if s.rd Reg.portMode i = 2 then 0 else 1) :: .pin 1 (2 * i) 1 :: s.out ∧
      t = { s with out := t.out, objs := t.objs, quietSince := t.quietSince, krdInt := t.krdInt })) ∧
    (s.rb Reg.portEnable i = true → s.portUp i = false → s.writeRuns p (.portDisable p i) Reg.portEnable i 0 [(Reg.portEnable, i)] (fun t =>
      t.rd Reg.portEnable i = 0 ∧ t.out = .pin 1 (2 * i + 1) 0 :: .pin 1 (2 * i) 0 :: s.out ∧
      t = { s with out := t.out, ports := t.ports, objs := t.objs, quietSince := t.quietSince, krdInt := t.krdInt })) ∧
    (s.rb Reg.groupEnable i = false → s.writeRuns p (.groupEnable p i) Reg.groupEnable i 1 [(Reg.groupEnable, i), (Reg.groupStatus, i)]
      (fun t => t.rd Reg.groupEnable i = 1 ∧ t.rd Reg.groupStatus i = 1 ∧ s.onlyObjects t)) ∧
    (s.rb Reg.balanceEnable i = false → s.writeRuns p (.balanceEnable p i) Reg.balanceEnable i 1
      [(Reg.balanceEnable, i), (Reg.balanceState, i), (Reg.epochInForce, i), (Reg.pendingApplyStep, i)]
      (fun t => t.rd Reg.balanceEnable i = 1 ∧ t.rd Reg.balanceState i = 1 ∧ t.rd Reg.pendingApplyStep i = 0 ∧
        t = { s with balances := t.balances, objs := t.objs, quietSince := t.quietSince, krdInt := t.krdInt })) ∧
    s.writeRuns p (.winEnable p i) Reg.winEnable i 1 [(Reg.winEnable, i)] (fun t => t.rd Reg.winEnable i = 1 ∧ s.onlyObjects t) ∧
    s.writeRuns p (.winDisable p i) Reg.winEnable i 0 [(Reg.winEnable, i)] (fun t => t.rd Reg.winEnable i = 0 ∧ s.onlyObjects t) ∧
    s.writeRuns p (.hostEnable p i v) Reg.hostEnable i v [(Reg.hostEnable, i)] (fun t => t.rd Reg.hostEnable i = v ∧ s.onlyObjects t)

/-- R157, R162, R263, R270, R351, R355, R356, R419, R421: the other writes of hosts and of board management have the effect their rule states: a link event cleared, a session watched with its counters at 0, a mask armed for its step, a member Rejoining, a layer's loads taken into its snapshot, an owner table's cached entries dropped, a check run begun on a window that resolves, a survey's probes queued in the order of port, then hop limit. -/
def Obligations.ActionWritesHaveTheirEffect : Prop :=
  ∀ (s : State) (p i v : Nat), s.awake →
    s.writeRuns p (.linkEventClear p) Reg.linkEventClear 0 1 [(Reg.linkEventPending, 0)] (fun t => t.rd Reg.linkEventPending 0 = 0 ∧ s.onlyObjects t) ∧
    s.writeRuns p (.watchSession p i v) Reg.watchSession i v [(Reg.watchSession, i), (Reg.watchSkims, i), (Reg.watchSkips, i), (Reg.watchFallbackRows, i)]
      (fun t => t.rd Reg.watchSession i = v ∧ t.rd Reg.watchSkims i = 0 ∧ t.rd Reg.watchSkips i = 0 ∧ t.rd Reg.watchFallbackRows i = 0 ∧ s.onlyObjects t) ∧
    s.writeRuns p (.maskApplyStep p i v) Reg.maskApplyStep i v [] (fun t =>
      t.maskState i = { s.maskState i with applyStep := v, armed := true } ∧ (∀ j, j ≠ i → t.maskState j = s.maskState j) ∧
      t = { s with masks := t.masks, objs := t.objs, quietSince := t.quietSince, krdInt := t.krdInt }) ∧
    (s.rd Reg.balanceState i = 2 → s.writeRuns p (.rejoin p i) Reg.rejoin i 1 [(Reg.balanceState, i)]
      (fun t => t.rd Reg.balanceState i = 3 ∧ s.onlyObjects t)) ∧
    s.writeRuns p (.snapshotGo p) Reg.snapshotGo 0 1 [] (fun t => ∃ q l, q = s.query Reg.queryPlan p ∧ l = s.query Reg.queryLayer p ∧
      t.layerState q l = { s.layerState q l with load := [], snapshot := (s.layerState q l).loads (s.layerE q l) } ∧
      (∀ q' l', layerKey q' l' ≠ layerKey q l → t.layerState q' l' = s.layerState q' l') ∧
      t = { s with layerStates := t.layerStates, objs := t.objs, quietSince := t.quietSince, krdInt := t.krdInt }) ∧
    s.writeRuns p (.ownerFlush p i) Reg.ownerFlush i 1 [] (fun t => t.owners = s.owners.filter (fun e => e.1 / 2 ^ 16 != i) ∧
      t = { s with owners := t.owners, objs := t.objs, quietSince := t.quietSince, krdInt := t.krdInt }) ∧
    ((s.xlt (i / 8) (s.rd Reg.checkAddr i) (s.rd Reg.checkBytes i) false).isSome = true →
      s.writeRuns p (.checkGo p i) Reg.checkGo i 1 [(Reg.checkStatus, i)] (fun t => t.rd Reg.checkStatus i = 1 ∧ s.onlyObjects t)) ∧
    s.writeRuns p (.surveyGo p) Reg.surveyGo 0 1 [(Reg.surveyState, 0), (Reg.surveyRecords, 0)] (fun t => t.rd Reg.surveyState 0 = 1 ∧
      t.rd Reg.surveyRecords 0 = 0 ∧ t.surveyTick = s.tick ∧
      t.probesSent = ((List.range (s.rd Reg.surveyPortCount 0)).map (· + s.rd Reg.surveyPortFirst 0)).flatMap
        (fun u => ((List.range (s.rd Reg.surveyHops 0)).map (· + 1)).map fun l => (u, l)) ∧
      (∃ l, t.control = s.control ++ l ∧ l.map (·.udpSrc) = t.probesSent.map some ∧ ∀ r ∈ l, r.frame.op = 0x20 ∧ r.frame.dst = s.rd Reg.surveyNode 0 ∧
        r.route = some { port := s.rd Reg.surveyPort 0, path := 0 }) ∧
      t = { s with probesSent := t.probesSent, surveyTick := t.surveyTick, control := t.control, queueSeq := t.queueSeq, objs := t.objs
                   quietSince := t.quietSince, krdInt := t.krdInt })

/-- R385: the write of ExcAction makes the stopped context run on at its faulting word (1) or at the word after it (2), its watchdog having stood still, or kills it (3); the exception's slot is acknowledged, and the sequencer has stopped nothing any more. R430, R431, R457, R548: ContextDefine makes a context Idle at heat 0 with the step, pattern, ring and host of its definition; ContextUndefine removes it; ContextReset cancels it and zeroes the programmer's state; AccountingClear and HostAccountingClear zero the sums of a context and of a host. No other context changes. -/
def Obligations.ExceptionAndContextWrites : Prop :=
  (∀ (s : State) (p n : Nat) (e : ExcRec) (c : Ctx), s.awake → s.unbalanced → Tab.find s.excs n = some e → s.ctx e.ctx = some c →
    (∀ r a pc, (r, a, pc) ∈ [(Instr.excResume p n, 1, e.pc), (.excSkip p n, 2, e.pc + 1)] → (a = 2 → ((s.resumeAt n e pc).issueOf n).isSome = true) →
      s.writeRuns p r Reg.excAction n a [] (fun t => t.ctx e.ctx = some { c with state := 3, pc := pc, runTick := tickAdd c.runTick (s.since e.tick) } ∧
        s.keepsContexts t e.ctx ∧ Tab.find t.excs n = none ∧ t.exceptionArmed e.ctx = false ∧
        t = { s with ctxs := t.ctxs, excs := t.excs, units := t.units, objs := t.objs, quietSince := t.quietSince, krdInt := t.krdInt })) ∧
    (s.writable p Reg.excAction n 3 → Runs (.excKill p n) s fun t => (∃ d, t.ctx e.ctx = some d ∧ d.state = 7 ∧ d.heat = c.heat) ∧
      t.exceptionArmed e.ctx = false ∧ t.tallies = s.tallies ∧ s.keepsFamilies t [Reg.hostKills, Reg.hostDeadlineMisses, Reg.aapOps])) ∧
  (∀ (s : State) (p x : Nat), s.awake → s.sound →
    (∀ h, s.contextHost x = some h → s.writable p Reg.contextDefine x 1 →
      Runs (.contextDefine p x) s fun t => (∃ c, t.ctx x = some c ∧ c.heat = 0 ∧ c.state = 1 ∧ c.step = s.rd Reg.initialStep x ∧
        c.pattern = s.rd Reg.dispatchPattern x ∧ c.homeRing = s.rd Reg.homeRing x % 2 ^ 10 ∧ c.host = h ∧ c.cmd = none ∧ (∀ r, c.greg r = 0) ∧
        c.wakeTol = s.rd Reg.defaultWakeTolerance h) ∧ s.keepsContexts t x ∧ t.tallies = s.tallies ∧ t.cmds = s.cmds) ∧
    s.writeRuns p (.contextUndefine p x) Reg.contextUndefine x 1 [] (fun t => t.ctx x = none ∧ s.keepsContexts t x ∧
      t = { s with ctxs := t.ctxs, subs := t.subs, objs := t.objs, quietSince := t.quietSince, krdInt := t.krdInt }) ∧
    (∀ c, s.ctx x = some c → s.unbalanced → s.writable p Reg.contextReset x 1 → Runs (.contextReset p x) s fun t =>
      (∃ d, t.ctx x = some d ∧ d.state = 1 ∧ d.heat = (c.heat + 1) % 2 ^ 16 ∧ (∀ r, d.greg r = 0) ∧ d.preds = 0 ∧ d.stack = [] ∧ d.effectCount = 0 ∧
        d.effectCrc = 0 ∧ d.abortCount = 0 ∧ d.replayPending = false ∧ d.restTick = s.tick) ∧ t.tallies = s.tallies ∧
      s.keepsFamilies t [Reg.hostKills, Reg.hostDeadlineMisses, Reg.aapOps]) ∧
    (∀ c, s.ctx x = some c → s.writeRuns p (.accountingClear p x) Reg.accountingClear x 1 [] (fun t =>
      t.ctx x = some { c with waitTicks := 0, runCycles := 0, commandsDone := 0, takes := 0, aborts := 0, swapIns := 0, deadlineMisses := 0, fallbacks := 0 } ∧
      s.keepsContexts t x ∧ t = { s with ctxs := t.ctxs, objs := t.objs, quietSince := t.quietSince, krdInt := t.krdInt })) ∧
    s.writeRuns p (.hostAccountingClear p x) Reg.hostAccountingClear x 1 [(Reg.hostWaitTicks, x), (Reg.hostRunCycles, x), (Reg.hostTakesSuffered, x),
      (Reg.hostAbortsSuffered, x), (Reg.hostSwapIns, x), (Reg.hostDeadlineMisses, x)] (fun t => t.rd Reg.hostWaitTicks x = 0 ∧ t.rd Reg.hostRunCycles x = 0 ∧
        t.rd Reg.hostTakesSuffered x = 0 ∧ t.rd Reg.hostAbortsSuffered x = 0 ∧ t.rd Reg.hostSwapIns x = 0 ∧ t.rd Reg.hostDeadlineMisses x = 0 ∧ s.onlyObjects t))

/-- R461 to R464, R468, R470, R479: the fault objects' writes: FaultClear clears the status bits of its mask, FirstErrorRearm frees the capture, and the pin follows, HistoryDrain empties the queue, an acknowledged slot is free, FatalStopNow brings the stop at once, a promotion setting closes its source's window, InjectGo arms one injection. -/
def Obligations.FaultWritesClearAcknowledgeAndArm : Prop :=
  ∀ (s : State) (p u v : Nat) (w : Bool), s.awake →
    s.writeRuns p (.faultClear p u v) Reg.faultClear u v [(Reg.faultStatus, u)] (fun t => t.rd Reg.faultStatus u = andNot (s.rd Reg.faultStatus u) v ∧ s.onlyObjects t) ∧
    (∀ r o, (r, o) ∈ [(Instr.firstErrorRearm p u, Reg.firstErrorRearm), (.historyDrain p u, Reg.historyDrain)] →
      s.writeRuns p r o u 1 [] (fun t =>
        t.unitFaults u = (if o = Reg.firstErrorRearm then { s.unitFaults u with first := none } else { s.unitFaults u with history := [] }) ∧
        (∀ j, j ≠ u → t.unitFaults j = s.unitFaults j) ∧ t.told ∧
        t = { s with units := t.units, objs := t.objs, quietSince := t.quietSince, krdInt := t.krdInt })) ∧
    (∀ r o i k n, (r, o, i, k, n) ∈ [(Instr.faultAck p u v, Reg.faultAck, u, u, v), (.hostFaultAck p u v, Reg.hostFaultAck, u, v / 2 ^ 8 % 2 ^ 5, v % 2 ^ 3)] →
      s.writeRuns p r o i v [] (fun t => t.unitFaults k = { s.unitFaults k with slots := Tab.drop (s.unitFaults k).slots n } ∧
        (∀ j, j ≠ k → t.unitFaults j = s.unitFaults j) ∧ t = { s with units := t.units, objs := t.objs, quietSince := t.quietSince, krdInt := t.krdInt })) ∧
    (s.rd Reg.fatalState 0 = 1 → s.writeRuns p (.fatalStopNow p) Reg.fatalStopNow 0 1 [] (fun t => t.stopDeadline = some s.tick ∧
      t = { s with stopDeadline := t.stopDeadline, objs := t.objs, quietSince := t.quietSince, krdInt := t.krdInt })) ∧
    (let o := if w then Reg.promoteWindowTicks else Reg.promoteCount
     s.writeRuns p (.promoteCount p w u v) o u v [(o, u)] (fun t => t.rd (if w then promoteWindowOf u else promoteCountOf u) u = v ∧ Tab.find t.promo u = none ∧
      t = { s with promo := t.promo, objs := t.objs, quietSince := t.quietSince, krdInt := t.krdInt })) ∧
    s.writeRuns p (.injectGo p) Reg.injectGo 0 1 [(Reg.injectState, 0)] (fun t => t.rd Reg.injectState 0 = 1 ∧
      t.inject = some ⟨s.rd Reg.injectSource 0, s.rd Reg.injectWord 0, s.rd Reg.injectCheckMask 0⟩ ∧
      t = { s with inject := t.inject, objs := t.objs, quietSince := t.quietSince, krdInt := t.krdInt })

/-- R519, R534: a key slot loaded holds its key, its bit of KeyState is set, its replay state begins anew, and the subscriptions made under it end; KeyRevoke clears the slots of its mask in the same way. -/
def Obligations.KeyWritesLoadAndRevoke : Prop :=
  ∀ (s : State) (p x v n : Nat) (second : Bool) (o : Obj), s.awake → n = (if second then 1 else 0) → o = (if second then Reg.keySlot1 else Reg.keySlot0) →
    s.writeRuns p (.keySlot p second x v) o x v [(o, x), (Reg.keyState, x)] (fun t => t.rd o x = v ∧
      t.rd Reg.keyState x = setBit (s.rd Reg.keyState x) n ∧ Tab.find t.replays (2 * x + n) = none ∧
      t.subs = s.subs.filter (fun e => !(e.2.owner == x && e.2.keyId == n)) ∧
      t = { s with replays := t.replays, subs := t.subs, objs := t.objs, quietSince := t.quietSince, krdInt := t.krdInt }) ∧
    s.writeRuns p (.keyRevoke p x v) Reg.keyRevoke x v [(Reg.keySlot0, x), (Reg.keySlot1, x), (Reg.keyState, x)] (fun t =>
      (∀ j, j < 2 → bit (t.rd Reg.keyState x) j = (bit (s.rd Reg.keyState x) j && !bit v j)) ∧
      t.rd Reg.keySlot0 x = (if bit v 0 then 0 else s.rd Reg.keySlot0 x) ∧ t.rd Reg.keySlot1 x = (if bit v 1 then 0 else s.rd Reg.keySlot1 x) ∧
      (∀ e, e ∈ t.subs ↔ e ∈ s.subs ∧ ¬ (e.2.owner = x ∧ ((bit v 0 = true ∧ e.2.keyId = 0) ∨ (bit v 1 = true ∧ e.2.keyId = 1)))) ∧
      t = { s with subs := t.subs, objs := t.objs, quietSince := t.quietSince, krdInt := t.krdInt })

/-- R487, R490, R544, R551: WakeNow leaves an Active engine as it is; EngineRun starts every fitted unit, and an engine that waited for it is Running; a UnitHalt write halts nothing at once, and starts the units whose bits it clears. -/
def Obligations.PowerWritesRunAndHaltUnits : Prop :=
  ∀ (s : State) (p v : Nat), s.awake →
    s.writeRuns p (.wakeNow p) Reg.wakeNow 0 1 [] (fun t => s.onlyObjects t) ∧
    (s.rd Reg.bootState 0 ≠ 2 → s.writeRuns p (.engineRun p) Reg.engineRun 0 1 [(Reg.unitHalted, 0), (Reg.unitHalt, 0)]
      (fun t => t.rd Reg.unitHalted 0 = s.absentUnits ∧ t.rd Reg.unitHalt 0 = 0 ∧ s.onlyObjects t)) ∧
    s.writeRuns p (.unitHalt p v) Reg.unitHalt 0 v [(Reg.unitHalted, 0), (Reg.unitHalt, 0)] (fun t => t.rd Reg.unitHalt 0 = v ∧
      t.rd Reg.unitHalted 0 = (andNot (s.rd Reg.unitHalted 0) (andNot (s.rd Reg.unitHalt 0) v) ||| s.absentUnits) ∧ s.onlyObjects t)

/-- R509, R511: a write by address of an object that is a plain setting gives it its value; one that is refused, for whatever reason, changes nothing but AapOps. -/
def Obligations.AddressWritesSetOrRefuse : Prop :=
  ∀ (s : State) (p ix sub i len v : Nat) (o : Obj), s.awake → s.dictOpen p = true → v < 2 ^ (8 * len) →
    (o ∈ [Reg.submitBase, Reg.completionBase, Reg.notifyAddr, Reg.winId, Reg.winTarget, Reg.winLength, Reg.gain, Reg.stitchWaitTicks, Reg.escalationTicks] →
      ix = o.ix → sub = o.sub → len = o.len → s.writable p o i v →
        Runs (.dictionaryWrite p ix sub i len v) s fun t => t.rd o i = v ∧ s.keepsObjects t [(o, i), (Reg.aapOps, 0)] ∧ s.onlyObjects t) ∧
    ((s.writeObj p ix sub i len v).1 ≠ 0 →
        Runs (.dictionaryWrite p ix sub i len v) s fun t => t.rd Reg.aapOps 0 = (s.rd Reg.aapOps 0 + 1) % 2 ^ 64 ∧
          s.keepsObjects t [(Reg.aapOps, 0)] ∧ s.onlyObjects t)

/-- R363, R364: a pattern image read as img makes the pattern resident, its words as the image has them and its bytes in the plan cache, or the load is refused with the code of the failing check; an unloading pattern is freed once no command runs it, and stays until then. R164, R171, R173: a plan image read as img makes the plan resident, and the load goes on to its keys, or the load is refused with the code of the failing check; an unloading plan is freed once no command and no flask uses it, and stays until then. R102, R104, R105, R164: the keys of a plan's next layer read as img, all of their elements finite, are written with their norm table to the layer's region, and the layer is usable; after the last layer the load is done; keys that are not finite refuse the load and the plan unloads. -/
def Obligations.LoadsEndAndFreesHappen : Prop :=
  (∀ (s : State) (h id : Nat) (img : List Byte), s.awake → s.sound → s.works 1 = true →
    (Tab.find s.patLoads h = some id → s.hostHolds h (s.rd Reg.patternLoadAddr h) (s.rd Reg.patternLoadBytes h) img →
      (∀ p, s.patternCheckImage h id img = (0, some p) → Runs (.patternLoadDone h) s fun t =>
        t.rd Reg.patternLoadStatus h = 2 ∧ Tab.find t.patLoads h = none ∧ Tab.find t.patterns id = some p ∧
        (∀ j, j ≠ id → Tab.find t.patterns j = Tab.find s.patterns j) ∧ onlyBytes s.planCache t.planCache p.base img ∧
        s.keepsObjects t [(Reg.patternLoadStatus, h)] ∧
        t = { s with patLoads := t.patLoads, patterns := t.patterns, planCache := t.planCache, objs := t.objs, quietSince := t.quietSince, krdInt := t.krdInt }) ∧
      (∀ code, s.patternCheckImage h id img = (code, none) → Runs (.patternLoadDone h) s fun t =>
        t.rd Reg.patternLoadStatus h = code ∧ Tab.find t.patLoads h = none ∧
        Tab.find t.patterns id = (Tab.find s.patterns id).filter (fun p => !(p.state == 1 && p.host == h)) ∧
        (∀ j, j ≠ id → Tab.find t.patterns j = Tab.find s.patterns j) ∧ s.keepsObjects t [(Reg.patternLoadStatus, h)] ∧
        t = { s with patLoads := t.patLoads, patterns := t.patterns, subs := t.subs, objs := t.objs, quietSince := t.quietSince, krdInt := t.krdInt })) ∧
    (∀ p, Tab.find s.patterns id = some p → p.state = 3 →
      (¬ s.runsPattern id → Runs (.patternFree id) s fun t => Tab.find t.patterns id = none ∧
        (∀ j, j ≠ id → Tab.find t.patterns j = Tab.find s.patterns j) ∧
        t = { s with patterns := t.patterns, subs := t.subs, quietSince := t.quietSince, krdInt := t.krdInt }) ∧
      (s.runsPattern id → Runs (.patternFree id) s fun t => t = { s with quietSince := t.quietSince, krdInt := t.krdInt }))) ∧
  (∀ (s : State) (h id : Nat) (l : PlanLoad) (img : List Byte), s.awake → s.sound → s.works 1 = true →
    (Tab.find s.planLoads h = some l → l.stage = 1 → l.planId = id → s.hostHolds h (s.rd Reg.planLoadAddr h) (s.rd Reg.planLoadBytes h) img →
      (∀ p, s.planCheck h id img = (0, some p) → Runs (.planImageReadDone h) s fun t =>
        t.plan id = some p ∧ (∀ j, j ≠ id → t.plan j = s.plan j) ∧ Tab.find t.planLoads h = some { l with stage := 2 } ∧
        onlyBytes s.planCache t.planCache p.base img ∧
        (∀ n ly, p.layers[n]? = some ly → n < 256 → t.layerState id n = { regionBase := ly.regionBase, regionBytes := ly.regionBytes }) ∧ Tab.find t.masks id = none ∧
        t = { s with plans := t.plans, planLoads := t.planLoads, planCache := t.planCache, layerStates := t.layerStates, masks := t.masks
                     useNumbers := t.useNumbers, pourUses := t.pourUses, flasks := t.flasks, pathBuckets := t.pathBuckets
                     planBuckets := t.planBuckets, quietSince := t.quietSince, krdInt := t.krdInt }) ∧
      (∀ code, s.planCheck h id img = (code, none) → Runs (.planImageReadDone h) s fun t =>
        t.rd Reg.planLoadStatus h = code ∧ Tab.find t.planLoads h = none ∧
        t.plan id = (s.plan id).filter (fun p => !(p.state == 1 && p.host == h)) ∧ (∀ j, j ≠ id → t.plan j = s.plan j) ∧
        s.keepsObjects t [(Reg.planLoadStatus, h)] ∧
        t = { s with plans := t.plans, planLoads := t.planLoads, subs := t.subs, objs := t.objs, quietSince := t.quietSince, krdInt := t.krdInt })) ∧
    (∀ p, s.plan id = some p → p.state = 3 →
      (¬ s.usesPlan id → Runs (.planFree id) s fun t => t.plan id = none ∧ (∀ j, j ≠ id → t.plan j = s.plan j) ∧
        t = { s with plans := t.plans, subs := t.subs, layerStates := t.layerStates, masks := t.masks, useNumbers := t.useNumbers, pourUses := t.pourUses
                     flasks := t.flasks, pathBuckets := t.pathBuckets, planBuckets := t.planBuckets, quietSince := t.quietSince, krdInt := t.krdInt }) ∧
      (s.usesPlan id → Runs (.planFree id) s fun t => t = { s with quietSince := t.quietSince, krdInt := t.krdInt }))) ∧
  (∀ (s : State) (h : Nat) (l : PlanLoad) (p : Plan) (ly : Layer) (img : List Byte), s.awake → s.sound → s.works 1 = true → s.noneWaits →
    s.variant.scu = true → Tab.find s.planLoads h = some l → l.stage = 2 → s.plan l.planId = some p → p.layers[l.nextLayer]? = some ly →
    s.hostHolds h ly.keySource ly.keyBytes img →
    (ly.keysFinite img = true → Runs (.keyLoadDone h) s fun t =>
      onlyBytes s.gate t.gate ly.regionBase (ly.regionImage img) ∧
      t.layerState l.planId l.nextLayer = { s.layerState l.planId l.nextLayer with usable := true, keyCrc := crc32c img } ∧
      (if l.nextLayer + 1 < p.layers.length then
          Tab.find t.planLoads h = some { l with nextLayer := l.nextLayer + 1 } ∧ t.rd Reg.planLoadStatus h = s.rd Reg.planLoadStatus h
        else Tab.find t.planLoads h = none ∧ t.rd Reg.planLoadStatus h = 2) ∧ s.keepsObjects t [(Reg.planLoadStatus, h)] ∧
      t = { s with gate := t.gate, layerStates := t.layerStates, planLoads := t.planLoads, objs := t.objs, quietSince := t.quietSince, krdInt := t.krdInt }) ∧
    (ly.keysFinite img = false → Runs (.keyLoadDone h) s fun t =>
      t.plan l.planId = some { p with state := 3 } ∧ (∀ j, j ≠ l.planId → t.plan j = s.plan j) ∧ Tab.find t.planLoads h = none ∧
      t.rd Reg.planLoadStatus h = 0x1E ∧ s.keepsObjects t [(Reg.planLoadStatus, h)] ∧
      t = { s with plans := t.plans, planLoads := t.planLoads, objs := t.objs, quietSince := t.quietSince, krdInt := t.krdInt }))

/-- R233, R264, R333, R421, R422, R551: what the reads and waits that writes began leave when they end: a routing table Ready or refused, a group Ready with its members and rank or refused, a standalone check run's RunningValue and its compare, a survey Done, a unit with no work Halted. -/
def Obligations.ReadsAndWaitsEnd : Prop :=
  ∀ (s : State), s.awake → s.sound →
    (∀ (v : Nat), v < 2 → s.rd Reg.versionState v = 1 → s.works 6 = true → s.memBad (s.rd Reg.tableAddr v) (s.rd Reg.tableBytes v) = 0 →
      ∀ img, s.memRead (s.rd Reg.tableAddr v) (s.rd Reg.tableBytes v) = img →
        (∀ tb, s.tableCheck (s.rd Reg.tableBytes v) img = (0, some tb) → Runs (.tableLoadDone v) s fun t =>
          t.rd Reg.versionState v = 2 ∧ t.rd Reg.tableCrcLoaded v = leAt img 60 4 ∧ Tab.find t.versions v = some tb ∧
          s.keepsObjects t [(Reg.versionState, v), (Reg.tableCrcLoaded, v)] ∧ (∀ j, j ≠ v → Tab.find t.versions j = Tab.find s.versions j) ∧
          t = { s with versions := t.versions, objs := t.objs, quietSince := t.quietSince, krdInt := t.krdInt }) ∧
        (∀ code, s.tableCheck (s.rd Reg.tableBytes v) img = (code, none) → Runs (.tableLoadDone v) s fun t =>
          t.rd Reg.versionState v = code ∧ s.keepsObjects t [(Reg.versionState, v)] ∧ s.onlyObjects t)) ∧
    (∀ (g : Nat) (raw : List Byte) (ids : List Nat), s.rb Reg.groupEnable g = true → s.rd Reg.groupStatus g = 1 → s.works 11 = true →
      s.hostHolds (s.rd Reg.groupHost g) (s.rd Reg.memberListAddr g) (4 * s.rd Reg.memberCount g) raw →
      ids = (List.range (s.rd Reg.memberCount g)).map (fun i => leAt raw (4 * i) 4) →
      ((∀ n ∈ ids, assignable n = true) → ids.eraseDups.length = s.rd Reg.memberCount g →
        (∀ me bufs, ids.findIdx? (fun n => n == s.rd Reg.nodeId 0 % 2 ^ 20) = some me →
          (s.takeBuffers 11 3 (4 * s.rd Reg.collDepth g) []).1 = some bufs → Runs (.groupListReadDone g) s fun t =>
            t.rd Reg.groupStatus g = 2 ∧ t.rd Reg.myRank g = me ∧ t.rd Reg.collNumber g = 0 ∧ t.group g = { members := ids, bufs := bufs }) ∧
        (ids.findIdx? (fun n => n == s.rd Reg.nodeId 0 % 2 ^ 20) = none → Runs (.groupListReadDone g) s fun t =>
          t.rd Reg.groupStatus g = 0x12 ∧ s.keepsObjects t [(Reg.groupStatus, g)] ∧ s.onlyObjects t)) ∧
      (((∃ n ∈ ids, assignable n = false) ∨ ids.eraseDups.length ≠ s.rd Reg.memberCount g) → Runs (.groupListReadDone g) s fun t =>
          t.rd Reg.groupStatus g = 0x11 ∧ s.keepsObjects t [(Reg.groupStatus, g)] ∧ s.onlyObjects t)) ∧
    (∀ (i : Nat) (l : List Byte), s.rd Reg.checkStatus i = 1 → s.works 16 = true → s.rd Reg.checkSeedMode i = 0 →
      s.hostHolds (i / 8) (s.rd Reg.checkAddr i) (s.rd Reg.checkBytes i) l → ∀ f v, f = s.rd Reg.checkPoly i →
      v = checkFinish f (checkRun f (checkInit f) l) → Runs (.checkRunEnd i) s fun t =>
        t.rd Reg.runningValue i = v ∧ t.rd Reg.checkRuns 0 = (s.rd Reg.checkRuns 0 + 1) % 2 ^ 64 ∧
        t.rd Reg.checkStatus i = (if s.rb Reg.compareEnable i = false then 4 else if v = s.rd Reg.expected i % 2 ^ checkWidth f then 2 else 3) ∧
        t.rd Reg.checkMismatches 0 =
          (if s.rb Reg.compareEnable i = false ∨ v = s.rd Reg.expected i % 2 ^ checkWidth f then s.rd Reg.checkMismatches 0 else (s.rd Reg.checkMismatches 0 + 1) % 2 ^ 64) ∧
        s.keepsObjects t [(Reg.runningValue, i), (Reg.checkRuns, 0), (Reg.checkStatus, i), (Reg.checkMismatches, 0)] ∧
        t = { s with checkChans := t.checkChans, checkMismatch := t.checkMismatch, objs := t.objs, quietSince := t.quietSince, krdInt := t.krdInt }) ∧
    (s.rd Reg.surveyState 0 = 1 → s.probesDue = false → s.elapsed s.surveyTick (s.rd Reg.surveyWaitTicks 0) = true → Runs .surveyWaitExpiry s fun t =>
      t.rd Reg.surveyState 0 = 2 ∧ s.keepsObjects t [(Reg.surveyState, 0)] ∧ s.onlyObjects t) ∧
    (∀ (n : Nat), n < 20 → bit (s.rd Reg.unitHalt 0) n = true → bit (s.rd Reg.unitHalted 0) n = false → s.unitEmpty n = true → Runs (.unitHalted n) s fun t =>
      t.rd Reg.unitHalted 0 = setBit (s.rd Reg.unitHalted 0) n ∧ s.keepsObjects t [(Reg.unitHalted, 0)] ∧ s.onlyObjects t)

/-- R71 to R74, R291, R332, R393, R396, R492, R542, R543: a write or read of a page register by the host that owns its page, of the register's width: SubmitTail and CompletionHead take the index written, Mark takes the cursor, Rewind sets the cursor back, Release frees the tables below its value or is ignored and counted, Add adds to a tally of the host's, Watch chooses one, a Free of a buffer the host holds makes it free, Pop and Alloc return the next table and a buffer's handle, or wait; in Dormant the latch keeps a doorbell write. -/
def Obligations.PageAccessesActOnTheirRegister : Prop :=
  ∀ (s : State) (h v w i c o : Nat), s.booted = true → s.boundaries = [] → h < 16 → v < 2 ^ w →
    let base := 0x10000 * c + 0x200 * i
    let a : PageAccess := ⟨o, 16 + h, w, some v⟩
    let ring := 64 * c + i
    let q := s.groupQueue h
    (s.power = 0 → c < 16 → i < 64 → s.channelOwner c = some h → w = 32 →
      (o = base → ¬ ((s.ring ring).state = 1 ∧ s.submitSlots ring < ({ s.ring ring with submitTail := v } : Ring).written) → Runs (.submitTail a) s fun t =>
        t.ring ring = { s.ring ring with submitTail := v } ∧ (∀ j, j ≠ ring → t.ring j = s.ring j) ∧
        t = { s with rings := t.rings, quietSince := t.quietSince, krdInt := t.krdInt }) ∧
      (o = base + 8 → ¬ ((s.ring ring).state = 1 ∧ s.complSlots ring < ({ s.ring ring with complHead := v } : Ring).unread) → Runs (.completionHead a) s fun t =>
        t.ring ring = { s.ring ring with complHead := v } ∧ (∀ j, j ≠ ring → t.ring j = s.ring j) ∧
        t = { s with rings := t.rings, quietSince := t.quietSince, krdInt := t.krdInt })) ∧
    (s.power = 4 → c < 16 → i < 64 → s.channelOwner c = some h → w = 32 → o = base ∨ o = base + 8 → Runs (.doorbellLatch a) s fun t =>
        Tab.find t.doorLatch o = some v ∧ (∀ j, j ≠ o → Tab.find t.doorLatch j = Tab.find s.doorLatch j) ∧ t.rings = s.rings ∧ t.objs = s.objs ∧ t.mainReq = true) ∧
    (s.power = 0 → w = 32 →
      (o = 0x100000 + 0x1000 * h + 8 → Runs (.mark a) s fun t => t.groupQueue h = { q with mark := q.cursor } ∧
        (∀ j, j ≠ h → t.groupQueue j = s.groupQueue j) ∧ t = { s with groupQueues := t.groupQueues, quietSince := t.quietSince, krdInt := t.krdInt }) ∧
      (o = 0x100000 + 0x1000 * h + 0x10 → (∀ r ∈ s.heldReads, r.host ≠ h) → Runs (.rewind a) s fun t => t.groupQueue h = { q with cursor := q.mark } ∧
        (∀ j, j ≠ h → t.groupQueue j = s.groupQueue j) ∧ t = { s with groupQueues := t.groupQueues, quietSince := t.quietSince, krdInt := t.krdInt }) ∧
      (o = 0x100000 + 0x1000 * h + 0x18 → ∀ n, n = (v + 2 ^ 32 - q.released % 2 ^ 32) % 2 ^ 32 → Runs (.release a) s fun t =>
        if q.released + n ≤ q.mark then (t.groupQueue h).released = q.released + n ∧ (t.groupQueue h).cursor = q.cursor ∧ (t.groupQueue h).mark = q.mark ∧
          t = { s with groupQueues := t.groupQueues, quietSince := t.quietSince, krdInt := t.krdInt }
        else t.rd Reg.releaseIgnored 0 = (s.rd Reg.releaseIgnored 0 + 1) % 2 ^ 64 ∧ s.keepsObjects t [(Reg.releaseIgnored, 0)] ∧ s.onlyObjects t)) ∧
    (s.power = 0 → w = 64 → o = 0x110000 + 0x1000 * h → ∀ T, T = v % 2 ^ 17 →
      (s.tallyOwned h T = true → s.sound → s.fatal = false → s.tallyFlip = [] → s.tallyBad = [] → Runs (.tallyPageAdd a) s fun t =>
        t.tally T = (s.tally T + v / 2 ^ 17) % 2 ^ 48 ∧ (∀ u, u ≠ T → t.tally u = s.tally u) ∧ s.keepsObjects t [(Reg.tallyUpdates, 0)] ∧ t.mem = s.mem) ∧
      (s.tallyOwned h T = false → Runs (.tallyPageAdd a) s fun t => t.rd Reg.tallyRefused 0 = (s.rd Reg.tallyRefused 0 + 1) % 2 ^ 64 ∧
        s.keepsObjects t [(Reg.tallyRefused, 0)] ∧ s.onlyObjects t)) ∧
    (s.power = 0 → w = 32 → o = 0x110000 + 0x1000 * h + 8 → s.tallyOwned h (v % 2 ^ 17) = true → Runs (.watch a) s fun t =>
      Tab.find t.pageWatch h = some (v % 2 ^ 17 + 1) ∧ (∀ j, j ≠ h → Tab.find t.pageWatch j = Tab.find s.pageWatch j) ∧
      t = { s with pageWatch := t.pageWatch, quietSince := t.quietSince, krdInt := t.krdInt }) ∧
    (s.power = 0 → w = 64 →
      (o = 0x100000 + 0x1000 * h → (∀ r ∈ s.heldReads, r.host ≠ h) →
        (∀ tb, q.next = some tb → Runs (.pop ⟨o, 16 + h, w, none⟩) s fun t => t.out = .pageData o (16 + h) tb.addr :: s.out ∧
          t.groupQueue h = { q with cursor := q.cursor + 1 } ∧
          t = { s with out := t.out, groupQueues := t.groupQueues, quietSince := t.quietSince, krdInt := t.krdInt }) ∧
        (q.next = none → Runs (.pop ⟨o, 16 + h, w, none⟩) s fun t => t.heldReads = s.heldReads ++ [{ host := h, cls := 8, tick := s.tick }] ∧ t.out = s.out ∧
          t = { s with heldReads := t.heldReads, quietSince := t.quietSince, krdInt := t.krdInt })) ∧
      (∀ k, k < 6 → o = 0x120000 + 0x1000 * h + 8 * k → Runs (.alloc ⟨o, 16 + h, w, none⟩) s fun t =>
        match (s.request (0x20 + h) k).1 with
        | some x => t.out = .pageData o (16 + h) x :: s.out ∧ t.heldReads = s.heldReads
        | none => t.out = s.out ∧ t.heldReads = s.heldReads ++ [{ host := h, cls := k, tick := s.tick }] ∧
          t = { s with heldReads := t.heldReads, quietSince := t.quietSince, krdInt := t.krdInt }) ∧
      (o = 0x120000 + 0x1000 * h + 0x40 → s.heldReads = [] → ∀ k n, k = handleClass v → n = handleIndex v → k < 6 → bits v 44 20 = 0 → n < s.poolTotal k →
        (s.buf k n).gen = handleGen v → (s.buf k n).holder = some (0x20 + h) → Runs (.free a) s fun t =>
          Tab.get 0 t.freeStatus h = 0 ∧ (t.buf k n).holder = none ∧ (t.buf k n).gen = (if handleGen v = 0xFFFF then 1 else handleGen v + 1) ∧
          (∀ k' n', bufKey k' n' ≠ bufKey k n → t.buf k' n' = s.buf k' n')))

/-- R510, R511, R516, R517, R520, R523, R532, R534, R536: an authentic, fresh message of one op from UDP or MCTP is answered with a tagged response: READ gives an object's value, WRITE sets a plain setting, DESCRIBE its row, NEXT the next address, SUBSCRIBE begins an on-change subscription, UNSUBSCRIBE ends one; a malformed message is counted and has no other effect. R529: the four MCTP control requests are answered on their endpoint and tag, with the request's instance id; Set Endpoint ID takes the id, unless it is 0 or 0xFF. -/
def Obligations.MessagesAndMctpControlAreAnswered : Prop :=
  (∀ (s : State) (dest : AapDest) (l : List Byte) (h : AapHead) (o : AapOp), s.awake → s.booted = true → s.fatal = false →
    let p := h.principal
    let u := s.heard h
    let m := s.before dest ++ l
    (s.hears dest l h o →
      (o.code = 1 → ∀ b, u.lookup p o.ix o.sub o.inst = some b → b.ty ≠ 12 → b.ty ≠ 13 → o.off = 0 → b.len ≤ o.len →
        s.serves (.read dest m) dest h o [] fun a t => a = ⟨0, b.len, leBytes b.len (u.readNat p b o.inst)⟩ ∧ t.subs = s.subs) ∧
      (o.code = 2 → ∀ b v, b ∈ [Reg.submitBase, Reg.completionBase, Reg.notifyAddr, Reg.winId, Reg.winTarget, Reg.winLength, Reg.gain, Reg.stitchWaitTicks, Reg.escalationTicks] →
        o.ix = b.ix → o.sub = b.sub → o.off = 0 → o.len = b.len → v = leNat o.2 → u.writable p b o.inst v →
        s.serves (.write dest m) dest h o [(b, o.inst)] fun a t => a.status = 0 ∧ a.value = [] ∧ t.rd b o.inst = v ∧ t.subs = s.subs) ∧
      (o.code = 3 → ∀ b, u.lookup p o.ix o.sub o.inst = some b → b.ty ≤ 10 → 16 ≤ o.len →
        s.serves (.describe dest m) dest h o [] fun a t => a.status = 0 ∧ t.subs = s.subs ∧
          ∃ x, a.value = leBytes 1 b.ty ++ leBytes 1 b.acc ++ leBytes 1 (b2n b.keep) ++ leBytes 1 x ++ leBytes 4 b.len ++ leBytes 8 b.reset) ∧
      (o.code = 4 → 8 ≤ o.len → s.serves (.next dest m) dest h o [] fun a t => a.status = 0 ∧ a.value = leBytes 8 (u.nextAddr p o.ix o.sub o.inst) ∧ t.subs = s.subs) ∧
      (o.code = 5 → ∀ b i, u.lookup p o.ix o.sub o.inst = some b → bit o.aux 31 = true → 3125 ≤ o.aux % 2 ^ 31 →
        (∀ x ∈ s.subs, ¬ (x.2.owner = p ∧ x.2.ix = o.ix ∧ x.2.sub = o.sub ∧ x.2.inst = o.inst ∧ x.2.onChange = true ∧ x.2.dest = dest)) →
        ((List.range 256).find? fun i => (Tab.find s.subs i).isNone) = some i → (s.subs.filter fun x => x.2.owner == p).length < s.rd Reg.subsPerPrincipal 0 →
        s.serves (.subscribe dest m) dest h o [] fun a t => a.status = 0 ∧ a.aux = i ∧
          t.subs = Tab.put s.subs i { owner := p, ix := o.ix, sub := o.sub, inst := o.inst, onChange := true, period := o.aux % 2 ^ 31
                                      leaseEnd := tickAdd s.tick (s.rd Reg.subLeaseTicks 0), dest := dest, keyId := h.keyId, nextTick := tickAdd s.tick (o.aux % 2 ^ 31) }) ∧
      (o.code = 6 → ∀ x, Tab.find s.subs o.inst = some x → x.owner = p →
        s.serves (.unsubscribe dest m) dest h o [] fun a t => a.status = 0 ∧ t.subs = Tab.drop s.subs o.inst)) ∧
    ((∃ a p e v, dest = .udp a p e v) ∨ (∃ e t, dest = .mctp e t) → s.aapFormed dest l (aapHeadOf (beNat (l.take 32))) = false → aapRow l = 1 →
      Runs (.read dest m) s fun t => t.rd Reg.aapMalformed 0 = (s.rd Reg.aapMalformed 0 + 1) % 2 ^ 64 ∧ s.keepsObjects t [(Reg.aapMalformed, 0)] ∧ s.onlyObjects t)) ∧
  (∀ (s : State) (e t i n : Nat), s.awake → i < 2 ^ 5 → n < 2 ^ 8 →
    (if n = 0 ∨ n = 2 ^ 8 - 1 then Runs (.setEndpointId e t i n) s fun u => u.mctpEid = s.mctpEid ∧
        u.out = .message (.mctp e t) ([0#8, BitVec.ofNat 8 i, 1#8, 2#8]) :: s.out ∧ u = { s with out := u.out, krdInt := u.krdInt }
      else Runs (.setEndpointId e t i n) s fun u => u.mctpEid = n ∧ (∃ l, u.out = .message (.mctp e t) ([0#8, BitVec.ofNat 8 i, 1#8, 0#8] ++ l) :: s.out) ∧
        u = { s with mctpEid := u.mctpEid, out := u.out, krdInt := u.krdInt }) ∧
    (Runs (.getEndpointId e t i) s fun u => (∃ l, u.out = .message (.mctp e t) ([0#8, BitVec.ofNat 8 i, 2#8, 0#8, BitVec.ofNat 8 s.mctpEid] ++ l) :: s.out) ∧
      u = { s with out := u.out, free := u.free, krdInt := u.krdInt }) ∧
    (Runs (.getMctpVersionSupport e t i) s fun u => (∃ l, u.out = .message (.mctp e t) ([0#8, BitVec.ofNat 8 i, 4#8, 0#8, 1#8] ++ l) :: s.out) ∧
      u = { s with out := u.out, free := u.free, krdInt := u.krdInt }) ∧
    (Runs (.getMessageTypeSupport e t i) s fun u => u.out = .message (.mctp e t) [0#8, BitVec.ofNat 8 i, 5#8, 0#8, 1#8, 0x7F#8] :: s.out ∧
      u = { s with out := u.out, krdInt := u.krdInt }))

/-- R481, R482, R537, R539, R545, R547, Start-up: a cold reset and the loss or return of the keeper's feed leave every object at its reset value and every store and record empty, KeeperTick at 0 where the feed was gone; the release of KRD_COLD_RST_N samples the tied-off inputs; the keeper store zeroed, KRD_MAIN_REQ is asserted, and BootState becomes 1 with KRD_MAIN_GOOD and 2 when the stores are initialised; the wake input wakes from a shallow sleep and asks for the main rails in Dormant. -/
def Obligations.ResetsClearAndStartUpGoesOn : Prop :=
  ∀ (s : State) (f : Bool) (chip pen base : Nat), s.boundaries = [] →
    (Runs (.coldReset f) s fun t => (∀ o i, t.rd o i = o.reset) ∧ t.krdInt = 0 ∧
      t = { State.reset with
        variant := s.variant, chipId := s.chipId, mctpPen := s.mctpPen, pageBase := s.pageBase, mainGood := s.mainGood, coldReleased := s.coldReleased && !f
        bootTick := s.tick, clockMhz := s.clockMhz, tick := s.tick, free := s.free, mem := s.mem, memStatus := s.memStatus
        out := if s.mainReq then .pin 0 0 0 :: s.out else s.out, heldPages := s.heldPages, feedB := s.feedB, feedTick := s.feedTick, stateSince := s.tick
        quietSince := s.tick, pending := s.pending }) ∧
    (Runs (.keeperPowerUp f) s fun t => (∀ o i, t.rd o i = o.reset) ∧ t.tick = 0 ∧ t.feedB = (f && s.variant.keepB) ∧ t.mem = s.mem ∧
      t.rings = [] ∧ t.cmds = [] ∧ t.ctxs = [] ∧ t.tallies = [] ∧ t.plans = [] ∧ t.patterns = [] ∧ t.peers = [] ∧ t.coldReleased = false) ∧
    (Runs .keeperFeedLoss s fun t => (∀ o i, t.rd o i = o.reset) ∧ t.tick = 0 ∧ t.mem = s.mem ∧
      t.rings = [] ∧ t.cmds = [] ∧ t.ctxs = [] ∧ t.tallies = [] ∧ t.plans = [] ∧ t.patterns = [] ∧ t.peers = [] ∧ t.coldReleased = false) ∧
    (s.coldReleased = false → Runs (.coldResetRelease chip pen base) s fun t =>
      t = { s with coldReleased := true, chipId := chip % 2 ^ 64, mctpPen := pen % 2 ^ 32, pageBase := base % 2 ^ 28, bootTick := s.tick, krdInt := t.krdInt }) ∧
    (s.coldReleased = true → s.mainReq = false → s.rd Reg.bootState 0 = 0 → s.elapsed s.bootTick 20480 = true → Runs .keeperStoreZeroed s fun t =>
      t.mainReq = true ∧ t.out = .pin 0 0 1 :: s.out ∧ t.rd Reg.bootState 0 = b2n s.mainGood ∧ s.keepsObjects t [(Reg.bootState, 0)] ∧
      t = { s with mainReq := t.mainReq, out := t.out, objs := t.objs, bootTick := s.tick, krdInt := t.krdInt }) ∧
    (s.mainGood = false → Runs .mainGoodRise s fun t =>
      t.mainGood = true ∧ t.rd Reg.bootState 0 = (if s.mainReq = true ∧ s.rd Reg.bootState 0 = 0 then 1 else s.rd Reg.bootState 0) ∧
      s.keepsObjects t [(Reg.bootState, 0)] ∧ t = { s with mainGood := t.mainGood, objs := t.objs, bootTick := s.tick, krdInt := t.krdInt }) ∧
    (s.rd Reg.bootState 0 = 1 → s.mainGood = true → s.elapsed s.bootTick 10000 = true → s.heldPages = [] → Runs .bootReady s fun t =>
      t.rd Reg.bootState 0 = 2 ∧ t.rd Reg.calibrationRuns 0 = (s.rd Reg.calibrationRuns 0 + 1) % 2 ^ 64 ∧
      s.keepsObjects t [(Reg.bootState, 0), (Reg.calibrationRuns, 0)] ∧
      t = { s with objs := t.objs, timers := t.timers, quietSince := s.tick, krdInt := t.krdInt }) ∧
    (∀ p, p = s.power →
      (p = 0 → Runs .krdWake s fun t => t = { s with quietSince := s.tick, krdInt := t.krdInt }) ∧
      (p = 1 ∨ p = 2 ∨ p = 3 → s.entering = false → Runs .krdWake s (s.wokenFrom p)) ∧
      (p = 4 → s.mainReq = false → Runs .krdWake s fun t => t.out = .pin 0 0 1 :: s.out ∧
        t = { s with mainReq := true, bootTick := s.tick, out := t.out, krdInt := t.krdInt }))

/-- R477, R478, R539, R545, R546: the fatal stop takes every port down, leaves each ring with commands in flight in State 3, leaves Killed every context that was resident or whose image was lost, and sets FatalState 2; so does the fall of the main rails while they are asked for; a warm reset leaves the keep objects and the carried set alone, every other object at its reset value, the incarnation advanced, BootState 2, and every context that was neither resident nor Killed Idle at the next heat. -/
def Obligations.FatalStopHaltsAndWarmResetRestarts : Prop :=
  ∀ (s : State), s.boundaries = [] → (∀ x c, s.ctx x = some c → c.residency ≠ 2) →
    (s.power = 0 → s.rd Reg.fatalState 0 = 1 → ∀ d, s.stopDeadline = some d → tickReached s.tick d = true → Runs .fatalStop s fun t =>
      s.halted t ∧ t.rd Reg.fatalStops 0 = (s.rd Reg.fatalStops 0 + 1) % 2 ^ 64 ∧ s.keepsObjects t [(Reg.fatalState, 0), (Reg.fatalStops, 0)] ∧
      t = { s with ports := t.ports, rings := t.rings, ctxs := t.ctxs, out := t.out, objs := t.objs, stopDeadline := none, quietSince := t.quietSince, krdInt := t.krdInt }) ∧
    (s.mainGood = true → (s.mainReq = false ∨ s.rd Reg.fatalState 0 = 2 → Runs .mainGoodFall s fun t => t = { s with mainGood := false, krdInt := t.krdInt }) ∧
      (s.mainReq = true → s.rd Reg.fatalState 0 ≠ 2 → Runs .mainGoodFall s fun t => t.mainGood = false ∧ s.halted t)) ∧
    (s.booted = true → s.heldPages = [] → s.heldAap = [] → Runs .warmReset s fun t =>
      t.rd Reg.incarnation 0 = (s.rd Reg.incarnation 0 + 1) % 2 ^ 16 ∧ t.rd Reg.bootState 0 = 2 ∧
      (∀ o i, keepKey (o.key i) = false → carriedKey (o.key i) = false → o.address ≠ Reg.bootState.address → t.rd o i = o.reset) ∧
      (∀ o i, keepKey (o.key i) = true ∨ carriedKey (o.key i) = true →
        (∀ b ∈ [Reg.incarnation, Reg.fatalSource, Reg.fatalStops, Reg.dormantRestoreFailures, Reg.bootState], o.address ≠ b.address) → t.rd o i = s.rd o i) ∧
      t.tallies = [] ∧ t.cmds = [] ∧ t.plans = [] ∧ t.patterns = [] ∧ t.peers = [] ∧ t.flasks = [] ∧ t.blocks = [] ∧ t.subs = [] ∧
      (∀ i, (t.ring i).state ≠ 0 → t.ring i = { state := 3 }) ∧ (∀ i, (s.ring i).state = 3 → (t.ring i).state = 3) ∧
      (∀ x c, s.ctx x = some c → c.state ≠ 7 → c.residency ≠ 1 → c.imageBad = false → ∃ d, t.ctx x = some d ∧ d.state = 1 ∧ d.heat = (c.heat + 1) % 2 ^ 16 ∧ d.step = c.step) ∧
      (∀ x c, s.ctx x = some c → c.state = 7 ∨ (s.power ≠ 4 ∧ s.rd Reg.fatalState 0 < 2 ∧ c.residency = 1) → ∃ d, t.ctx x = some d ∧ d.state = 7) ∧
      t.mem = s.mem ∧ t.withdrawnList = s.withdrawnList ∧ t.tick = s.tick)

/-- R14, R487 to R490, R496 to R498: with its conditions met for its delay each sleep state is entered from the one before it; any wake ends a shallow one; Dormant is entered with every context in its image, the lanes and the main rails let go, and left at its wake with contexts, tallies, plans and the incarnation as they were, or, where the saved images differ from their record, as a warm reset leaves the engine. -/
def Obligations.SleepStatesAreEnteredAndLeft : Prop :=
  ∀ (s : State) (hz : Nat), s.boundaries = [] → s.untraced →
    (∀ r n d, (r, n, d) ∈ [(Instr.idleEntry, 1, s.cyclesTicks (s.rd Reg.idleDelayCycles 0)), (.dozeEntry, 2, s.rd Reg.dozeDelayTicks 0), (.restEntry, 3, s.rd Reg.restDelayTicks 0)] →
      s.mayEnter n = true → s.elapsed s.quietSince d = true → Runs r s fun t => s.asleepIn n t ∧
        s.keepsObjects t [(Reg.powerState, 0), (Reg.stateTicks, s.power), (Reg.stateEntries, n)] ∧
        t = { s with objs := t.objs, stateSince := s.tick, quietSince := s.tick, krdInt := t.krdInt }) ∧
    (s.mayEnter 4 = true → s.elapsed s.quietSince (s.rd Reg.dormantDelayTicks 0) = true → (∀ p ∈ s.peers, p.2.state ≠ 2 ∧ p.2.state ≠ 3 ∧ p.2.sleepSent = false) →
      Runs .dormantEntry s fun t => s.asleepIn 4 t ∧ t.mainReq = false ∧ (∃ l, t.out = .pin 0 0 0 :: l) ∧ (∀ p, p < s.variant.ports → t.portUp p = false) ∧
        (∀ x c, s.ctx x = some c → ∃ d, t.ctx x = some d ∧ d = { c with residency := 3, place := 0, dirty := d.dirty }) ∧
        t.tallies = s.tallies ∧ t.plans = s.plans ∧ t.rings = s.rings ∧ t.savedAt.isSome = true ∧
        s.keepsObjects t [(Reg.powerState, 0), (Reg.stateTicks, s.power), (Reg.stateEntries, 4)]) ∧
    (∀ p, p = s.power →
      (p = 1 ∨ p = 2 ∨ p = 3 → s.entering = false → Runs .wakeTrigger s (s.wokenFrom p) ∧
        (s.tick ≠ 0 → s.rd Reg.wakeAtTick 0 = s.tick → Runs .wakeAtTick s (s.wokenFrom p))) ∧
      (p = 4 → s.mainReq = false → s.tick ≠ 0 → s.rd Reg.wakeAtTick 0 = s.tick → Runs .wakeAtTick s fun t => t.out = .pin 0 0 1 :: s.out ∧
        t = { s with mainReq := true, bootTick := s.tick, out := t.out, krdInt := t.krdInt })) ∧
    (s.exitReady = true → s.heldPages = [] → s.heldAap = [] →
      (s.savedGood = true → s.doorLatch = [] → s.subs = [] → (∀ p ∈ s.peers, p.2.state ≠ 2) → (∀ q n, (s.layerState q n).usable = false) →
        Runs .dormantExit s fun t => s.asleepIn 0 t ∧ t.rd Reg.calibrationRuns 0 = (s.rd Reg.calibrationRuns 0 + 1) % 2 ^ 64 ∧
          s.keepsObjects t [(Reg.powerState, 0), (Reg.stateTicks, 4), (Reg.stateEntries, 0), (Reg.wakeMaxTicks, 4), (Reg.calibrationRuns, 0)] ∧
          t.ctxs = s.ctxs ∧ t.tallies = s.tallies ∧ t.plans = s.plans ∧ t.patterns = s.patterns ∧ t.rings = s.rings ∧ t.peers = s.peers ∧ t.mem = s.mem ∧ t.planCache = s.planCache ∧
          (∀ a, Tab.find t.landing a = if s.heldBuffers.any (fun b => decide (b.1 ≤ a) && decide (a < b.1 + b.2)) then Tab.find s.landing a else none)) ∧
      (s.savedGood = false → Runs .dormantExit s fun t => t.rd Reg.incarnation 0 = (s.rd Reg.incarnation 0 + 1) % 2 ^ 16 ∧ t.power = 0 ∧ t.rd Reg.bootState 0 = 2 ∧
          t.rd Reg.dormantRestoreFailures 0 = (s.rd Reg.dormantRestoreFailures 0 + 1) % 2 ^ 64 ∧ t.tallies = [] ∧ t.plans = [] ∧ t.patterns = [] ∧ t.peers = [] ∧ t.mem = s.mem)) ∧
    Runs (.coreClockThrottle hz) s fun t => t = { s with clockMhz := hz, krdInt := t.krdInt }

/-- R460 to R468, R484, R485, R501 to R505, R533, R534: KPR's feeds change and each change is a fault record; burnish reads the live words of a sound store and counts them; calibration, rotation and telemetry run once a period; subscriptions notify their destination with a counted message, or end with their lease; a slot at its deadline is freed and its reaction applied; a source's window over, its summary is recorded. -/
def Obligations.BackgroundWorkRunsInItsTime : Prop :=
  ∀ (s : State) (b : Bool) (st w : Nat), s.boundaries = [] → s.sound →
    (s.feedB = false → s.variant.keepB = true → s.slotOpen 17 → Runs (.feedSwitchOver true) s fun t => t.feedB = true ∧
      t.rd Reg.feedSwitchOvers 0 = (s.rd Reg.feedSwitchOvers 0 + 1) % 2 ^ 64 ∧ t.rd Reg.eventCount 0x1103 = (s.rd Reg.eventCount 0x1103 + 1) % 2 ^ 64 ∧
      s.keepsFamilies t (Reg.feedSwitchOvers :: faultObjects) ∧ ({ s with feedB := true, feedTick := s.tick, objs := t.objs } : State).onlyRecords t) ∧
    (s.feedB = true → s.elapsed s.feedTick 31250 = true → s.slotOpen 17 → Runs .feedReturn s fun t => t.feedB = false ∧
      t.rd Reg.feedSwitchOvers 0 = (s.rd Reg.feedSwitchOvers 0 + 1) % 2 ^ 64 ∧ t.rd Reg.ticksOnKeepB 0 = (s.rd Reg.ticksOnKeepB 0 + s.since s.feedTick) % 2 ^ 64 ∧
      t.rd Reg.eventCount 0x1103 = (s.rd Reg.eventCount 0x1103 + 1) % 2 ^ 64 ∧
      s.keepsFamilies t (Reg.feedSwitchOvers :: Reg.ticksOnKeepB :: faultObjects) ∧ ({ s with feedB := false, objs := t.objs } : State).onlyRecords t) ∧
    (s.works 19 = true →
      (s.liveWord st w = true → s.due 5 (s.rd Reg.burnishPeriodTicks 0) = false → Runs (.burnishRead st w) s fun t =>
        t.rd Reg.burnishWords 0 = (s.rd Reg.burnishWords 0 + 1) % 2 ^ 64 ∧ s.keepsObjects t [(Reg.burnishWords, 0)] ∧ t = { s with objs := t.objs, krdInt := t.krdInt }) ∧
      (s.power = 2 ∨ s.power = 3 → s.due 4 (s.rd Reg.burnishSliceTicks 0) = true → s.due 5 (s.rd Reg.burnishPeriodTicks 0) = false →
        ∀ l n, n = (l.filter fun (x : Nat × Nat) => s.liveWord x.1 x.2).length → Runs (.burnishSlice l) s fun t =>
          t.rd Reg.burnishWords 0 % 2 ^ 64 = (s.rd Reg.burnishWords 0 + n) % 2 ^ 64 ∧ s.keepsObjects t [(Reg.burnishWords, 0)] ∧
          t = { s with objs := t.objs, timers := Tab.put s.timers 4 s.tick, krdInt := t.krdInt }) ∧
      (s.due 0 (s.rd Reg.calibrationPeriodTicks 0) = true → Runs (.calibration b) s fun t =>
        t.rd Reg.calibrationRuns 0 = (s.rd Reg.calibrationRuns 0 + 1) % 2 ^ 64 ∧ t.rd Reg.calibrationRejects 0 = (s.rd Reg.calibrationRejects 0 + b2n (!b)) % 2 ^ 64 ∧
        s.keepsObjects t [(Reg.calibrationRuns, 0), (Reg.calibrationRejects, 0)] ∧ t = { s with objs := t.objs, timers := Tab.put s.timers 0 s.tick, krdInt := t.krdInt }) ∧
      (s.due 1 (s.rd Reg.rotationPeriodTicks 0) = true → Runs .stressRotation s fun t => t.rd Reg.stressRotations 0 = (s.rd Reg.stressRotations 0 + 1) % 2 ^ 64 ∧
        s.keepsObjects t [(Reg.stressRotations, 0)] ∧ t = { s with objs := t.objs, timers := Tab.put s.timers 1 s.tick, krdInt := t.krdInt }) ∧
      (∀ a, s.due 2 (s.rd Reg.telemetryPeriodTicks 0) = true → s.memBad a 64 = 0 →
        s.engineAddr (s.rd Reg.telemetryWindow 0) (s.rd Reg.telemetryRecords 0 % (2 ^ s.rd Reg.telemetryRingLog2 0 / 64) * 64) 64 = some a →
        Runs .telemetryRecord s fun t => ∃ l, l.length = 64 ∧ onlyBytes s.mem t.mem a l ∧ l.take 4 = leBytes 4 (crc32c (l.drop 4)) ∧
          t.rd Reg.telemetryRecords 0 = (s.rd Reg.telemetryRecords 0 + 1) % 2 ^ 64 ∧ s.keepsObjects t [(Reg.telemetryRecords, 0), (Reg.telemetryOverwritten, 0)] ∧
          t = { s with objs := t.objs, mem := t.mem, free := s.free + 1, teleBase := t.teleBase, timers := Tab.put s.timers 2 s.tick, krdInt := t.krdInt })) ∧
    (s.due 3 1525 = true → w < storeWords keeperNo → Runs (.keeperBurnish w) s fun t => t = { s with timers := Tab.put s.timers 3 s.tick, krdInt := t.krdInt }) ∧
    (s.power = 0 → s.fatal = false → ∀ x o, Tab.find s.subs st = some x → dictObj x.ix x.sub = some o → ∀ v, v = s.readBytes x.owner o x.inst →
      (∃ a p e g, x.dest = .udp a p e g) ∨ (∃ e g, x.dest = .mctp e g) →
      (x.onChange = false → tickReached s.tick x.nextTick = true → Runs (.subscriptionNotification st) s fun t =>
        (∃ m, t.out = .message x.dest m :: s.out) ∧ t.rd Reg.aapNotifications 0 = (s.rd Reg.aapNotifications 0 + 1) % 2 ^ 64 ∧
        (∃ y, Tab.find t.subs st = some { x with nextTick := tickAdd x.nextTick x.period, built := x.built + 1, sent := x.sent + 1, lastVal := y, gap := 0 }) ∧
        (∀ j, j ≠ st → Tab.find t.subs j = Tab.find s.subs j) ∧
        s.keepsObjects t [(Reg.aapNotifications, 0)] ∧
        t = { s with objs := t.objs, out := t.out, free := t.free, subs := t.subs, quietSince := t.quietSince, krdInt := t.krdInt }) ∧
      (s.elapsed (Tab.get 0 s.timers 6) (s.rd Reg.changeScanTicks 0) = true → s.booted = true → s.subs = [(st, x)] → x.onChange = true →
        (x.built = 0 ∨ v ≠ x.lastVal → Runs .changeScan s fun t => (∃ m, t.out = .message x.dest m :: s.out) ∧
          t.rd Reg.aapNotifications 0 = (s.rd Reg.aapNotifications 0 + 1) % 2 ^ 64 ∧ t.subs = [(st, { x with built := x.built + 1, sent := x.sent + 1, lastVal := v, gap := 0 })] ∧
          Tab.find t.timers 6 = some s.tick) ∧
        (x.built ≠ 0 → v = x.lastVal → Runs .changeScan s fun t =>
          t = { s with timers := Tab.put s.timers 6 s.tick, quietSince := t.quietSince, krdInt := t.krdInt }))) ∧
    (s.power = 0 → ∀ x, Tab.find s.subs st = some x → tickReached s.tick x.leaseEnd = true → Runs (.subLeaseExpiry st) s fun t =>
      t = { s with subs := Tab.drop s.subs st, quietSince := t.quietSince, krdInt := t.krdInt }) ∧
    (s.power = 0 → ∀ e, Tab.find (s.unitFaults st).slots w = some e → tickReached s.tick e.deadline = true →
      (s.fatal = true ∨ (e.fault.reaction ≠ 2 ∧ e.fault.reaction ≠ 4) → Runs (.escalationExpiry st w) s fun t =>
        Tab.find (t.unitFaults st).slots w = none ∧ (∀ u, u ≠ st → t.unitFaults u = s.unitFaults u) ∧
        t = { s with units := t.units, quietSince := t.quietSince, krdInt := t.krdInt }) ∧
      (s.fatal = false → s.unbalanced → e.fault.reaction = 2 → e.fault.ctxValid = true → ∀ c, s.ctx e.fault.ctx = some c → Runs (.escalationExpiry st w) s fun t =>
        Tab.find (t.unitFaults st).slots w = none ∧ ∃ d, t.ctx e.fault.ctx = some d ∧ d.state = 7) ∧
      (s.fatal = false → e.fault.reaction = 4 → Runs (.escalationExpiry st w) s fun t =>
        Tab.find (t.unitFaults st).slots w = none ∧ t.rd Reg.fatalState 0 = 1 ∧ t.rd Reg.fatalSource 0 = e.fault.source ∧
        t.stopDeadline = some (tickAdd s.tick (s.rd Reg.escalationTicks 0)) ∧ s.keepsFamilies t faultObjects)) ∧
    (s.power = 0 → Runs .summaryWindowEnd s fun t =>
      (∀ n m, Tab.find s.summary n = some m → Tab.find t.summary n = if m.window = s.summaryWindow then some m else none) ∧
      (∀ n m, s.summary = [(n, m)] → m.window ≠ s.summaryWindow → m.summarised ≠ 0 → ∃ r, (t.unitFaults (n / 256)).history.getLast? = some r ∧
        r.source = n ∧ r.reaction = 7 ∧ r.detailA = m.summarised ∧ r.tick = s.tick) ∧
      s.keepsFamilies t faultObjects)

/-- R214, R255, R265, R268, R269, R549, R556: a port comes up when its lanes have held lock for LinkUpTicks, and goes down at a loss that lasted LinkDownTicks, at FecDownThreshold, or at its reset; a port that goes down leaves no frame routed to it, and the frames last sent on it are due again; the port's lanes train again when its reset ends. -/
def Obligations.PortsComeUpAndGoDown : Prop :=
  ∀ (s : State) (p lane kind good bad : Nat) (pin : Bool), s.boundaries = [] → p < s.variant.ports →
    (s.rb Reg.portEnable p = true → (s.portRec p).resetTick = none → s.locked p = false → Runs (.laneLock p) s fun t => t.locked p = true ∧
      t.portRec p = { s.portRec p with laneLock := s.usedLanes p, align := true, fec := true, lockTick := s.tick, lossTick := none, lossCode := 0 } ∧ s.onlyPort p t) ∧
    (bit (s.usedLanes p) lane = true → s.rb Reg.portEnable p = true → Runs (.lossOfSignal p lane kind) s fun t => t.locked p = false ∧ t.portUp p = s.portUp p ∧
      ((s.portRec p).lossTick = none → (t.portRec p).lossTick = some s.tick ∧ (t.portRec p).lossCode = if kind = 0 then 2 else 3) ∧
      (∀ n, (s.portRec p).lossTick = some n → (t.portRec p).lossTick = some n ∧ (t.portRec p).lossCode = (s.portRec p).lossCode) ∧ s.onlyPort p t) ∧
    (s.power = 0 → s.works 7 = true → s.rb Reg.portEnable p = true → s.portUp p = false → (s.portRec p).resetTick = none → s.locked p = true →
      s.elapsed (s.portRec p).lockTick (s.rd Reg.linkUpTicks p) = true → s.rb Reg.forwardEnable 0 = false → Runs (.linkUp p) s fun t =>
        t.portRec p = { s.portRec p with up := true, lossTick := none, fecCount := 0, fecStart := s.tick, creditUsed := [], creditSeen := [], freed := [] } ∧
        t.rd Reg.linkEventPending 0 = 1 ∧ t.firstUp = some (s.firstUp.getD s.tick) ∧ s.keepsFamilies t (Reg.linkEventPending :: faultObjects) ∧
        (∀ q, q ≠ p → t.portRec q = s.portRec q) ∧
        t = { s with objs := t.objs, ports := t.ports, firstUp := t.firstUp, mem := t.mem, units := t.units, summary := t.summary, quietSince := t.quietSince, krdInt := t.krdInt }) ∧
    (s.portUp p = true → (s.portRec p).hopBufs = [] →
      (s.power = 0 → ∀ n, (s.portRec p).lossTick = some n → s.elapsed n (s.rd Reg.linkDownTicks p) = true → Runs (.linkDown p) s (s.fallsDown p)) ∧
      (s.elapsed (s.portRec p).fecStart 31250 = false →
        ((s.rd Reg.fecDownThreshold p = 0 ∨ (s.portRec p).fecCount + bad < s.rd Reg.fecDownThreshold p) → Runs (.fecDegrade p good bad) s fun t =>
          t.portRec p = { s.portRec p with fecCount := (s.portRec p).fecCount + bad } ∧ t.rd Reg.fecCorrected p = (s.rd Reg.fecCorrected p + good) % 2 ^ 64 ∧
          t.rd Reg.fecUncorrectable p = (s.rd Reg.fecUncorrectable p + bad) % 2 ^ 64 ∧ s.keepsObjects t [(Reg.fecCorrected, p), (Reg.fecUncorrectable, p)] ∧
          (∀ q, q ≠ p → t.portRec q = s.portRec q) ∧ t = { s with objs := t.objs, ports := t.ports, krdInt := t.krdInt }) ∧
        (s.rd Reg.fecDownThreshold p ≠ 0 → s.rd Reg.fecDownThreshold p ≤ (s.portRec p).fecCount + bad → Runs (.fecDegrade p good bad) s (s.fallsDown p))) ∧
      Runs (.portReset p pin) s fun t => s.fallsDown p t ∧ t.locked p = false ∧ (t.portRec p).resetTick = some s.tick ∧ t.out = .pin 2 (2 * p + 1) 1 :: .pin 2 (2 * p) 1 :: s.out) ∧
    (∀ n, (s.portRec p).resetTick = some n → s.elapsed n 63 = true → Runs (.portResetEnd p) s fun t =>
      t.portRec p = { s.portRec p with resetTick := none, rstPin := false } ∧ t.out = .pin 2 (2 * p + 1) 0 :: .pin 2 (2 * p) 0 :: s.out ∧
      (∀ q, q ≠ p → t.portRec q = s.portRec q) ∧ t = { s with ports := t.ports, out := t.out, krdInt := t.krdInt })

/-- R255, R259, R265, R271: a PFC frame pauses the priorities it names, or frees those with no quanta; with PFC off it, and any 802.3x PAUSE frame, is only counted; a pause ends with its quanta; a frame dropped before its class is known is counted under its reason. -/
def Obligations.PausesAndDropsAreTakenOrCounted : Prop :=
  ∀ (s : State) (rx : Rx) (enable prio : Nat) (quanta : List Nat), s.awake → s.receives rx.port = true →
    (s.rb Reg.pfcEnable rx.port = true → Runs (.pfcFrame rx enable quanta) s fun t =>
      (∀ i, Tab.find (t.portRec rx.port).paused i = if i < 8 ∧ bit enable i = true then
          (if quanta.getD i 0 = 0 then none else some (s.pauseEnd rx.port (quanta.getD i 0))) else Tab.find (s.portRec rx.port).paused i) ∧
      t.portRec rx.port = { s.portRec rx.port with paused := (t.portRec rx.port).paused } ∧ (∀ q, q ≠ rx.port → t.portRec q = s.portRec q) ∧
      s.countedIn rx [] t ∧ t = { s with objs := t.objs, ports := t.ports, quietSince := t.quietSince, krdInt := t.krdInt }) ∧
    (∀ r, (r = .pauseFrame rx ∨ (r = .pfcFrame rx enable quanta ∧ s.rb Reg.pfcEnable rx.port = false)) → Runs r s fun t =>
      t.rd Reg.pauseIgnored rx.port = (s.rd Reg.pauseIgnored rx.port + 1) % 2 ^ 64 ∧ s.countedIn rx [(Reg.pauseIgnored, rx.port)] t ∧ s.onlyObjects t) ∧
    (∀ n, Tab.find (s.portRec rx.port).paused prio = some n → tickReached s.tick n = true → Runs (.pfcPauseExpiry rx.port prio) s fun t =>
      Tab.find (t.portRec rx.port).paused prio = none ∧ (∀ i, i ≠ prio → Tab.find (t.portRec rx.port).paused i = Tab.find (s.portRec rx.port).paused i) ∧
      t.portRec rx.port = { s.portRec rx.port with paused := (t.portRec rx.port).paused } ∧ (∀ q, q ≠ rx.port → t.portRec q = s.portRec q) ∧
      t = { s with ports := t.ports, quietSince := t.quietSince, krdInt := t.krdInt }) ∧
    (∀ n o i, (n, o, i) ∈ [(1, Reg.oversize, rx.port), (2, Reg.tagErrors, rx.port), (3, Reg.unknownType, rx.port), (4, Reg.portNotForMe, rx.port),
        (5, Reg.srhErrors, rx.port), (6, Reg.headerCrcErrors, 0)] → Runs (.frameDrop rx n) s fun t =>
      t.rd o i = (s.rd o i + 1) % 2 ^ 64 ∧ s.countedIn rx [(o, i)] t ∧ s.onlyObjects t) ∧
    Runs (.frameDrop rx 0) s (fun t => t.rd Reg.fcsErrors rx.port = (s.rd Reg.fcsErrors rx.port + 1) % 2 ^ 64 ∧
      s.keepsObjects t [(Reg.fcsErrors, rx.port)] ∧ s.onlyObjects t) ∧
    Runs (.frameDrop rx 7) s (fun t =>
      (s.rb Reg.pfcEnable rx.port = true → t = { s with quietSince := t.quietSince, krdInt := t.krdInt }) ∧
      (s.rb Reg.pfcEnable rx.port = false → t.rd Reg.rxFifoDrops rx.port = (s.rd Reg.rxFifoDrops rx.port + 1) % 2 ^ 64 ∧ t.rd Reg.linkEventPending 0 = 1 ∧
        s.keepsFamilies t (Reg.rxFifoDrops :: Reg.linkEventPending :: faultObjects) ∧
        t = { s with objs := t.objs, mem := t.mem, units := t.units, summary := t.summary, quietSince := t.quietSince, krdInt := t.krdInt }))

/-- R244 to R248, R493 to R495: the handshakes between peers: JOIN is answered JOIN_ACK and makes the sender's entry Live with its incarnation, bases and grants, JOIN_ACK the initiator's; LEAVE at a drained peer is answered LEAVE_ACK and each makes the entry Unknown; SLEEP marks the peer Asleep, AWAKE ends the mark and is refused where there is none, AWAKE_ACK ends the woken engine's hold, AWAKE_REFUSED sets the entry Unknown and joins afresh; frames that waited for a peer that is ready go. -/
def Obligations.HandshakesMoveThePeerEntry : Prop :=
  ∀ (s : State) (rx : Rx) (f : RFrame) (p q : Peer), s.awake → s.hearsFrame rx f → f.sound rx → f.cls = 5 → p = s.peer f.src → q = { p with used := s.tick } →
    (f.op = 1 → (p.state = 1 ∨ p.state = 0 ∨ (p.state = 4 ∧ s.elapsed p.deadTick (s.rd Reg.maxFrameLifeTicks 0) = true)) →
      (f.joinInfo.credits ≠ 0 ∨ ∀ r ∈ p.waiting, r.frame.cls ≠ 1) →
      Runs (.join rx f) s fun t => ∃ b, (p.state = 1 → b = q.live f.joinInfo s.tick) ∧ s.sendsMgmt f.src 2 b t ∧ b.sentFrom (t.peer f.src) ∧ (t.peer f.src).flushed ∧
        b = { b with state := 2, inc := f.joinInfo.inc, incKnown := true, credits := f.joinInfo.credits, wakeTol := f.joinInfo.wakeTol, caps := f.joinInfo.caps
                     rdata := { base := f.joinInfo.dataBase }, ratomic := { base := f.joinInfo.atomicBase }, rcoll := { base := f.joinInfo.collBase } } ∧
        s.onlyPeer f.src t ∧ s.took rx [(Reg.noRoute, 0)] t) ∧
    (f.op = 2 → p.state = 1 → f.joinInfo.valid = true → f.joinInfo.peerInc = s.rd Reg.incarnation 0 → (f.joinInfo.credits ≠ 0 ∨ ∀ r ∈ p.waiting, r.frame.cls ≠ 1) →
      Runs (.joinAck rx f) s fun t => (q.live f.joinInfo s.tick).sentFrom (t.peer f.src) ∧ (t.peer f.src).flushed ∧ t.control = s.control ∧
        s.onlyPeer f.src t ∧ s.took rx [(Reg.noRoute, 0)] t) ∧
    (f.op = 3 → p.state = 2 → p.quiet = true → Runs (.leave rx f) s fun t => s.sendsMgmt f.src 4 q t ∧ t.peer f.src = { q.forget with routePtr := (t.peer f.src).routePtr } ∧
      s.onlyPeer f.src t ∧ s.took rx [(Reg.noRoute, 0)] t) ∧
    (f.op = 4 → p.state = 3 → Runs (.leaveAck rx f) s fun t => t.peer f.src = q.forget ∧ t.control = s.control ∧ s.onlyPeer f.src t ∧ s.took rx [] t) ∧
    (f.op = 5 → p.state = 2 → Runs (.sleep rx f) s fun t => s.sendsMgmt f.src 6 q t ∧
      t.peer f.src = { q with asleep := true, asleepTick := s.tick, routePtr := (t.peer f.src).routePtr } ∧ s.onlyPeer f.src t ∧ s.took rx [(Reg.noRoute, 0)] t) ∧
    (f.op = 6 → p.state = 2 → p.sleepSent = true → Runs (.sleepAck rx f) s fun t => t.peer f.src = { q with sleepAcked := true } ∧ t.control = s.control ∧
      s.onlyPeer f.src t ∧ s.took rx [] t) ∧
    (f.op = 7 → (p.state = 2 → p.asleep = true → Runs (.awake rx f) s fun t => s.sendsMgmt f.src 8 { q with asleep := false } t ∧
        ({ q with asleep := false } : Peer).sentFrom (t.peer f.src) ∧ (t.peer f.src).flushed ∧ s.onlyPeer f.src t ∧ s.took rx [(Reg.noRoute, 0)] t) ∧
      (p.state ≠ 2 ∨ p.asleep = false → Runs (.awake rx f) s fun t => s.sendsMgmt f.src 9 q t ∧ t.peer f.src = { q with routePtr := (t.peer f.src).routePtr } ∧
        s.onlyPeer f.src t ∧ s.took rx [(Reg.noRoute, 0)] t)) ∧
    (f.op = 8 → p.waking = true → Runs (.awakeAck rx f) s fun t => ({ q with waking := false, mgmtSends := 0 } : Peer).sentFrom (t.peer f.src) ∧
      (t.peer f.src).flushed ∧ t.control = s.control ∧ s.onlyPeer f.src t ∧ s.took rx [(Reg.noRoute, 0)] t) ∧
    (f.op = 9 → p.waking = true → Runs (.awakeRefused rx f) s fun t => (t.peer f.src).state = 1 ∧ (t.peer f.src).waking = false ∧ (t.peer f.src).mgmtSends = 1 ∧
      (∃ b, s.sendsMgmt f.src 1 b t) ∧ s.onlyPeer f.src t ∧ s.took rx [(Reg.noRoute, 0)] t)

/-- R215, R244, R245, R247, R248, R249, R493, R494: PeerCommand 1 joins the queried peer and 2 leaves it; 3, a limit on a frame or a handshake, or a sleep held too long declares a peer Dead, and what was outstanding is abandoned; a new wake tolerance goes to every Live peer in a JOIN; a directory fetch fills its entry, begins the join that waited for it, and sends the frames that may go. -/
def Obligations.PeersAreCommandedFetchedAndDropped : Prop :=
  ∀ (s : State) (p v n : Nat), s.awake →
    (n = s.query Reg.peerQueryNode p → (s.peer n).cached = true →
      ((s.peer n).state = 0 ∨ ((s.peer n).state = 4 ∧ s.elapsed (s.peer n).deadTick (s.rd Reg.maxFrameLifeTicks 0) = true) →
        s.writeRuns p (.peerJoin p) Reg.peerCommand 0 1 [(Reg.noRoute, 0)] fun t => (t.peer n).state = 1 ∧ (t.peer n).mgmtSends = 1 ∧ (t.peer n).mgmtTick = s.tick ∧
          (∃ b, s.sendsMgmt n 1 b t) ∧ s.onlyPeer n t) ∧
      ((s.peer n).state = 2 → (s.peer n).quiet = true → s.writeRuns p (.peerLeave p) Reg.peerCommand 0 2 [(Reg.noRoute, 0)] fun t =>
        t.peer n = { s.peer n with state := 3, mgmtSends := 1, mgmtTick := s.tick, routePtr := (t.peer n).routePtr } ∧ s.sendsMgmt n 3 (s.peer n) t ∧ s.onlyPeer n t)) ∧
    (s.lone n →
      (n = s.query Reg.peerQueryNode p → (s.peer n).state ≠ 0 → (s.peer n).state ≠ 4 →
        s.writeRuns p (.peerDeclareDead p) Reg.peerCommand 0 3 [(Reg.peersDeclaredDead, 0)] (s.drops n)) ∧
      ((s.peer n).asleep = true → s.elapsed (s.peer n).asleepTick (s.rd Reg.peerSleepHoldTicks 0) = true → Runs (.peerSleepHoldExpiry n) s fun t =>
        s.drops n t ∧ s.keepsObjects t [(Reg.peersDeclaredDead, 0)]) ∧
      (s.works 6 = true →
        (∀ c seq k r, c ≠ 5 → s.outstanding n c seq = some (k, r) → s.pastLimit (s.peer n) c k r = true → (s.peer n).asleep = false → Runs (.settleLimitExpiry n c seq) s fun t =>
          s.drops n t ∧ s.keepsObjects t [(Reg.peersDeclaredDead, 0)]) ∧
        (∀ seq op, (s.peer n).handshake = some op → op = 1 ∨ op = 3 → s.rd Reg.retransmitLimit 0 < (s.peer n).mgmtSends →
          s.elapsed (s.peer n).mgmtTick (s.rd Reg.retransmitTicks 0) = true → Runs (.settleLimitExpiry n 5 seq) s fun t =>
            s.drops n t ∧ s.keepsObjects t [(Reg.peersDeclaredDead, 0)]))) ∧
    (Tab.sorted s.peers = true → s.writeRuns p (.peerWakeTolerance p v) Reg.peerWakeTolerance 0 v [(Reg.peerWakeTolerance, 0), (Reg.noRoute, 0)] (fun t => t.rd Reg.peerWakeTolerance 0 = v ∧
      ∀ m w, (s.peer m).state = 2 → s.wayTo m = some w → ∃ r ∈ t.control, r.frame.cls = 5 ∧ r.frame.op = 1 ∧ r.frame.dst = m ∧ r.route = some w ∧
        r.frame.payload = ({ s with objs := t.objs } : State).joinPayload (s.peer m) 0)) ∧
    ((s.peer n).fetching = true → (∀ x ∈ s.fetchHeld, x.1 ≠ n) →
      ((s.peer n).wantJoin = false → Runs (.peerDirectoryFetch n) s fun t =>
        ({ s.peer n with cached := true, fetching := false, used := s.tick } : Peer).sentFrom (t.peer n) ∧ (t.peer n).flushed ∧ s.onlyPeer n t ∧ s.keepsObjects t [(Reg.noRoute, 0)]) ∧
      ((s.peer n).wantJoin = true → (s.peer n).state = 0 → Runs (.peerDirectoryFetch n) s fun t =>
        (t.peer n).state = 1 ∧ (t.peer n).cached = true ∧ (t.peer n).fetching = false ∧ (t.peer n).wantJoin = false ∧ (∃ b, s.sendsMgmt n 1 b t) ∧ s.onlyPeer n t ∧
        s.keepsObjects t [(Reg.noRoute, 0)]))

/-- R263, R264, R523, R528, R530: a survey probe is answered on its port with its source port; a survey's reply, and a Time Exceeded that quotes a probe, each give one record; a message in a relay frame of a Live peer is answered in a relay frame to it; a message in a DICT command is answered in the command's result, with status OK. -/
def Obligations.SurveysRelaysAndDictCommandsAreAnswered : Prop :=
  ∀ (s : State) (rx : Rx) (f : RFrame), s.awake →
    (s.reaches rx f → f.sound rx → f.cls = 5 →
      (f.op = 0x20 → Runs (.surveyProbe rx f) s fun t =>
        (∃ r, t.control = s.control ++ [r] ∧ r.frame = { cls := 5, src := s.nodeId, dst := f.src, op := 0x21 } ∧ r.route = some { port := rx.port, path := 0 } ∧
          r.due = true ∧ r.udpSrc = some (rx.udpSrc, s.rd Reg.hopLimit 0)) ∧
        s.took rx [] t ∧ t = { s with objs := t.objs, control := t.control, queueSeq := t.queueSeq, quietSince := t.quietSince, krdInt := t.krdInt }) ∧
      (f.op = 0x21 → ∀ a, s.records rx.udpSrc a → Runs (.surveyReply rx f) s fun t => s.surveyed a rx.ipSrc rx.udpSrc 0xFF t ∧ s.took rx [(Reg.surveyRecords, 0)] t)) ∧
    (∀ p ip u hop a, s.receives p = true → s.records u a → Runs (.icmpv6TimeExceeded p ip u hop) s fun t =>
      s.surveyed a ip u hop t ∧ s.keepsObjects t [(Reg.surveyRecords, 0)]) ∧
    (∀ (h : AapHead) (o : AapOp), s.hearsFrame rx f → f.sound rx → f.cls = 5 → f.op = 0x10 → (s.peer f.src).state = 2 → s.asked (.relay f.src) 0 f.payload h o → Runs (.aapRelay rx f) s fun t =>
        ∃ a, s.readAnswer [(Reg.rxFrames, rx.port), (Reg.rxBytes, rx.port), (Reg.ecnCe, rx.port), (Reg.framesReceived, 0), (Reg.principalMessages, h.principal)] h.principal o a ∧
          (match s.wayTo f.src with
            | none => t.control = s.control
            | some w => ∃ r, t.control = s.control ++ [r] ∧ r.route = some w ∧ r.due = true ∧
                r.frame = { cls := 5, src := s.nodeId, dst := f.src, op := 0x10, payload := s.response h o a }) ∧
          t.rd Reg.aapOps 0 = (s.rd Reg.aapOps 0 + 1) % 2 ^ 64 ∧ t.rd Reg.principalMessages h.principal = (s.rd Reg.principalMessages h.principal + 1) % 2 ^ 64 ∧
          s.took rx ((Reg.noRoute, 0) :: askObjects h.principal) t) ∧
    (∀ i host H payload (h : AapHead) (o : AapOp) k, s.untraced → s.admits i host (withOp H 9) payload → (∀ c ∈ s.cmds, c.1 < s.nextUid ∧ (hOp c.2.header = 9 → c.2.ready = true)) →
      s.rb Reg.aapInBandEnable 0 = true → k = s.fetched i host (withOp H 9) payload → s.asked (.ring s.nextUid) host k.payload h o → Runs (.dict i H payload) s fun t =>
        ∃ a k', s.readAnswer [(Reg.principalMessages, host)] host o a ∧ t.cmd s.nextUid = some k' ∧ k'.ready = true ∧ k'.status = 0 ∧ k'.readyTick = s.tick ∧
          (∀ j, Tab.get 0 k'.result j = (s.response h o a).getD j 0) ∧ t.rd Reg.aapOps 0 = (s.rd Reg.aapOps 0 + 1) % 2 ^ 64 ∧
          t.rd Reg.principalMessages host = (s.rd Reg.principalMessages host + 1) % 2 ^ 64 ∧ s.keepsObjects t ((Reg.hostDeadlineMisses, host) :: askObjects host) ∧ t.mem = s.mem ∧
          s.keepsContexts t (hContext (withOp H 9)))

/-- R204, R207, R220, R221, R224, R226, R329, R415: a remote store frame that XLT passes is written, increments its tally and settles, and one that XLT does not pass settles refused; a LOAD and a PROBE are answered with the window's bytes or with nothing; another operation that is FRESH is applied once and its old word answered and kept, and one that is not FRESH is answered from the reply cache and not applied. -/
def Obligations.RemoteStoresAndRequestsAreServed : Prop :=
  ∀ (s : State) (rx : Rx) (f : RFrame) (tallied : Bool) (T op n w a m : Nat), s.awake → tallied = bit f.aux 29 → T = bits f.aux 28 12 → op = f.op / 2 ^ 12 →
    (s.hearsFresh rx f → f.cls = 0 → f.store = true →
      (s.xltRemote f.window f.src (if tallied then 8 + 32 else 8) f.offset f.length = some (w, a) → (tallied = true → s.windowTally w T = true) →
        s.memBad a f.length ≠ 1 → s.inject = none → s.tallyFlip = [] → s.tallyBad = [] → Runs (.remoteStoreFrame rx f) s fun t =>
          onlyBytes s.mem t.mem a f.payload ∧ (∀ u, t.tally u = if tallied = true ∧ u = T then (s.tally u + 1) % 2 ^ 48 else s.tally u) ∧ s.settlesFrame f 0 t ∧
          (tallied = true → t.rd Reg.remoteIncrements 0 = (s.rd Reg.remoteIncrements 0 + 1) % 2 ^ 64) ∧
          s.took rx [(Reg.expired, 0), (Reg.remoteIncrements, 0), (Reg.tallyUpdates, 0), (Reg.noRoute, 0)] t ∧
          t = { s with objs := t.objs, mem := t.mem, peers := t.peers, control := t.control, queueSeq := t.queueSeq, tallies := t.tallies
                       watchTable := t.watchTable, tallyBad := t.tallyBad, tallyFlip := t.tallyFlip, quietSince := t.quietSince, krdInt := t.krdInt }) ∧
      (s.xltRemote f.window f.src (if tallied then 8 + 32 else 8) f.offset f.length = none → Runs (.remoteStoreFrame rx f) s fun t =>
        s.settlesFrame f 1 t ∧ t.rd Reg.remoteRefusals 0 = (s.rd Reg.remoteRefusals 0 + 1) % 2 ^ 64 ∧ t.mem = s.mem ∧ t.tallies = s.tallies ∧
        s.took rx [(Reg.expired, 0), (Reg.remoteRefusals, 0), (Reg.refusedSettles, 0), (Reg.noRoute, 0)] t ∧ s.onlyServed t)) ∧
    (s.hearsRequest rx f →
      (op = 0 ∨ op = 15 → n = (if op = 15 then leAt f.payload 0 4 else f.op % 2 ^ 12 + 1) → s.xltRemote f.window f.src 4 f.offset n = some (w, a) →
        (op = 0 → s.memBad a n ≠ 1) → Runs (.atomicFrame rx f) s fun t =>
          s.replies f 0 (if op = 0 then s.memRead a n else []) t ∧
          s.servedPeer f.src (if ((s.peer f.src).ratomic.check f.seq).1 = 0 then ((s.peer f.src).ratomic.check f.seq).2.2.receive f.seq
            else ((s.peer f.src).ratomic.check f.seq).2.2) t ∧
          t.mem = s.mem ∧ t.replyCache = s.replyCache ∧ s.took rx [(Reg.expired, 0), (Reg.duplicates, 0), (Reg.remoteRefusals, 0), (Reg.noRoute, 0)] t ∧ s.onlyServed t) ∧
      (1 ≤ op → op ≤ 8 → ((s.peer f.src).ratomic.check f.seq).1 = 0 → s.landingHost f.window = none → s.xltRemote f.window f.src 16 f.offset 8 = some (w, a) →
        s.memBad a 8 ≠ 1 → s.cacheUsed f.src < (s.peer f.src).granted → m = leNat (s.memRead a 8) → Runs (.atomicFrame rx f) s fun t =>
          onlyBytes s.mem t.mem a (leBytes 8 (atomicEffect op m (leAt f.payload 0 8) (leAt f.payload 8 8))) ∧ s.replies f 0 (leBytes 8 m) t ∧
          s.servedPeer f.src (((s.peer f.src).ratomic.check f.seq).2.2.receive f.seq) t ∧
          t.replyCache = s.replyCache ++ [{ src := f.src, inc := f.aux / 2 ^ 14, seq := f.seq, tick := s.tick, status := 0, old := m }] ∧
          t.rd Reg.atomicsApplied 0 = (s.rd Reg.atomicsApplied 0 + 1) % 2 ^ 64 ∧
          s.took rx [(Reg.expired, 0), (Reg.atomicsApplied, 0), (Reg.noRoute, 0)] t ∧ s.onlyServed t) ∧
      (1 ≤ op → op ≤ 8 → ((s.peer f.src).ratomic.check f.seq).1 ≠ 0 →
        ∀ e, s.replyCache.find? (fun e => e.src == f.src && e.inc == f.aux / 2 ^ 14 && e.seq == f.seq) = some e → Runs (.atomicFrame rx f) s fun t =>
          s.replies f e.status (leBytes 8 e.old) t ∧ s.servedPeer f.src ((s.peer f.src).ratomic.check f.seq).2.2 t ∧ t.mem = s.mem ∧ t.replyCache = s.replyCache ∧
          t.rd Reg.atomicCachedReplies 0 = (s.rd Reg.atomicCachedReplies 0 + 1) % 2 ^ 64 ∧
          s.took rx [(Reg.expired, 0), (Reg.duplicates, 0), (Reg.atomicCachedReplies, 0), (Reg.noRoute, 0)] t ∧ s.onlyServed t))

/-- R211, R216, R225, R227, R237 to R239: an OK reply to the one request of a RAT gives its result and makes it ready, and its credit is held from then on; an ACK block moves its flow, ends the frames it settles and lets waiting frames go; a hop credit frame gives its port the counts of freed buffers; a raw frame for another node waits for the port that its epoch's forward table names. -/
def Obligations.RepliesAcksCreditsAndTransitFramesAreTaken : Prop :=
  ∀ (s : State) (rx : Rx) (f : RFrame), s.awake →
    (∀ q uid p k, s.hearsFrame rx f → f.sound rx → f.cls = 2 → (s.peer f.src).state = 2 → f.op / 2 ^ 8 = 0 → f.payload.length = 8 →
      Tab.find s.atomReqs (reqKey f.src f.seq) = some q → q.dst = f.src → q.seq = f.seq → q.why = .rat uid 0 → s.parts uid = [p] → p.left = 1 → p.status = 0 →
      s.cmd uid = some k → k.ready = false → hOp k.header = 0x12 → Runs (.replyFrame rx f) s fun t =>
        (∃ k', t.cmd uid = some k' ∧ k'.ready = true ∧ k'.status = 0 ∧ k'.readyTick = s.tick ∧ (∀ j, j < 8 → Tab.get 0 k'.result j = f.payload.getD j 0)) ∧
        t.parts uid = [] ∧ ({ s.peer f.src with used := s.tick, creditEnds := (s.peer f.src).creditEnds ++ [s.tick] } : Peer).sentFrom (t.peer f.src) ∧
        (t.peer f.src).flushed ∧ (∀ n, n ≠ f.src → t.peer n = s.peer n) ∧
        ((s.peer f.src).waiting = [] → Tab.find t.atomReqs (reqKey f.src f.seq) = none ∧ (t.peer f.src).creditsOut = (s.peer f.src).creditsOut - 1) ∧
        t.mem = s.mem ∧ t.tallies = s.tallies ∧ s.took rx [(Reg.noRoute, 0), (Reg.hostDeadlineMisses, k.host)] t) ∧
    (∀ b c l, s.hearsFrame rx f → f.sound rx → f.cls = 3 → (s.peer f.src).state = 2 → f.op = 1 * 2 ^ 8 → b = beAt f.payload 0 64 → c = bits b 511 509 → c = 0 ∨ c = 4 →
      l = (((s.peer f.src).flow c).ack b).2 → plainEnds l → Runs (.ackFrame rx f) s fun t =>
        ({ (s.peer f.src).modFlow c fun fl => (fl.ack b).1 with used := s.tick } : Peer).sentFrom (t.peer f.src) ∧ (t.peer f.src).flushed ∧
        (∀ n, n ≠ f.src → t.peer n = s.peer n) ∧
        (∀ uid, t.disp uid = (s.disp uid).map fun d => { d with unacked := d.unacked - endedFor l (Purpose.ofDispatch uid) }) ∧
        (∀ key, t.flask key = { s.flask key with answersLeft := (s.flask key).answersLeft - endedFor l (Purpose.ofFlask key) }) ∧
        s.took rx [(Reg.noRoute, 0)] t ∧
        t = { s with objs := t.objs, peers := t.peers, ports := t.ports, atomReqs := t.atomReqs, queueSeq := t.queueSeq, disps := t.disps, flasks := t.flasks
                     quietSince := t.quietSince, krdInt := t.krdInt }) ∧
    (s.receives rx.port = true → s.rb Reg.transportEnable 0 = true → s.works 6 = true → f.headerCrc = f.crc → f.wellFormed = true →
      (f.hopCredit = true → f.sound rx → Runs (.hopCreditFrame rx f) s fun t =>
        (∀ i, i < 8 → Tab.get 0 (t.portRec rx.port).creditSeen i = (f.payload.getD i 0).toNat) ∧
        t.portRec rx.port = { s.portRec rx.port with creditSeen := (t.portRec rx.port).creditSeen } ∧ (∀ p, p ≠ rx.port → t.portRec p = s.portRec p) ∧
        s.countedIn rx [(Reg.framesReceived, 0)] t ∧ t = { s with objs := t.objs, ports := t.ports, quietSince := t.quietSince, krdInt := t.krdInt }) ∧
      (∀ e, f.hopCredit = false → f.dst ≠ s.nodeId → rx.raw = true → s.rb Reg.forwardEnable 0 = true → s.rd Reg.versionState f.epoch ≠ 0 →
        s.rd Reg.versionState f.epoch ≠ 1 → s.forwardOf f.epoch f.dst = some e → s.portUp e.outPort = true → s.transitHeld rx.port rx.pcp < s.rd Reg.forwardDepth 0 →
        Runs (.transitFrame rx f) s fun t =>
          (∃ r, t.portRec e.outPort = { s.portRec e.outPort with transit := (s.portRec e.outPort).transit ++ [r] } ∧
            r = (rx.pcp, if e.dateline then rx.pcp / 2 * 2 + 1 else rx.pcp, rx.port, s.queueSeq, f)) ∧
          (∀ p, p ≠ e.outPort → t.portRec p = s.portRec p) ∧ s.countedIn rx [] t ∧
          t = { s with objs := t.objs, ports := t.ports, queueSeq := t.queueSeq, quietSince := t.quietSince, krdInt := t.krdInt }))

/-- R277, R278, R280, R283, R304, R305, R308: a copy frame that passes the checks is committed, slot by slot, and settles; a close frame is recorded in the flask of its pour; an answer is written into its row's area of the block, and the row becomes Queued once it is ready. -/
def Obligations.CopiesClosesAndAnswersAreTaken : Prop :=
  ∀ (s : State) (rx : Rx) (f : RFrame), s.awake → s.sound → s.hearsFresh rx f → f.cls = 0 → f.store = false →
    (∀ g u, f.close = false → f.ret = false → s.copyTarget f = (0, some g) → tagsAgree f.heat (f.tags g.n g.hosted.stride) = true →
      g.hosted.segments = 1 → (g.plan.listOf g.hosted).tiled = false → g.hosted.inHbm = false → u = (s.flask g.key).src g.src → u.late = none → u.closed = false →
      (s.flask g.key).state ≤ 1 → s.copyReason g f = 0 → s.hosted g.key = some (g.plan, g.hosted) → s.othersOpen g.plan g.hosted g.key g.src →
      Runs (.dispatchCopyFrame rx f) s fun t =>
        (∃ fl, (∀ k, t.flask k = if k = g.key then fl else s.flask k) ∧
          fl.state = 1 ∧ fl.fillTick = (if (s.flask g.key).state = 0 then s.tick else (s.flask g.key).fillTick) ∧
          fl.tags = (g.slots.zip (f.tags g.n g.hosted.stride)).foldl (fun m (p : Nat × Nat) => Tab.put m p.1 p.2) (s.flask g.key).tags ∧
          fl.src g.src = { u with committed := u.committed + g.n, ctxHeat := if u.ctxHeat.isSome then u.ctxHeat else some (f.ctx, f.heat) } ∧
          (∀ i, i ≠ g.src → fl.src i = (s.flask g.key).src i) ∧
          fl = { s.flask g.key with state := fl.state, fillTick := fl.fillTick, tags := fl.tags, srcs := fl.srcs }) ∧
        t.landing = (g.slots.zip (f.tags g.n g.hosted.stride)).foldl (fun m (p : Nat × Nat) => Tab.writeBytes 0 m (g.plan.tagWord g.hosted * 64 + 8 * p.1) (leBytes 8 p.2))
          (g.slots.zipIdx.foldl (fun m (n : Nat × Nat) => Tab.writeBytes 0 m (g.hosted.slotByte n.1 + g.seg * 8192)
            ((f.payload.drop (n.2 * g.hosted.stride)).take (min g.hosted.stride 8192))) s.landing) ∧
        t.rd Reg.copiesCommitted 0 = (s.rd Reg.copiesCommitted 0 + g.n) % 2 ^ 64 ∧ s.settlesFrame f 0 t ∧
        s.took rx [(Reg.expired, 0), (Reg.copiesCommitted, 0), (Reg.copiesCommittedHbm, 0), (Reg.noRoute, 0)] t ∧
        t = { s with objs := t.objs, landing := t.landing, flasks := t.flasks, peers := t.peers, control := t.control, queueSeq := t.queueSeq
                     quietSince := t.quietSince, krdInt := t.krdInt }) ∧
    (∀ h r key ix u u' c, f.close = true → s.landingHost f.window = some h → s.pourRef h f.op = some r →
      (r.plan.pourFlasks r.layer r.drag).filterMap (fun x =>
        ((r.plan.listOf x.2).sources.findIdx? fun (y : Source) => y.node == f.src).map fun i => (flaskKey r.planId x.1, i)) = [(key, ix)] →
      u = (s.flask key).src ix → u.late = none → u.closed = false → u.finalClose = false → (s.flask key).state ≤ 1 → c = f.closeInfo →
      u' = { u with named := u.named + (c.2.2.filter fun e => e.1 == key % 2 ^ 16).foldl (fun n e => n + e.2) 0, total := c.1
                    sumEntries := u.sumEntries + c.2.2.foldl (fun n e => n + e.2) 0 } →
      (c.2.1 = true → c.1 = u'.sumEntries ∧ u.committed ≤ u'.named) →
      (∀ p hd, s.hosted key = some (p, hd) → s.othersOpen p hd key ix) → Runs (.pourCloseFrame rx f) s fun t =>
        (∃ fl, (∀ k, t.flask k = if k = key then fl else s.flask k) ∧ fl.state = 1 ∧
          fl.fillTick = (if (s.flask key).state = 0 then s.tick else (s.flask key).fillTick) ∧
          fl.src ix = (if c.2.1 then { u' with finalClose := true, closeSeq := f.seq } else u') ∧ (∀ i, i ≠ ix → fl.src i = (s.flask key).src i) ∧
          fl = { s.flask key with state := fl.state, fillTick := fl.fillTick, srcs := fl.srcs }) ∧
        s.settlesFrame f 0 t ∧ s.took rx [(Reg.expired, 0), (Reg.noRoute, 0)] t ∧
        t = { s with objs := t.objs, flasks := t.flasks, peers := t.peers, control := t.control, queueSeq := t.queueSeq
                     quietSince := t.quietSince, krdInt := t.krdInt }) ∧
    (∀ b drag seg row rank b', f.close = false → f.ret = true → s.block f.ctx = some b → b.returnHalf f.op = some drag → b.returnShape f = some (1, seg) →
      tagsAgree f.heat (f.tags 1 b.a) = true → (b.state = 0 ∨ b.state = 3) → s.answerFault b f drag f.tag seg = none → row = bits f.tag 15 4 → rank = bits f.tag 3 0 →
      b' = b.modSlot row (fun sl => { sl with
        areas := ((slice f.payload 0 (min b.a f.length)).zipIdx.foldl (fun (m : Tab Byte) p => Tab.put m (b.areaOf false rank * 2 ^ 20 + seg * 8192 + p.2) p.1) sl.areas)
        segments := setBit sl.segments (64 * rank + seg)
        received := if segmentsOf b.a ≤ ({ sl with segments := setBit sl.segments (64 * rank + seg) } : Slot).segCount rank (segmentsOf b.a)
          then setBit sl.received rank else sl.received }) →
      Runs (.returnAnswerFrame rx f) s fun t =>
        (∀ x, t.block x = if x = f.ctx then
          some (if b'.ready row then b'.modSlot row fun sl => { sl with state := 2, queuedAt := s.queueSeq } else b') else s.block x) ∧
        s.settlesFrame f 0 t ∧ s.took rx [(Reg.expired, 0), (Reg.noRoute, 0)] t ∧
        t = { s with objs := t.objs, blocks := t.blocks, peers := t.peers, control := t.control, queueSeq := t.queueSeq
                     quietSince := t.quietSince, krdInt := t.krdInt })

/-- R334, R337, R338, R344 to R348: a launched BROADCAST runs on a member below position 0 with a working area of zeros, waiting for its segments; a segment from the parent is consumed, copied into the working area; a child's report is noted; the parent's commit or abort ends the collective and makes its COLL command ready, OK or COLL_ABORT; the step watchdog of a member below position 0 asks its parent for an abort. -/
def Obligations.CollectivesRunOnAMember : Prop :=
  ∀ (s : State) (g q : Nat) (c : Coll), s.awake → q = s.collPos g c → q ≠ 0 → c.op = 3 → c.ring = false → (s.group g).stash = [] →
    (∀ rest uid k, (s.group g).running = none → (s.group g).queue = c :: rest → s.works 11 = true → s.groupReady g = true → s.collsRunning < 8 → c.uid = some uid →
      s.cmd uid = some k → c.resultAddr = 0 → c.got = [] → c.sentTo = [] → 0 < c.operandBytes → c.failed = 0 → Runs (.collLaunch g) s fun t =>
        (t.group g).running = some { c with stepTick := s.tick, work := List.replicate c.operandBytes 0 } ∧
        t.group g = { s.group g with running := (t.group g).running, queue := rest } ∧ (∀ h, h ≠ g → t.group h = s.group h) ∧
        t.rd Reg.groupStatus g = 3 ∧ t.rd Reg.collStarted 0 = (s.rd Reg.collStarted 0 + 1) % 2 ^ 64 ∧ s.keepsObjects t [(Reg.collStarted, 0), (Reg.groupStatus, g)] ∧
        t = { s with objs := t.objs, groups := t.groups, quietSince := t.quietSince, krdInt := t.krdInt }) ∧
    ((s.group g).running = some c → c.failed = 0 →
      (∀ rx f, s.hearsFresh rx f → f.cls = 4 → s.groupOfKey (bits f.aux 29 14) = some g → f.aux % 2 ^ 14 = c.number % 2 ^ 14 →
        (∀ r k, f.op / 2 ^ 12 = 0 → (s.group g).members.findIdx? (· == f.src) = some r → c.position (s.group g).size r = treeParent q → k = f.op % 2 ^ 12 →
          k < segsOf (0, c.operandBytes) → (16, k) ∉ c.got → f.offset = 8192 * k → f.length = min c.operandBytes (8192 * k + 8192) - 8192 * k →
          (∃ j, j < segsOf (0, c.operandBytes) ∧ j ≠ k ∧ (16, j) ∉ c.got) → 16 ∉ c.sentTo → Runs (.collSegment rx f) s fun t =>
            (t.group g).running = some { c with
              work := splice c.work (8192 * k) (f.payload.map (·.toNat)), got := (16, k) :: c.got, stepTick := if c.dataDone then c.stepTick else s.tick } ∧
            t.group g = { s.group g with running := (t.group g).running } ∧ (∀ h, h ≠ g → t.group h = s.group h) ∧ s.settlesFrame f 0 t ∧
            s.took rx [(Reg.expired, 0), (Reg.noRoute, 0)] t ∧
            t = { s with objs := t.objs, groups := t.groups, peers := t.peers, control := t.control, queueSeq := t.queueSeq
                         quietSince := t.quietSince, krdInt := t.krdInt }) ∧
        (∀ r p, f.op / 2 ^ 12 = 1 → (s.group g).members.findIdx? (· == f.src) = some r → p = c.position (s.group g).size r → c.dataDone = true → 16 ∈ c.sentTo →
          (∃ ch, ch ∈ treeChildren (s.group g).size q ∧ ch.2 ≠ p ∧ ch.2 ∉ c.reports) → Runs (.collReport rx f) s fun t =>
            (t.group g).running = some { c with reports := p :: c.reports } ∧
            t.group g = { s.group g with running := (t.group g).running } ∧ (∀ h, h ≠ g → t.group h = s.group h) ∧ s.settlesFrame f 0 t ∧
            s.took rx [(Reg.expired, 0), (Reg.noRoute, 0)] t ∧
            t = { s with objs := t.objs, groups := t.groups, peers := t.peers, control := t.control, queueSeq := t.queueSeq
                         quietSince := t.quietSince, krdInt := t.krdInt }) ∧
        (∀ (r uid : Nat) (k : Cmd) (row : Instr) (ok : Bool), row = (if ok then Instr.collCommit rx f else .collAbort rx f) → f.op / 2 ^ 12 = (if ok then 2 else 3) →
          (s.group g).members.findIdx? (· == f.src) = some r → c.position (s.group g).size r = treeParent q → treeChildren (s.group g).size q = [] →
          c.uid = some uid → s.cmd uid = some k → k.ready = false → k.marked = 0 → hOp k.header = 7 → c.resultAddr = 0 → s.rb Reg.completionTallyEnable g = false →
          Runs row s fun t =>
            (∃ k', t.cmd uid = some k' ∧ k'.ready = true ∧ k'.status = (if ok then 0 else 0x14) ∧ k'.readyTick = s.tick) ∧
            (t.group g).running = none ∧ t.group g = { s.group g with running := none, outgoing := (t.group g).outgoing } ∧ (∀ h, h ≠ g → t.group h = s.group h) ∧
            t.rd Reg.collNumber g = (s.rd Reg.collNumber g + 1) % 2 ^ 32 ∧ t.rd Reg.groupStatus g = 2 ∧
            (∀ o, o = (if ok then Reg.collCommitted else Reg.collAborted) → t.rd o 0 = (s.rd o 0 + 1) % 2 ^ 64 ∧
              s.took rx [(Reg.expired, 0), (Reg.noRoute, 0), (Reg.collNumber, g), (Reg.groupStatus, g), (o, 0), (Reg.hostDeadlineMisses, k.host)] t) ∧
            s.settlesFrame f 0 t ∧ t.mem = s.mem ∧ t.landing = s.landing ∧ t.tallies = s.tallies)) ∧
      (∀ m, m = (s.group g).node (c.rankAt (s.group g).size (treeParent q)) → (s.peer m).cached = true → (s.peer m).state = 2 → s.works 11 = true →
        s.elapsed c.stepTick (s.rd Reg.collStepTicks g) = true → c.dataDone = false → c.abortSent = false → 16 ∉ c.sentTo →
        (∃ j, j < segsOf (0, c.operandBytes) ∧ (16, j) ∉ c.got) → Runs (.collWatchdog g) s fun t =>
          (t.group g).running = some { c with abortSent := true } ∧ t.group g = { s.group g with running := (t.group g).running } ∧
          (∀ h, h ≠ g → t.group h = s.group h) ∧
          (∃ r, (r ∈ (t.peer m).waiting ∨ ∃ n, Tab.find (t.peer m).coll.sent n = some r) ∧ r.frame.cls = 4 ∧ r.frame.op = 3 * 2 ^ 12 ∧ r.frame.dst = m ∧
            r.frame.src = s.nodeId ∧ r.frame.aux = s.rd Reg.groupKey g * 2 ^ 14 + c.number % 2 ^ 14 ∧ r.frame.payload = []) ∧
          ({ s.peer m with used := s.tick } : Peer).sentFrom (t.peer m) ∧ (∀ n, n ≠ m → t.peer n = s.peer n) ∧
          t.rd Reg.collWatchdogFires 0 = (s.rd Reg.collWatchdogFires 0 + 1) % 2 ^ 64 ∧ s.keepsObjects t [(Reg.collWatchdogFires, 0), (Reg.noRoute, 0)] ∧
          t = { s with objs := t.objs, groups := t.groups, peers := t.peers, atomReqs := t.atomReqs, queueSeq := t.queueSeq
                       quietSince := t.quietSince, krdInt := t.krdInt }))

/-- R187, R189, R234, R235, R237, R239: when no pour frame waits for a runner, the arbiter of a port starts a frame of the first class in turn that has an eligible one: a frame of this engine, stamped with the Active epoch and sealed, that is outstanding from then on or is gone from those that waited; a transit frame, whose buffer is free again; or a hop credit frame. -/
def Obligations.ArbitersStartFrames : Prop :=
  ∀ (s : State) (p c i : Nat), s.awake → s.sends p = true → (∀ q ∈ s.peers, ∀ e ∈ q.2.data.sent, e.2.due = true → e.2.route ≠ none) → i < 7 →
    c = ((s.portRec p).classPtr + i) % 7 → (∀ j, j < i → s.nextStart p (((s.portRec p).classPtr + j) % 7) = none) →
    (∀ r w e f, s.inject = none → r.route = some w → s.pathEntry r w = some e →
      (f = RFrame.seal { r.frame with epoch := s.rd Reg.activeVersion 0 % 2 } → s.nextStart p c = some (.control r) → Runs (.frameStart p) s fun t =>
        (∃ l, s.leavesOwn p r w e f l t) ∧ (t.portRec p).classPtr = (c + 1) % 7 ∧ t.control = s.control.filter (fun x => x.ord != r.ord) ∧ t.peers = s.peers ∧
        t.atomReqs = s.atomReqs) ∧
      (∀ n cl k, f = RFrame.seal { r.frame with epoch := s.rd Reg.activeVersion 0 % 2, retry := decide (0 < r.sends) } → s.nextStart p c = some (.flow n cl k r) →
        Runs (.frameStart p) s fun t =>
          (∃ l, s.leavesOwn p r w e f l t) ∧ (t.portRec p).classPtr = (c + 1) % 7 ∧ t.control = s.control ∧ (∀ m, m ≠ n → t.peer m = s.peer m) ∧
          t.peer n = (s.peer n).modFlow cl (fun fl => { fl with sent := Tab.put fl.sent k { r with due := false, lastTick := s.tick, sends := r.sends + 1 } }) ∧
          t.atomReqs = if cl = 1 then Tab.modify s.atomReqs (reqKey n r.frame.seq) (fun q => { q with tick := s.tick }) else s.atomReqs)) ∧
    (∀ a b ip o f l, s.nextStart p c = some (.transit a b ip o f) →
      l = s.wireFrame p b { kind := 0, waypoints := 0, a := 0, b := 0, c := 0, udpSource := 0, flowLabel := 0, dscp := 0, rsvd := 0 } 0 f → Runs (.frameStart p) s fun t =>
        s.leaves p 6 0 (2 ^ 20) f l t ∧ (t.portRec p).classPtr = (c + 1) % 7 ∧ (t.portRec p).transit = (s.portRec p).transit.filter (fun x => x.2.2.2.1 != o) ∧
        (t.portRec ip).freed = Tab.set 0 (s.portRec ip).freed a ((Tab.get 0 (s.portRec ip).freed a + 1) % 256) ∧ (t.portRec ip).creditDue = true ∧
        (t.portRec p).creditUsed = (if f.dst = Config.neighbour p then (s.portRec p).creditUsed
          else Tab.set 0 (s.portRec p).creditUsed b ((Tab.get 0 (s.portRec p).creditUsed b + 1) % 256)) ∧
        (∀ q, q ≠ p → q ≠ ip → t.portRec q = s.portRec q) ∧ t.rd Reg.forwardedFrames p = (s.rd Reg.forwardedFrames p + 1) % 2 ^ 64 ∧
        t.peers = s.peers ∧ t.atomReqs = s.atomReqs ∧ t.control = s.control) ∧
    (∀ f l, s.nextStart p c = some .credit → f = RFrame.seal { s.hopCreditFrame p with epoch := s.rd Reg.activeVersion 0 % 2 } →
      l = s.wireFrame p 4 { kind := 0, waypoints := 0, a := 0, b := 0, c := 0, udpSource := 0, flowLabel := 0, dscp := 0, rsvd := 0 } 0 f → Runs (.frameStart p) s fun t =>
        s.leaves p 5 0 (2 ^ 20) f l t ∧ (t.portRec p).classPtr = (c + 1) % 7 ∧ (t.portRec p).creditDue = false ∧
        f.payload = (List.range 8).map (fun i => BitVec.ofNat 8 (Tab.get 0 (s.portRec p).freed i)) ∧ (∀ q, q ≠ p → t.portRec q = s.portRec q) ∧
        t.rd Reg.framesSent 0 = (s.rd Reg.framesSent 0 + 1) % 2 ^ 64 ∧ t.peers = s.peers ∧ t.atomReqs = s.atomReqs ∧ t.control = s.control)

/-- R211 to R213, R224, R225, R227, R235, R243, R245: a due ACK reports the settlements of its flows; a held frame is reported received; a frame or a handshake without an answer goes again, and a request does until its retries are over, when its outcome is unknown; a credit is free again after its retention, and what waited for it goes; a reply-cache entry, a frame's life and the quiet time of a new incarnation end in their time. -/
def Obligations.TransportTimersRun : Prop :=
  ∀ (s : State) (n : Nat), s.awake →
    (s.works 6 = true →
      (∀ due, due = [0, 4].filter (fun c => decide (0 < ((s.peer n).rflow c).unacked)) → due ≠ [] → (∀ c, c ∈ [0, 4] → ((s.peer n).rflow c).report = []) →
        Runs (.ackSend n) s fun t =>
          s.acked n (due.map fun c => ((s.peer n).rflow c).block c 0 0) t ∧ (∀ m, m ≠ n → t.peer m = s.peer m) ∧
          t.peer n = { s.peer n with rdata := if 0 ∈ due then (s.peer n).rdata.acked else (s.peer n).rdata
                                     rcoll := if 4 ∈ due then (s.peer n).rcoll.acked else (s.peer n).rcoll, routePtr := (t.peer n).routePtr }) ∧
      (∀ (c seq : Nat) (h : Nat × Nat × Bool) (fl : RecvFlow), c = 0 ∨ c = 4 → ((s.peer n).rflow c).held.find? (fun h => h.1 == seq && !h.2.2) = some h → s.elapsed h.2.1 (s.rd Reg.ackHoldTicks 0) = true →
        ((s.peer n).rflow c).report = [] →
        fl = { (s.peer n).rflow c with held := ((s.peer n).rflow c).held.map fun x => if x.1 = seq then (x.1, x.2.1, true) else x } → Runs (.ackHoldExpiry n c seq) s fun t =>
          s.acked n [fl.block c 0 0] t ∧ (∀ m, m ≠ n → t.peer m = s.peer m) ∧
          t.peer n = { (s.peer n).modRflow c (fun _ => fl.acked) with routePtr := (t.peer n).routePtr }) ∧
      (∀ c seq k r, c = 0 ∨ c = 4 → s.outstanding n c seq = some (k, r) → r.due = false → ((s.peer n).flow c).cumReceived ≤ k ∨ r.unsure = true →
        s.elapsed r.lastTick (s.rd Reg.retransmitTicks 0) = true → r.sends ≤ s.rd Reg.retransmitLimit 0 → (s.peer n).asleep = false →
        (r.pace ≤ 1 → s.wayAgain n r ≠ none) → Runs (.retransmitTimeout n c seq) s fun t =>
          s.resent n c k r t ∧ s.keepsObjects t [(Reg.noRoute, 0)] ∧
          t = { s with objs := t.objs, peers := t.peers, queueSeq := t.queueSeq, quietSince := t.quietSince, krdInt := t.krdInt }) ∧
      (∀ op seq p, (s.peer n).handshake = some op → s.elapsed (s.peer n).mgmtTick (s.rd Reg.retransmitTicks 0) = true → (s.peer n).mgmtSends ≤ s.rd Reg.retransmitLimit 0 →
        p = { s.peer n with mgmtSends := (s.peer n).mgmtSends + 1, mgmtTick := s.tick } → Runs (.retransmitTimeout n 5 seq) s fun t =>
          s.sendsMgmt n op p t ∧ t.peer n = { p with routePtr := (t.peer n).routePtr } ∧ s.onlyPeer n t) ∧
      (∀ seq q k r, Tab.find s.atomReqs (reqKey n seq) = some q → q.dst = n → q.seq = seq → s.outstanding n 1 seq = some (k, r) → r.due = false →
        s.elapsed q.tick (s.rd Reg.atomicRetryTicks 0) = true → 1 < r.pace →
        (q.tries < s.rd Reg.atomicRetryLimit 0 → Runs (.atomicRetryTimeout n seq) s fun t =>
          s.resent n 1 k r t ∧ t.atomReqs = Tab.modify s.atomReqs (reqKey n seq) (fun q => { q with tries := q.tries + 1, tick := s.tick }) ∧
          s.keepsObjects t [(Reg.noRoute, 0)] ∧
          t = { s with objs := t.objs, peers := t.peers, queueSeq := t.queueSeq, atomReqs := t.atomReqs, quietSince := t.quietSince, krdInt := t.krdInt }) ∧
        (∀ uid p k', s.rd Reg.atomicRetryLimit 0 ≤ q.tries → q.why = .rat uid 0 → s.parts uid = [p] → p.left = 1 → p.status = 0 → s.cmd uid = some k' → k'.ready = false →
          hOp k'.header = 0x12 → Runs (.atomicRetryTimeout n seq) s fun t =>
            (∃ x, t.cmd uid = some x ∧ x.ready = true ∧ x.status = 0x11 ∧ x.readyTick = s.tick) ∧
            t.rd Reg.outcomeUnknown 0 = (s.rd Reg.outcomeUnknown 0 + 1) % 2 ^ 64 ∧
            ({ s.peer n with creditEnds := (s.peer n).creditEnds ++ [s.tick] } : Peer).sentFrom (t.peer n) ∧ (t.peer n).flushed ∧ (∀ m, m ≠ n → t.peer m = s.peer m) ∧
            ((s.peer n).waiting = [] → Tab.find t.atomReqs (reqKey n seq) = none) ∧ t.mem = s.mem ∧ t.tallies = s.tallies ∧
            s.keepsObjects t [(Reg.noRoute, 0), (Reg.outcomeUnknown, 0), (Reg.hostDeadlineMisses, k'.host)]))) ∧
    (∀ x, (s.peer n).creditEnds.find? (fun x => s.elapsed x (s.rd Reg.replyRetentionTicks 0)) = some x → Runs (.creditRelease n) s fun t =>
      ({ s.peer n with creditEnds := (s.peer n).creditEnds.erase x } : Peer).sentFrom (t.peer n) ∧ (t.peer n).flushed ∧ s.onlyPeer n t ∧ t.control = s.control ∧
      s.keepsObjects t [(Reg.noRoute, 0)]) ∧
    (∀ i, s.replyCache.findIdx? (fun e => s.elapsed e.tick (s.rd Reg.replyRetentionTicks 0)) = some i → Runs .replyCacheExpiry s fun t =>
      t = { s with replyCache := s.replyCache.eraseIdx i, quietSince := t.quietSince, krdInt := t.krdInt }) ∧
    Runs (.frameLifeExpiry n) s (fun t =>
      t.portRec n = { s.portRec n with inFlight := (s.portRec n).inFlight.filter fun e => !s.elapsed e.2.1 (s.rd Reg.maxFrameLifeTicks 0) } ∧
      (∀ q, q ≠ n → t.portRec q = s.portRec q) ∧ t = { s with ports := t.ports, quietSince := t.quietSince, krdInt := t.krdInt }) ∧
    (∀ a, s.firstUp = some a → s.elapsed a (s.rd Reg.maxFrameLifeTicks 0) = true → Runs .incarnationQuietEnd s fun t =>
      t = { s with quiet := false, quietSince := t.quietSince, krdInt := t.krdInt })

/-- R440: a Runnable context of class standard or background whose ReadyTick lies StarveTicks or more in the past takes the interactive class, every other its own; that class orders the contexts of R439 and the victims of R441. Aging never makes a context urgent, and the abort test looks at a command's own class. -/
def Obligations.AgingTakesTheInteractiveClass : Prop :=
  State.reset.rd Reg.starveTicks 0 = 31250 ∧
    ∀ (s : State) (x : Nat) (c : Ctx),
      s.agedClass x c = (if c.state = 2 ∧ (s.classOf x c = 2 ∨ s.classOf x c = 3) ∧ s.rd Reg.starveTicks 0 ≤ s.since c.readyTick then 1 else s.classOf x c) ∧
      (s.agedClass x c = 0 ↔ s.classOf x c = 0) ∧
      (∀ y d, s.agedClass x c < s.agedClass y d → s.runsBefore (x, c) (y, d) = true ∧ s.runsBefore (y, d) (x, c) = false) ∧
      (∀ k e, s.atEntry e = some (x, c) → c.state = 2 → (s.entryGroup k e = some 3 ↔ k < s.agedClass x c)) ∧
      (∀ y d, s.abortTest x c y d = true → s.classOf x c = 0 ∧ s.classOf y d ≠ 0)

/-- R439, R359, R360, R381, R383, R457: an idle sequencer runs its best resident Runnable context: a new command from word 0, with its arguments in g1 to g3 and the context's g4 to g15, a replay from word 0 with the entry copy's and the effects of the attempt before to be suppressed, and a released context from where it rested. R436, R441, R443: the first waiting context that finds an entry is swapped in there from the context cache, its victim out to the cache. R381: a watchdog that has run RestWatchdogTicks is up for the next word. STARVE_AGING changes nothing (the model's choice, log entry 72: R440's class is read from ReadyTick). -/
def Obligations.ContextsRunAndAreSwappedIn : Prop :=
  ∀ (s : State) (n x : Nat) (c : Ctx), s.awake → s.works 1 = true → s.ctx x = some c →
    (n < 4 → s.running n = none → s.bestOf n = some (x, c) →
      (∀ u k, c.cmd = none → s.nextCmd x = some (u, k) → s.cmd u = some k → Runs (.contextSchedule n) s fun t => ∃ d, s.schedules n x c d t ∧
        d.enters u k.header (fun r => c.greg r) ∧ d.suppress = 0 ∧ d.step = c.step ∧ d.heat = c.heat ∧ d.pattern = c.pattern ∧
        t.cmd u = some { k with started := true } ∧ ∀ v, v ≠ u → t.cmd v = s.cmd v) ∧
      (∀ u k, c.cmd = some u → c.restart = true → s.cmd u = some k → Runs (.contextSchedule n) s fun t => ∃ d, s.schedules n x c d t ∧
        d.enters u k.header (fun r => c.entryReg r) ∧ d.suppress = max c.effectCount c.suppress ∧
        d.suppressCrc = (if c.effectCount < c.suppress then c.suppressCrc else c.effectCrc) ∧ d.step = c.step ∧ d.heat = c.heat ∧ d.pattern = c.pattern ∧
        t.cmd u = some { k with replayed := true } ∧ ∀ v, v ≠ u → t.cmd v = s.cmd v) ∧
      (∀ u, c.cmd = some u → c.restart = false → Runs (.contextSchedule n) s fun t => ∃ d, s.schedules n x c d t ∧
        d = { c with state := 3, waitTicks := d.waitTicks, runTick := s.tick, watchOn := true, watchdog := false, take := false, hold := 0, rest := none } ∧
        t.cmds = s.cmds)) ∧
    (∀ e, s.waiting.find? (fun p => (s.chooseEntry p.1 p.2).isSome) = some (x, c) → s.chooseEntry x c = some e → c.residency = 2 → s.sound → s.untraced →
      s.running (e / 16) = none →
      (s.atEntry e = none → Runs .contextSwap s fun t =>
        t.ctx x = some { c with residency := 1, place := e, swapIns := satAdd 32 c.swapIns 1 } ∧ s.keepsContexts t x ∧
        t.rd Reg.hostSwapIns c.host = (s.rd Reg.hostSwapIns c.host + 1) % 2 ^ 64 ∧ s.keepsObjects t [(Reg.hostSwapIns, c.host)] ∧
        t = { s with ctxs := t.ctxs, objs := t.objs, quietSince := t.quietSince, krdInt := t.krdInt }) ∧
      (∀ y d m, s.atEntry e = some (y, d) → s.ctx y = some d → s.cacheSlot d.host = some m → Runs .contextSwap s fun t =>
        t.ctx x = some { c with residency := 1, place := e, swapIns := satAdd 32 c.swapIns 1 } ∧
        t.ctx y = some { d with residency := 2, place := m, outTick := s.tick, savedInCmd := d.cmd.isSome, dirty := true } ∧
        (∀ z, z ≠ x → z ≠ y → t.ctx z = s.ctx z) ∧ s.keepsObjects t [(Reg.hostSwapIns, c.host)] ∧
        t = { s with ctxs := t.ctxs, objs := t.objs, quietSince := t.quietSince, krdInt := t.krdInt })) ∧
    (s.running n = some (x, c) → c.state = 3 → c.watchOn = true → s.elapsed c.runTick (s.rd Reg.restWatchdogTicks 0) = true → Runs (.restWatchdog n) s fun t =>
      t.ctx x = some { c with watchdog := true, watchOn := false } ∧ s.keepsContexts t x ∧
      t = { s with ctxs := t.ctxs, quietSince := t.quietSince, krdInt := t.krdInt }) ∧
    Runs (.starveAging x) s fun t => t = { s with krdInt := t.krdInt }

/-- R327: a wait whose tally has reached its threshold is released: its TALLY command is ready with status OK, its resting context is Runnable, or Running on where it still holds its sequencer; a context that waits for two tallies stays until both are released; the poll list's waits are tested and released in the same way. R291, R393: a Pop or an Alloc held for its limit returns 0. R354: a member whose epoch is not armed within BiasLateTicks of a DISPATCH's hold is Left, and expects no step any more. R402, R408: MLD's phases of a COPY of one descriptor: the source staged, the pads written, then every valid element moved in loop order, and the COPY is ready. -/
def Obligations.WaitsHoldsAndCopyPhasesEnd : Prop :=
  ∀ (s : State), s.awake →
    (∀ w, s.works 10 = true → s.tallyFlip = [] →
      (∀ pos, s.watchTable[pos]? = some w → w.hit = true → s.pollList = [] →
        (∀ u k, w.who = .command u → s.cmd u = some k → k.ready = false → hOp k.header = 6 → Runs (.tallyWaitRelease pos) s fun t =>
          (∃ k', t.cmd u = some k' ∧ k'.ready = true ∧ k'.status = 0 ∧ k'.readyTick = s.tick) ∧ t.tallies = s.tallies ∧ t.mem = s.mem ∧
          t.watchTable = (s.watchTable.eraseIdx pos).filter fun v => v.who != .command u) ∧
        (∀ x i c r, w.who = .context x i → s.ctx x = some c → c.rest = some r →
          (r.combine ≠ 2 ∨ ∀ v ∈ s.watchTable.eraseIdx pos, ∀ j, v.who ≠ .context x j) →
            (c.state = 5 → (c.residency = 1 → s.running c.seq = none) → Runs (.tallyWaitRelease pos) s fun t =>
              t.ctx x = some { c with state := 2, readyTick := s.tick, rest := none, hold := 0 } ∧ s.keepsContexts t x ∧
              (∀ v ∈ t.watchTable, ∀ j, v.who ≠ .context x j) ∧
              t = { s with ctxs := t.ctxs, watchTable := t.watchTable, quietSince := t.quietSince, krdInt := t.krdInt }) ∧
            (c.state = 4 → c.hold = 1 → c.take = false → Runs (.tallyWaitRelease pos) s fun t =>
              t.ctx x = some { c with state := 3, hold := 0, rest := none, runTick := s.tick, watchOn := true } ∧ s.keepsContexts t x ∧
              (∀ v ∈ t.watchTable, ∀ j, v.who ≠ .context x j) ∧
              t = { s with ctxs := t.ctxs, watchTable := t.watchTable, quietSince := t.quietSince, krdInt := t.krdInt })) ∧
        (∀ x i c r v j, w.who = .context x i → s.ctx x = some c → c.rest = some r → r.combine = 2 → v ∈ s.watchTable.eraseIdx pos → v.who = .context x j →
          Runs (.tallyWaitRelease pos) s fun t =>
            t = { s with watchTable := s.watchTable.eraseIdx pos, quietSince := t.quietSince, krdInt := t.krdInt })) ∧
      (∀ u k, s.pollList.filter (fun v => s.tallyMeets v.tally v.thresh) = [w] → w.who = .command u → s.cmd u = some k → k.ready = false → hOp k.header = 6 →
        Runs .tallyPoll s fun t =>
          (∃ k', t.cmd u = some k' ∧ k'.ready = true ∧ k'.status = 0 ∧ k'.readyTick = s.tick) ∧ t.tallies = s.tallies ∧ t.mem = s.mem ∧
          t.pollList = (s.pollList.filter fun v => !s.tallyMeets v.tally v.thresh).filter fun v => v.who != .command u) ∧
      ((∀ v ∈ s.pollList, s.tallyMeets v.tally v.thresh = false) → Runs .tallyPoll s fun t => t = { s with krdInt := t.krdInt })) ∧
    (∀ h r, s.heldReads.find? (fun r => r.host == h && r.cls == 8) = some r → s.elapsed r.tick (s.rd Reg.groupStallTicks h) = true →
      Runs (.groupStallExpiry h) s fun t => t.out = .pageData (popOffset h) (16 + h) 0 :: s.out ∧
        t.heldReads = s.heldReads.eraseP (fun r => r.host == h && r.cls == 8) ∧ t.rd Reg.popEmpty 0 = (s.rd Reg.popEmpty 0 + 1) % 2 ^ 64 ∧
        s.keepsObjects t [(Reg.popEmpty, 0)] ∧
        t = { s with out := t.out, heldReads := t.heldReads, objs := t.objs, quietSince := t.quietSince, krdInt := t.krdInt }) ∧
    (∀ h cl r, s.heldReads.find? (fun r => r.host == h && r.cls == cl) = some r → cl < 6 → s.elapsed r.tick (s.rd Reg.allocStallTicks 0) = true →
      Runs (.allocStallExpiry h cl) s fun t => t.out = .pageData (allocOffset h cl) (16 + h) 0 :: s.out ∧ t.heldReads = s.heldReads.erase r ∧
        t.rd Reg.allocTimeouts 0 = (s.rd Reg.allocTimeouts 0 + 1) % 2 ^ 64 ∧ s.keepsObjects t [(Reg.allocTimeouts, 0)] ∧
        t = { s with out := t.out, heldReads := t.heldReads, objs := t.objs, quietSince := t.quietSince, krdInt := t.krdInt }) ∧
    (∀ b t0 a, (s.balance b).holdTick = some t0 → (s.balance b).expect = some a → s.rd Reg.balanceState b = 1 → s.works 12 = true →
      s.elapsed t0 (s.rd Reg.biasLateTicks b) = true → Runs (.biasLate b) s fun t =>
        t.rd Reg.balanceState b = 2 ∧ (t.balance b) = { s.balance b with expect := none, holdTick := none } ∧ (∀ d, d ≠ b → t.balance d = s.balance d) ∧
        (∀ d, t.heldByBias d ≠ some b) ∧ t.rd Reg.biasLateEvents 0 = (s.rd Reg.biasLateEvents 0 + 1) % 2 ^ 64 ∧
        s.keepsFamilies t (Reg.balanceState :: Reg.biasLateEvents :: Reg.biasHeldTicks :: faultObjects) ∧ t.ctxs = s.ctxs ∧ t.cmds = s.cmds ∧ t.disps = s.disps) ∧
    ∀ id c r sa da,
      (s.moves id c r sa da 1 → r.how = 2 → Runs (.mouldPhaseDone id) s fun t => t.mem = s.mem ∧ Tab.find t.copies id = some { c with
        phase := if r.desc.padded then 2 else 3
        runs := [{ r with staged := (boxPositions r.desc.valid).map fun p => (0, s.memRead (r.srcByte sa (dotInt p r.desc.srcStr)) r.desc.e) }] }) ∧
      (s.moves id c r sa da 2 → Runs (.mouldPhaseDone id) s fun t => Tab.find t.copies id = some { c with phase := 3 } ∧
        t.mem = r.desc.pads.foldl (fun m o => Tab.writeBytes memDefault m (r.dstByte da o) (leBytes r.desc.e r.desc.padValue)) s.mem) ∧
      (∀ k, s.moves id c r sa da 3 → r.how ≠ 2 → s.cmd c.uid = some k → k.ready = false → k.marked = 0 → hOp k.header = 3 → Runs (.mouldPhaseDone id) s fun t =>
        t.mem = (boxPositions r.desc.valid).foldl (fun m p =>
          Tab.writeBytes memDefault m (r.dstByte da (dotInt p r.desc.dstStr)) (s.memRead (r.srcByte sa (dotInt p r.desc.srcStr)) r.desc.e)) s.mem ∧
        t.copies = [] ∧ (∃ k', t.cmd c.uid = some k' ∧ k'.ready = true ∧ k'.status = 0 ∧ k'.readyTick = s.tick) ∧ t.landing = s.landing ∧ t.tallies = s.tallies)

/-- R299, R301, R146, R374, R452, R454: STC opens the block of a DISPATCH that may start at its place in the stitch store, its padding rows Written with zeros, and its scoring begins at its level. R116, R136, R149: a row that settles in full mode holds its chosen ranks. R145, R374: a row's scores end with its gate weights in its slot; the last row ends SCORE and its score tally counts one. R174, R175: SRT sorts a delivery group by destination, expert and rank and appends it to the bins. -/
def Obligations.DispatchesAreScoredAndSorted : Prop :=
  ∀ (s : State) (uid : Nat) (v : Step), s.awake → s.sound → s.untraced → s.stepOf uid = some v →
    (∀ c base, s.works 2 = true → s.works 9 = true → s.mayStart v = true → s.ctx v.d.ctx = some c → s.block v.d.ctx = none →
      s.stitchPlace v.k.host (v.block c 0).bytes = some base → v.k.scoredRows ≠ [] → Runs (.blockOpen uid) s fun t =>
        (∃ b, (∀ x, t.block x = if x = v.d.ctx then some b else s.block x) ∧ b = { v.block c base with slots := b.slots, rowsWritten := b.rowsWritten } ∧
          b.rowsWritten = ((List.range (hRows v.k.header)).filter fun r => isPadding (v.k.session r)).length ∧
          ∀ r, b.slot r = if r < hRows v.k.header ∧ isPadding (v.k.session r) = true then
            { session := 0xFFFFFFFF, padding := true, state := 4, result := zeroRow (hResultFmt v.k.header) v.ly.hiddenDim b.s } else {}) ∧
        (∃ d, t.disp uid = some d ∧ d.phase = 1 ∧ d.level = max (monitorLevel v.k.header v.ly.fallbackK c s.tick) c.armLevel ∧
          d.early = earlyOn v.k v.ly ∧ d.armed = true ∧ d.mask = ((s.maskState v.d.plan).atStep v.d.step).inForce ∧ d.notLive = s.deadNodes v.p ∧
          d.bias = (s.layerState v.d.plan v.d.layer).biasAt v.d.step ∧
          d.rowState.map (·.1) = v.k.scoredRows ∧ (∀ r ∈ d.rowState, r.2 = { chunk := r.2.chunk }) ∧
          d = { v.d with phase := 1, level := d.level, early := d.early, armed := true, mask := d.mask, notLive := d.notLive, bias := d.bias
                         nonDet := d.nonDet, hbm := d.hbm, rowState := d.rowState } ∧
          t.cmd uid = some { v.k with scoreTick := s.tick, level := d.level, modes := v.modes d.early d.level d.nonDet d.hbm }) ∧
        (∀ u, u ≠ uid → t.disp u = s.disp u ∧ t.cmd u = s.cmd u) ∧ t.pourQueue = s.pourQueue.filter (· != uid) ∧
        t.ctx v.d.ctx = some { c with affinity := if hLogits v.k.header then 3 else v.ly.slot } ∧ s.keepsContexts t v.d.ctx ∧
        t.rd Reg.blocksOpened v.k.host = (s.rd Reg.blocksOpened v.k.host + 1) % 2 ^ 64 ∧
        s.keepsFamilies t [Reg.blocksOpened, Reg.rowsWritten, Reg.epochInForce, Reg.balanceState, Reg.splitDispatches, Reg.fallbackReducedK,
          Reg.fallbackRoutedSkip, Reg.streamedKeyBytes] ∧
        t = { s with blocks := t.blocks, disps := t.disps, cmds := t.cmds, ctxs := t.ctxs, pourQueue := t.pourQueue, masks := t.masks
                     layerStates := t.layerStates, balances := t.balances, objs := t.objs, quietSince := t.quietSince, krdInt := t.krdInt }) ∧
    (∀ row sc cands chosen, s.works 2 = true → s.works 3 = true → v.d.phase = 1 → v.d.ended = false → s.nextSettle v = some row → v.skipAll = false →
      (hLogits v.k.header = true ∨ v.ly.streamed = false) → sc = s.rowScores v.d v.k v.p v.ly row →
      cands = limitCandidates v.ly (tokenHash v.d.ctx row) sc → chosen = chosenSet v.ly (tokenHash v.d.ctx row) v.d.level cands → chosen ≠ [] →
      s.rowNonFinite v.d v.k v.ly row sc = false → skipsRow v.ly cands = false → (v.d.row row).skipped = false → (v.d.row row).nonFinite = false →
      v.d.early = false → (∃ r ∈ v.halfRows (v.d.half row), r ≠ row ∧ (v.d.row r).settled = false) → Runs (.rowSettle uid row) s fun t =>
        t.disp uid = some (v.d.modRow row fun w => { w with
          settled := true, assigns := chosen.zipIdx.map fun x => { rank := x.2, expert := x.1.expert } }) ∧
        (∀ u, u ≠ uid → t.disp u = s.disp u) ∧ t.rd Reg.rowsScored 0 = (s.rd Reg.rowsScored 0 + 1) % 2 ^ 64 ∧
        s.keepsObjects t [(Reg.rowsScored, 0), (Reg.rowsSkippedThreshold, 0), (Reg.settledAtChunk, (v.d.row row).chunk), (Reg.rowsSettledEarly, 0)] ∧
        t = { s with disps := t.disps, objs := t.objs, quietSince := t.quietSince, krdInt := t.krdInt }) ∧
    (∀ row b b', s.works 2 = true → s.works 3 = true → v.d.phase = 1 → v.d.ended = false → (v.d.row row).settled = true → (v.d.row row).reserved = true →
      (v.d.row row).weighted = false → (v.d.row row).skipped = false → (v.d.row row).assigns ≠ [] → s.block v.d.ctx = some b →
      (b.slot row).weightsValid = false → (b.state = 0 ∨ b.state = 3) → b' = b.modSlot row (fun sl => { sl with
        weightsValid := true
        weights := gateWeights v.ly.affinity v.ly.normalize v.ly.routedScale
          (limitCandidates v.ly (tokenHash v.d.ctx row) (s.rowScores v.d v.k v.p v.ly row))
          (chosenSet v.ly (tokenHash v.d.ctx row) v.d.level (limitCandidates v.ly (tokenHash v.d.ctx row) (s.rowScores v.d v.k v.p v.ly row))) }) →
      ((∃ r ∈ v.d.rowState, r.1 ≠ row ∧ r.2.weighted = false) → Runs (.scoreEnd uid row) s fun t =>
        t.disp uid = some (v.d.modRow row fun w => { w with weighted := true }) ∧ (∀ u, u ≠ uid → t.disp u = s.disp u) ∧
        (∀ x, t.block x = if x = v.d.ctx then
          some (if b'.ready row then b'.modSlot row fun sl => { sl with state := 2, queuedAt := s.queueSeq } else b') else s.block x) ∧
        t = { s with disps := t.disps, blocks := t.blocks, queueSeq := t.queueSeq, quietSince := t.quietSince, krdInt := t.krdInt }) ∧
      (∀ c n, Tab.sorted v.d.rowState = true → (∀ r ∈ v.d.rowState, r.1 ≠ row → r.2.weighted = true) → s.ctx v.d.ctx = some c → c.state = 3 → v.k.ctx = v.d.ctx →
        v.d.scoreTally = some n → v.d.scoreDone = false → s.fatal = false → s.tallyFlip = [] → n ∉ s.tallyBad → Runs (.scoreEnd uid row) s fun t =>
          t.disp uid = some { (v.d.modRow row fun w => { w with weighted := true }) with phase := 2, scoreDone := true } ∧
          (∀ u, u ≠ uid → t.disp u = s.disp u) ∧
          (∀ x, t.block x = if x = v.d.ctx then
            some (if b'.ready row then b'.modSlot row fun sl => { sl with state := 2, queuedAt := s.queueSeq } else b') else s.block x) ∧
          (∀ m, t.tally m = if m = n then (s.tally n + 1) % 2 ^ 48 else s.tally m) ∧ s.keepsObjects t [(Reg.tallyUpdates, 0)] ∧
          t = { s with disps := t.disps, blocks := t.blocks, queueSeq := t.queueSeq, tallies := t.tallies, watchTable := t.watchTable, objs := t.objs
                       quietSince := t.quietSince, krdInt := t.krdInt })) ∧
    (∀ half g rest, s.works 4 = true → v.d.groups = (half, g) :: rest → v.d.ended = false → s.binned v.d.seq + g.length ≤ 16384 →
      (∀ e ∈ g, e.dest < 2 ^ 13) → Runs (.deliveryGroupSort uid) s fun t =>
        (∃ (d : Disp) (l : List BinEntry), t.disp uid = some d ∧ d = { v.d with groups := rest, bins := d.bins } ∧ l.Perm g ∧ l.Pairwise (fun a b => sortBefore b a = false) ∧
          ∀ hf dest, dest < 2 ^ 13 → Tab.get [] d.bins (binKey hf dest) =
            Tab.get [] v.d.bins (binKey hf dest) ++ if hf = half then l.filter (·.dest == dest) else []) ∧
        (∀ u, u ≠ uid → t.disp u = s.disp u) ∧ t.rd Reg.assignmentsSorted 0 = (s.rd Reg.assignmentsSorted 0 + g.length) % 2 ^ 64 ∧
        s.keepsObjects t [(Reg.assignmentsSorted, 0)] ∧ t = { s with disps := t.disps, objs := t.objs, quietSince := t.quietSince, krdInt := t.krdInt })

/-- R178 to R182, R192, R49: a pour lane hands the copies at the head of a bin to RTT in one frame of the destination's data flow, with each copy's hidden row in slot order and the tags of the others after them. R185: after the last copy of a half the close of its pour goes to the nodes of live replica entries; the last half's close counts in the pour tally. R193, R194, R195: a pour lane builds a return packet of a Closed flask from the answers that its ReturnTally says are ready. -/
def Obligations.PourFramesAreHandedOver : Prop :=
  ∀ (s : State), s.awake → s.untraced → s.works 5 = true → s.works 6 = true →
    (∀ uid v, s.stepOf uid = some v →
      (∀ half dest bin e run ds r w fl, v.d.pours half = true → bin = Tab.get [] v.d.bins (binKey half dest) → headRun v.ly.copyStride bin = e :: run →
        (e.row, e.rank) ∉ v.d.handed → v.p.dests[dest]? = some ds → v.replicaOf e = some r → v.ly.copyStride ≤ 8192 →
        (∀ x ∈ e :: run, (v.k.hiddenRow x.row).length ≤ v.ly.copyStride) →
        (s.peer ds.node).state = 2 → (s.peer ds.node).ready 0 = true → fl = (s.peer ds.node).data → fl.sent.length + 1 ≤ 4096 → fl.next + 1 ≤ fl.cumSettled + 4096 →
        (s.pickRunner v.d.plan ds.node 0).1 = some w → Runs (.packetBuild uid half dest) s fun t =>
          (∃ q l, t.peer ds.node = { s.peer ds.node with
              used := s.tick, runnerPtr := (t.peer ds.node).runnerPtr, data := { fl with sent := Tab.put fl.sent fl.next q, next := fl.next + 1 } } ∧
            q.why = .copies uid ((e :: run).map fun x => (x.row, x.rank)) half ∧ q.pace = 0 ∧ q.plan = v.d.plan ∧ q.route = some w ∧ q.due = true ∧ q.sends = 0 ∧
            q.frame = { cls := 0, src := s.nodeId, dst := ds.node, ctx := v.d.ctx, heat := v.k.heat, window := ds.window
                        offset := v.copyOffset half r e, op := v.ly.dispatchPour + half, seq := fl.num fl.next
                        aux := copyTag s.nodeId v.d.ctx v.k.heat e.row e.rank % 2 ^ 28, ackNow := decide (3072 ≤ fl.sent.length + 1)
                        payload := l ++ tagExtension ((e :: run).map fun x => copyTag s.nodeId v.d.ctx v.k.heat x.row x.rank) } ∧
            l.length = (e :: run).length * v.ly.copyStride ∧
            ∀ x j, (x, j) ∈ (e :: run).zipIdx → (l.drop (j * v.ly.copyStride)).take (v.k.hiddenRow x.row).length = v.k.hiddenRow x.row) ∧
          (∀ n, n ≠ ds.node → t.peer n = s.peer n) ∧
          (∃ d, t.disp uid = some d ∧ d = { v.d with
              bins := d.bins, sent := d.sent, handed := v.d.handed ++ (e :: run).map (fun x => (x.row, x.rank)), unacked := v.d.unacked + 1 } ∧
            ∀ k, Tab.get [] d.bins k = if k = binKey half dest then bin.drop (run.length + 1) else Tab.get [] v.d.bins k) ∧
          (∀ u, u ≠ uid → t.disp u = s.disp u) ∧
          t.rd Reg.dispatchPackets 0 = (s.rd Reg.dispatchPackets 0 + 1) % 2 ^ 64 ∧
          t.rd Reg.dispatchCopies 0 = (s.rd Reg.dispatchCopies 0 + run.length + 1) % 2 ^ 64 ∧
          t.rd Reg.coalescedPackets 0 = (s.rd Reg.coalescedPackets 0 + b2n (0 < run.length)) % 2 ^ 64 ∧
          s.keepsObjects t [(Reg.dispatchPackets, 0), (Reg.dispatchCopies, 0), (Reg.coalescedPackets, 0), (Reg.noRoute, 0)] ∧
          t = { s with objs := t.objs, peers := t.peers, disps := t.disps, queueSeq := t.queueSeq, free := t.free, quietSince := t.quietSince, krdInt := t.krdInt }) ∧
      (∀ half last ix ds fl es c, last = (if v.d.splitAt = v.d.rows then 0 else 1) → half ≤ last → bit v.d.closed half = false →
        (half = 0 ∨ bit v.d.closed 0 = true) → v.d.pours half = true → v.halfDone half = true → v.closeNodes = [(ix, ds)] →
        es = v.d.sent.filter (fun c => c.half == half && c.dest == ix) → es.length ≤ 1023 →
        (s.peer ds.node).state = 2 → (s.peer ds.node).ready 0 = true → (∀ x ∈ (s.peer ds.node).waiting, x.frame.cls ≠ 0) → fl = (s.peer ds.node).data →
        s.ctx v.d.ctx = some c → c.state = 3 → c.heat = v.k.heat → v.k.ctx = v.d.ctx → s.fatal = false → s.tallyFlip = [] → s.inject = none →
        (∀ n, v.d.pourTally = some n → n ∉ s.tallyBad) → Runs (.pourCloseSend uid half) s fun t =>
          (∃ q, t.peer ds.node = { s.peer ds.node with
              used := s.tick, runnerPtr := (t.peer ds.node).runnerPtr, data := { fl with sent := Tab.put fl.sent fl.next q, next := fl.next + 1 } } ∧
            q.why = .close uid ∧ q.pace = 0 ∧ q.plan = v.d.plan ∧ q.route = (s.pickRunner v.d.plan ds.node 0).1 ∧ q.due = true ∧ q.sends = 0 ∧
            q.frame = { cls := 0, close := true, ackNow := true, src := s.nodeId, dst := ds.node, ctx := v.d.ctx, heat := v.k.heat, window := ds.window
                        op := v.ly.dispatchPour + half, seq := fl.num fl.next
                        payload := leBytes 8 (es.foldl (fun n c => n + c.copies + c.borrowed) 0 * 2 ^ 32 + es.length * 2 ^ 16 + 1) ++
                          es.flatMap fun c => leBytes 8 (c.flask * 2 ^ 48 + c.copies * 2 ^ 36 + c.borrowed * 2 ^ 24) }) ∧
          (∀ n, n ≠ ds.node → t.peer n = s.peer n) ∧
          t.disp uid = some { v.d with closed := setBit v.d.closed half, unacked := v.d.unacked + 1 } ∧ (∀ u, u ≠ uid → t.disp u = s.disp u) ∧
          (∀ m, t.tally m = if half = last ∧ v.d.pourTally = some m then (s.tally m + 1) % 2 ^ 48 else s.tally m) ∧
          t.rd Reg.closePackets 0 = (s.rd Reg.closePackets 0 + 1) % 2 ^ 64 ∧
          s.keepsObjects t [(Reg.closePackets, 0), (Reg.noRoute, 0), (Reg.tallyUpdates, 0)] ∧
          t = { s with objs := t.objs, peers := t.peers, disps := t.disps, queueSeq := t.queueSeq, tallies := t.tallies, watchTable := t.watchTable
                       quietSince := t.quietSince, krdInt := t.krdInt })) ∧
    ∀ plan flask p h f node a n addr w fl use, flask < 2 ^ 16 → s.hosted (flaskKey plan flask) = some (p, h) → f = s.flask (flaskKey plan flask) → f.state = 2 →
      h.returnTally ∉ s.tallyBad → f.nextAnswer < min f.rows.length (s.tally h.returnTally) → node = f.tagOf f.nextAnswer / 2 ^ 44 → a = p.answerBytes h → a ≤ 8192 →
      n = f.answerRun a (min f.rows.length (s.tally h.returnTally)) f.nextAnswer → s.answerAddr p h f.nextAnswer = some addr →
      (s.peer node).state = 2 → (s.peer node).ready 0 = true → fl = (s.peer node).data → fl.sent.length + ceilDiv a 8192 ≤ 4096 → fl.next + ceilDiv a 8192 ≤ fl.cumSettled + 4096 →
      (s.pickRunner plan node 1).1 = some w → 0 < a →
      use = (match p.sourceIndex h node with | some ix => (f.src ix).ctxHeat.getD (0, 0) | none => (0, 0)) → Runs (.returnPacketBuild plan flask) s fun t =>
        (∃ q, t.peer node = { s.peer node with
            used := s.tick, runnerPtr := (t.peer node).runnerPtr, data := { fl with sent := Tab.put fl.sent fl.next q, next := fl.next + 1 } } ∧
          q.why = .answers (flaskKey plan flask) f.nextAnswer n ∧ q.pace = 1 ∧ q.plan = plan ∧ q.route = some w ∧ q.due = true ∧ q.sends = 0 ∧
          q.frame = { cls := 0, ret := true, src := s.nodeId, dst := node, ctx := use.1, heat := use.2, window := 0xFFFF, offset := 0, op := p.returnPourOf h
                      seq := fl.num fl.next, aux := f.tagOf f.nextAnswer % 2 ^ 28, ackNow := decide (3072 ≤ fl.sent.length + 1)
                      payload := (List.range n).flatMap (fun j => s.memRead (addr + j * h.answerStride) a) ++
                        tagExtension ((List.range n).map fun j => f.tagOf (f.nextAnswer + j)) }) ∧
        (∀ m, m ≠ node → t.peer m = s.peer m) ∧
        (∀ k, t.flask k = if k = flaskKey plan flask then { f with nextAnswer := f.nextAnswer + n, answersLeft := f.answersLeft + 1 } else s.flask k) ∧
        t.rd Reg.returnPackets 0 = (s.rd Reg.returnPackets 0 + 1) % 2 ^ 64 ∧ t.rd Reg.answersReturned 0 = (s.rd Reg.answersReturned 0 + n) % 2 ^ 64 ∧
        t.rd Reg.coalescedPackets 0 = (s.rd Reg.coalescedPackets 0 + b2n (1 < n)) % 2 ^ 64 ∧
        s.keepsObjects t [(Reg.returnPackets, 0), (Reg.answersReturned, 0), (Reg.coalescedPackets, 0), (Reg.noRoute, 0)] ∧
        t = { s with objs := t.objs, peers := t.peers, flasks := t.flasks, queueSeq := t.queueSeq, quietSince := t.quietSince, krdInt := t.krdInt }

/-- R302, R308: a shared post of one row whose read is answered well leaves the row's shared output in its area and its SharedPresent bit set, and the row is Queued once it is ready. R308 to R312: the combine pipe takes the row Queued first, and its sum, or its hidden row passed through, stands rounded once in its result area. R312, R315: a result whose write is visible counts one in StitchTally. R306: a row that has waited for StitchWaitTicks loses every rank that it still expects. R86, R372: a DISPATCH whose rows and pour are done becomes ready with its result payload; R186: one that was ended, with its status once its pour is settled. -/
def Obligations.RowsAreStitched : Prop :=
  ∀ (s : State) (x : Nat) (b : Block), s.awake → s.sound → s.works 9 = true → s.block x = some b →
    (∀ ix (p : SharedPost) l b', s.sharedPosts[ix]? = some p → p.ctx = x → p.rowCount = 1 → b.uid = p.uid → (b.state = 0 ∨ b.state = 3) →
      (b.slot p.firstRow).padding = false → bit (b.slot p.firstRow).sharedPresent p.ix = false → s.hostHolds b.host p.addr b.a l →
      b' = b.modSlot p.firstRow (fun sl => { sl with
        areas := l.zipIdx.foldl (fun (m : Tab Byte) q => Tab.put m (b.areaOf true p.ix * 2 ^ 20 + 0 + q.2) q.1) sl.areas
        sharedPresent := setBit sl.sharedPresent p.ix }) → Runs (.sharedPostReadDone ix) s fun t =>
        (∀ y, t.block y = if y = x then
          some (if b'.ready p.firstRow then b'.modSlot p.firstRow fun sl => { sl with state := 2, queuedAt := s.queueSeq } else b') else s.block y) ∧
        (b'.slot p.firstRow).area (b.areaOf true p.ix) l.length = l ∧ t.sharedPosts = s.sharedPosts.erase p ∧
        t.rd Reg.sharedRowsRead b.host = (s.rd Reg.sharedRowsRead b.host + 1) % 2 ^ 64 ∧ s.keepsObjects t [(Reg.sharedRowsRead, b.host)] ∧
        t = { s with blocks := t.blocks, sharedPosts := t.sharedPosts, objs := t.objs, queueSeq := t.queueSeq, quietSince := t.quietSince, krdInt := t.krdInt }) ∧
    (∀ row vals pass, s.firstQueued = some (x, row) →
      (if (b.slot row).skipped = true ∧ b.sharedCount = 0 then
        pass = true ∧ ∃ k, s.cmd b.uid = some k ∧ vals = decodeVec (hHiddenFmt k.header) b.hiddenDim
          (slice k.payload (k.hiddenOffset + row * k.hiddenStride) (vecBytes (hHiddenFmt k.header) b.hiddenDim))
       else pass = false ∧ vals = b.combineVals row) → Runs (.combine x row) s fun t =>
        (∀ y, t.block y = if y = x then some { (b.modSlot row fun sl => { sl with
          state := 4, result := slice (encodeVec b.resultFmt vals) 0 b.s, passThrough := pass }) with rowsWritten := b.rowsWritten + 1 } else s.block y) ∧
        (∀ u, t.cmd u = (s.cmd u).map fun k => if u = b.uid then { k with numExc := min 0xFFFF (k.numExc + countNan vals) } else k) ∧
        t.rd Reg.rowsWritten b.host = (s.rd Reg.rowsWritten b.host + 1) % 2 ^ 64 ∧
        t.rd Reg.answersStitched b.host = (s.rd Reg.answersStitched b.host + popCount 16 (b.slot row).received) % 2 ^ 64 ∧
        t.rd Reg.rowsPassThrough b.host = (s.rd Reg.rowsPassThrough b.host + b2n pass) % 2 ^ 64 ∧
        s.keepsObjects t [(Reg.rowsWritten, b.host), (Reg.answersStitched, b.host), (Reg.rowsPassThrough, b.host)] ∧
        t = { s with blocks := t.blocks, cmds := t.cmds, objs := t.objs, quietSince := t.quietSince, krdInt := t.krdInt }) ∧
    (∀ row c, row < b.rows → (b.slot row).state = 4 → (b.slot row).visible = false → (b.state = 0 ∨ b.state = 3) → s.ctx x = some c → c.heat = b.heat →
      c.state ≠ 7 → s.fatal = false → s.tallyFlip = [] → b.stitchTally ∉ s.tallyBad → Runs (.rowWriteVisible x row) s fun t =>
        (∀ y, t.block y = if y = x then some (b.modSlot row fun sl => { sl with visible := true }) else s.block y) ∧
        (∀ m, t.tally m = if m = b.stitchTally then (s.tally m + 1) % 2 ^ 48 else s.tally m) ∧ s.keepsObjects t [(Reg.tallyUpdates, 0)] ∧
        t = { s with blocks := t.blocks, tallies := t.tallies, watchTable := t.watchTable, objs := t.objs, quietSince := t.quietSince, krdInt := t.krdInt }) ∧
    (∀ row e b', row < b.rows → (b.slot row).state = 1 → s.elapsed (b.slot row).reserveTick (s.rd Reg.stitchWaitTicks 0) = true → (b.state = 0 ∨ b.state = 3) →
      (b.slot row).expected < 2 ^ 16 → e = (b.slot row).expected ^^^ ((b.slot row).expected &&& (b.slot row).received) → e ≠ 0 →
      b' = b.modSlot row (fun sl => { sl with expected := sl.expected &&& sl.received, lost := sl.lost ||| e }) → Runs (.stitchWaitExpiry x row) s fun t =>
        (∀ y, t.block y = if y = x then
          some (if b'.ready row then b'.modSlot row fun sl => { sl with state := 2, queuedAt := s.queueSeq } else b') else s.block y) ∧
        t.rd Reg.ranksLost b.host = (s.rd Reg.ranksLost b.host + popCount 16 e) % 2 ^ 64 ∧
        t.rd Reg.ranksLostTimeout b.host = (s.rd Reg.ranksLostTimeout b.host + popCount 16 e) % 2 ^ 64 ∧
        s.keepsObjects t [(Reg.ranksLost, b.host), (Reg.ranksLostTimeout, b.host)] ∧
        t = { s with blocks := t.blocks, objs := t.objs, queueSeq := t.queueSeq, quietSince := t.quietSince, krdInt := t.krdInt }) ∧
    ∀ uid k d, s.cmd uid = some k → s.disp uid = some d → d.ctx = x → k.ready = false → k.copies = 0 → s.unbalanced →
      (k.marked = 0 → k.ended = true → d.phase = 2 → d.pourClosed = true → b.uid = uid → b.allVisible = true → (s.writeResult k 0 b.payload).1 = 0 →
        Runs (.dispatchReady uid) s fun t =>
          (∃ k', t.cmd uid = some k' ∧ k'.ready = true ∧ k'.status = 0 ∧ k'.readyTick = s.tick ∧ (∀ j, j < b.payload.length → Tab.get 0 k'.result j = b.payload.getD j 0) ∧
            k'.skims = ((List.range b.rows).map fun r => popCount 16 (b.slot r).skimmed).sum ∧ k'.skips = ((List.range b.rows).filter fun r => (b.slot r).skipped).length) ∧
          t.disp uid = none ∧ (∀ b', t.block x = some b' → b'.uid ≠ uid) ∧ (∀ u, u ≠ uid → t.disp u = s.disp u) ∧ (∀ y, y ≠ x → t.block y = s.block y) ∧
          t.mem = (s.writeResult k 0 b.payload).2.mem ∧ t.landing = (s.writeResult k 0 b.payload).2.landing ∧ t.tallies = s.tallies) ∧
      (k.marked ≠ 0 → d.pourClosed = true → d.unacked = 0 → Runs (.dispatchReady uid) s fun t =>
        (∃ k', t.cmd uid = some k' ∧ k'.ready = true ∧ k'.status = k.marked ∧ k'.readyTick = s.tick) ∧
        t.disp uid = none ∧ (∀ b', t.block x = some b' → b'.uid ≠ uid) ∧ (∀ u, u ≠ uid → t.disp u = s.disp u) ∧ (∀ y, y ≠ x → t.block y = s.block y) ∧
        t.mem = s.mem ∧ t.landing = s.landing ∧ t.tallies = s.tallies)

/-- R290: when every flask of a pour has closed, LND writes its group table at the tail of the host's group ring, and once its writes are answered it joins the group queue and GroupTally counts one. R286: a flask Filling for UseLimitTicks is closed, and each source that is missing becomes Late. R293: a Closed flask whose answers have all returned is released to Free with its ReturnTally 0 and its pool counter 0, its Late sources kept. -/
def Obligations.FlasksCloseAndAreReleased : Prop :=
  ∀ (s : State), s.awake → s.sound → s.untraced → s.works 8 = true →
    (∀ plan pour p layer drag fs u size entries addr l, s.pourOf plan pour = some (p, layer, drag) → fs = p.pourFlasks layer drag → fs ≠ [] →
      u = Tab.get {} s.pourUses (plan * 2 ^ 16 + pour) → (∀ f ∈ fs, f.1 ∈ u.closed ∧ (s.flask (flaskKey plan f.1)).state = 2) →
      entries = fs.flatMap (fun f => (f.2.runs (s.flask (flaskKey plan f.1)).rows).map fun r => s.groupEntry p f.1 f.2 r) →
      size = 2 ^ s.rd Reg.groupRingBytesLog2 p.host → (s.groupQueue p.host).tail % size + (64 + 32 * entries.length) ≤ size →
      (∀ g ∈ (s.groupQueue p.host).tabs ++ (s.groupQueue p.host).writing, (s.groupQueue p.host).tail - g.start + (64 + 32 * entries.length) ≤ size) →
      s.xlt p.host (s.rd Reg.groupRingBase p.host + (s.groupQueue p.host).tail % size) (64 + 32 * entries.length) true = some (.noc addr) →
      s.memBad addr (64 + 32 * entries.length) = 0 →
      l = leBytes 64 (plan * 2 ^ 496 + pour * 2 ^ 480 + layer * 2 ^ 472 + b2n drag * 2 ^ 471 + entries.length * 2 ^ 440 +
        (fs.map fun f => (s.flask (flaskKey plan f.1)).rows.length).sum * 2 ^ 416 + Tab.get 0 s.useNumbers (plan * 2 ^ 16 + pour) % 2 ^ 32 * 2 ^ 384 +
        u.tick * 2 ^ 336) ++ entries.flatten → Runs (.groupTableWrite plan pour) s fun t =>
        onlyBytes s.mem t.mem addr l ∧
        t.groupQueue p.host = { s.groupQueue p.host with
          tail := (s.groupQueue p.host).tail + (64 + 32 * entries.length)
          writing := (s.groupQueue p.host).writing ++ [{ addr := addr, start := (s.groupQueue p.host).tail, bytes := 64 + 32 * entries.length }] } ∧
        (∀ h, h ≠ p.host → t.groupQueue h = s.groupQueue h) ∧
        Tab.get 0 t.useNumbers (plan * 2 ^ 16 + pour) = Tab.get 0 s.useNumbers (plan * 2 ^ 16 + pour) + 1 ∧
        Tab.get {} t.pourUses (plan * 2 ^ 16 + pour) = { u with closed := fs.foldl (fun m (f : Nat × Hosted) => m.erase f.1) u.closed } ∧
        (∀ k, k ≠ plan * 2 ^ 16 + pour → Tab.get 0 t.useNumbers k = Tab.get 0 s.useNumbers k ∧ Tab.get {} t.pourUses k = Tab.get {} s.pourUses k) ∧
        t = { s with mem := t.mem, groupQueues := t.groupQueues, useNumbers := t.useNumbers, pourUses := t.pourUses, quietSince := t.quietSince, krdInt := t.krdInt }) ∧
    (∀ host g rest, (s.groupQueue host).writing = g :: rest → (∀ r ∈ s.heldReads, r.host ≠ host ∨ r.cls ≠ 8) → s.fatal = false → s.tallyFlip = [] →
      bits (s.rd Reg.groupTally host) 16 0 ∉ s.tallyBad → Runs (.groupTableWritten host) s fun t =>
        t.groupQueue host = { s.groupQueue host with tabs := (s.groupQueue host).tabs ++ [g], writing := rest } ∧
        (∀ h, h ≠ host → t.groupQueue h = s.groupQueue h) ∧
        (∀ m, t.tally m = if bit (s.rd Reg.groupTally host) 31 = true ∧ m = bits (s.rd Reg.groupTally host) 16 0 then (s.tally m + 1) % 2 ^ 48 else s.tally m) ∧
        t.rd Reg.groupTables 0 = (s.rd Reg.groupTables 0 + 1) % 2 ^ 64 ∧ s.keepsObjects t [(Reg.groupTables, 0), (Reg.tallyUpdates, 0)] ∧
        t = { s with groupQueues := t.groupQueues, tallies := t.tallies, watchTable := t.watchTable, objs := t.objs, quietSince := t.quietSince, krdInt := t.krdInt }) ∧
    ∀ plan flask p h f, flask < 2 ^ 16 → s.hosted (flaskKey plan flask) = some (p, h) → f = s.flask (flaskKey plan flask) →
      (f.state = 1 → s.elapsed f.fillTick (s.rd Reg.useLimitTicks p.host) = true → Runs (.forcedClose plan flask) s fun t =>
        (∃ fl, (∀ k, t.flask k = if k = flaskKey plan flask then fl else s.flask k) ∧
          fl = { f with state := 2, rows := f.tags.map (·.1), nextAnswer := 0, answersLeft := 0, srcs := fl.srcs } ∧
          ∀ j, fl.src j = if j < (p.listOf h).sources.length ∧ (f.src j).closed = false ∧ (f.src j).late = none then
            { f.src j with late := some (if (f.src j).finalClose = true ∧ (f.src j).badClose = false then (f.src j).closeSeq + 1 else 0), forced := true } else f.src j) ∧
        t.landing = Tab.writeBytes 0 s.landing (p.tagWord h * 64) (f.tags.flatMap fun e => leBytes 8 (Tab.get 0 f.tags e.1)) ∧
        t.rd Reg.forcedCloses 0 = (s.rd Reg.forcedCloses 0 + 1) % 2 ^ 64 ∧ s.keepsFamilies t (Reg.forcedCloses :: faultObjects) ∧
        t.tallies = s.tallies ∧ t.peers = s.peers ∧ t.cmds = s.cmds ∧ t.ctxs = s.ctxs) ∧
      (f.state = 2 → f.answersLeft = 0 → f.nextAnswer = f.rows.length → (f.rows = [] ∨ f.rows.length ≤ s.tally h.returnTally ∧ h.returnTally ∉ s.tallyBad) →
        (∀ e ∈ s.heldFrames, e.flask ≠ flaskKey plan flask) → s.fatal = false → h.inHbm = false → Tab.wf {} f.srcs = true → Runs (.flaskRelease plan flask) s fun t =>
          (∃ fl, (∀ k, t.flask k = if k = flaskKey plan flask then fl else s.flask k) ∧ fl = { srcs := fl.srcs } ∧ ∀ j, fl.src j = { late := (f.src j).late }) ∧
          (∀ m, t.tally m = if m = h.returnTally then 0 else s.tally m) ∧ t.tallyBad = s.tallyBad.filter (· != h.returnTally) ∧
          t.landing = (if h.pool = 0 then s.landing else Tab.writeBytes 0 s.landing h.poolByte (leBytes 8 0)) ∧
          s.keepsObjects t [(Reg.tallyUpdates, 0)] ∧
          t = { s with flasks := t.flasks, tallies := t.tallies, tallyBad := t.tallyBad, tallyFlip := t.tallyFlip, watchTable := t.watchTable, landing := t.landing
                       objs := t.objs, quietSince := t.quietSince, krdInt := t.krdInt })

/-- R321: a tally satisfies a threshold when its value less the threshold, modulo 2^48, is below 2^47; the waits that TLY tests use this comparison, and a poisoned tally satisfies none (R330). -/
def Obligations.TalliesSatisfyTheirThresholds : Prop :=
  (∀ a v : Nat, a < 2 ^ 48 → v < 2 ^ 48 → (tallySat a v = true ↔ ((a : Int) - v) % 2 ^ 48 < 2 ^ 47)) ∧
    ∀ (s : State) (t v : Nat), s.tallyMeets t v = true ↔ t ∉ s.tallyBad ∧ tallySat (s.tally t) v = true

/-- R198: the HeaderCrc of a frame is the remainder, by the polynomial 0x8BB7 of 16 bits, of its first 30 header bytes followed by 16 zero bits, from an initial value of 0, without reflection and with no final XOR; over the ASCII string "123456789" the check is 0xD0DB. -/
def Obligations.HeaderCrcIsTheRemainder : Prop :=
  (∀ l : List Byte, crc16 l = remainder16 (8 * l.length) (beNat l * 2 ^ 16)) ∧
    (∀ f : RFrame, f.crc = crc16 ((beBytes 32 f.header).take 30)) ∧ crc16 ("123456789".toList.map fun c => BitVec.ofNat 8 c.toNat) = 0xD0DB

/-- R366 to R379: the encoding of a word's slots reads back as those slots, every field at every value of its width; and every 512-bit word is the encoding of the slots it is read as. -/
def Obligations.PatternWordsReadBackAsWritten : Prop :=
  (∀ p : PWord, p.fits → decodeWord (encodeWord p) = p) ∧ ∀ w : Word512, encodeWord (decodeWord w) = w ∧ (decodeWord w).fits

/-- The step of a block: the command at the front of the queue runs on the state with the queue's rest, so that what the other statements say of a row holds of the step that takes it; with no command waiting one keeper tick passes, in which the pacing buckets fill and nothing but them and two counters of ticks changes (the model's choice, log entry 1; R187, R481). -/
def Obligations.StepRunsTheFrontCommand : Prop :=
  (∀ (s : State) (c : Instr) (rest : List Instr), step { s with pending := c :: rest } = exec c { s with pending := rest }) ∧
    ∀ s : State, s.pending = [] → s.boundaries = [] → s.inject = none → ∃ t, step s = .next t ∧ t.tick = (s.tick + 1) % 2 ^ 48 ∧
      t = { s with tick := t.tick, objs := t.objs, ports := t.ports, planBuckets := t.planBuckets, pathBuckets := t.pathBuckets, krdInt := t.krdInt } ∧
      s.keepsFamilies t [Reg.heldTicks, Reg.pfcPausedTicks]

/-- R462, R350: every step of the block, whatever command it takes and in whatever state, completes, and after it the interrupt pins show exactly the units whose first error is not acknowledged, and BAL has been told of every step boundary reached. -/
def Obligations.EveryStepCompletesAndShowsThePins : Prop :=
  ∀ s : State, ∃ t, step s = .next t ∧ t.told

/-- What a cold reset leaves, as State.reset (R547, R320, R424, R481): every object of the dictionary reads its reset value, every tally is 0, no context, command, pattern, plan, ring in use or peer is there, BootState and KeeperTick are 0, nothing waits, the pins show no error, and memory is in its canonical form. -/
def Obligations.ResetLeavesTheStatedValues : Prop :=
  (∀ o i, State.reset.rd o i = o.reset) ∧ (∀ t, State.reset.tally t = 0) ∧ (∀ x, State.reset.ctx x = none) ∧ (∀ u, State.reset.cmd u = none) ∧
    (∀ p, State.reset.plan p = none) ∧ (∀ i, (State.reset.ring i).state = 0) ∧ (∀ n, (State.reset.peer n).state = 0) ∧
    State.reset.tick = 0 ∧ State.reset.rd Reg.bootState 0 = 0 ∧ State.reset.rd Reg.starveTicks 0 = 31250 ∧ State.reset.rd Reg.restWatchdogTicks 0 = 250 ∧
    State.reset.pending = [] ∧ State.reset.told ∧ Memory.wf State.reset.mem = true
end

