-- ==== Sys2Proof/Laws/Tab.lean ====
section
/-! SUPPORT. Reading a sparse table after each change of it, and the canonical form kept. -/

set_option Elab.async false

namespace Sys2Proof.Machine

variable {α : Type}

theorem Tab.sorted_tail {k : Nat} {v : α} {t : Tab α} (h : Tab.sorted ((k, v) :: t) = true) : Tab.sorted t = true := by
  cases t with
  | nil => rfl
  | cons p t => obtain ⟨k', v'⟩ := p; simp only [Tab.sorted, Bool.and_eq_true] at h; exact h.2

/-- In a sorted table every later key lies above the first. -/
theorem Tab.sorted_head_lt {k : Nat} {v : α} {t : Tab α} (h : Tab.sorted ((k, v) :: t) = true) :
    ∀ p ∈ t, k < p.1 := by
  induction t generalizing k v with
  | nil => intro p hp; cases hp
  | cons q t ih =>
    obtain ⟨k', v'⟩ := q
    have hk : k < k' := by simp only [Tab.sorted, Bool.and_eq_true, decide_eq_true_eq] at h; exact h.1
    intro p hp
    rcases List.mem_cons.mp hp with rfl | hp
    · exact hk
    · exact Nat.lt_trans hk (ih (Tab.sorted_tail h) p hp)

theorem Tab.sorted_cons {k : Nat} {v : α} {t : Tab α} (h : Tab.sorted t = true) (hk : ∀ p ∈ t, k < p.1) :
    Tab.sorted ((k, v) :: t) = true := by
  cases t with
  | nil => rfl
  | cons p t =>
    obtain ⟨k', v'⟩ := p
    simp only [Tab.sorted, Bool.and_eq_true, decide_eq_true_eq]
    exact ⟨hk (k', v') (List.mem_cons_self ..), h⟩

/-! ## get -/

theorem Tab.get_eq_find (d : α) (t : Tab α) (k : Nat) : Tab.get d t k = (Tab.find t k).getD d := by
  induction t with
  | nil => rfl
  | cons p t ih =>
    obtain ⟨k', v⟩ := p
    simp only [Tab.get, Tab.find]
    split <;> simp_all

@[simp] theorem Tab.find_put_same (t : Tab α) (k : Nat) (v : α) : Tab.find (Tab.put t k v) k = some v := by
  induction t with
  | nil => simp [Tab.put, Tab.find]
  | cons p t ih =>
    obtain ⟨k', v'⟩ := p
    simp only [Tab.put]
    split
    · simp [Tab.find]
    · split
      · simp [Tab.find]
      · rename_i h; simp [Tab.find, Ne.symm h, ih]

theorem Tab.find_put_ne (t : Tab α) {k a : Nat} (v : α) (h : k ≠ a) : Tab.find (Tab.put t k v) a = Tab.find t a := by
  induction t with
  | nil => simp [Tab.put, Tab.find, h]
  | cons p t ih =>
    obtain ⟨k', v'⟩ := p
    simp only [Tab.put]
    split
    · simp [Tab.find, h]
    · split
      · rename_i h2; subst h2; simp [Tab.find, h]
      · simp [Tab.find, ih]

@[simp] theorem Tab.find_drop_same (t : Tab α) (k : Nat) : Tab.find (Tab.drop t k) k = none := by
  induction t with
  | nil => rfl
  | cons p t ih =>
    obtain ⟨k', v'⟩ := p
    by_cases h : k' = k
    · subst h; simpa [Tab.drop] using ih
    · have : Tab.drop ((k', v') :: t) k = (k', v') :: Tab.drop t k := by simp [Tab.drop, h]
      rw [this]; simp [Tab.find, h, ih]

theorem Tab.find_drop_ne (t : Tab α) {k a : Nat} (h : k ≠ a) : Tab.find (Tab.drop t k) a = Tab.find t a := by
  induction t with
  | nil => rfl
  | cons p t ih =>
    obtain ⟨k', v'⟩ := p
    by_cases h' : k' = k
    · subst h'; have : Tab.drop ((k', v') :: t) k' = Tab.drop t k' := by simp [Tab.drop]
      rw [this, ih]; simp [Tab.find, h]
    · have : Tab.drop ((k', v') :: t) k = (k', v') :: Tab.drop t k := by simp [Tab.drop, h']
      rw [this]; simp [Tab.find, ih]

@[simp] theorem Tab.get_set_same [DecidableEq α] (d : α) (t : Tab α) (k : Nat) (v : α) :
    Tab.get d (Tab.set d t k v) k = v := by
  unfold Tab.set
  split
  · rename_i h; simp [Tab.get_eq_find, h]
  · simp [Tab.get_eq_find]

theorem Tab.get_set_ne [DecidableEq α] (d d' : α) (t : Tab α) {k a : Nat} (v : α) (h : k ≠ a) :
    Tab.get d (Tab.set d' t k v) a = Tab.get d t a := by
  unfold Tab.set
  split
  · simp [Tab.get_eq_find, Tab.find_drop_ne t h]
  · simp [Tab.get_eq_find, Tab.find_put_ne t v h]

theorem Tab.get_set [DecidableEq α] (d : α) (t : Tab α) (k a : Nat) (v : α) :
    Tab.get d (Tab.set d t k v) a = if a = k then v else Tab.get d t a := by
  by_cases h : a = k
  · subst h; simp
  · rw [if_neg h]; exact Tab.get_set_ne d d t v (Ne.symm h)

@[simp] theorem Tab.find_modify_same (t : Tab α) (k : Nat) (f : α → α) :
    Tab.find (Tab.modify t k f) k = (Tab.find t k).map f := by
  induction t with
  | nil => rfl
  | cons p t ih =>
    obtain ⟨k', v⟩ := p
    by_cases h : k' = k
    · simp [Tab.modify, Tab.find, h]
    · simpa [Tab.modify, Tab.find, h] using ih

theorem Tab.find_modify_ne (t : Tab α) {k a : Nat} (f : α → α) (h : k ≠ a) :
    Tab.find (Tab.modify t k f) a = Tab.find t a := by
  induction t with
  | nil => rfl
  | cons p t ih =>
    obtain ⟨k', v⟩ := p
    by_cases h' : k' = k
    · subst h'; simpa [Tab.modify, Tab.find, h] using ih
    · by_cases h2 : k' = a
      · subst h2; simp [Tab.modify, Tab.find, Ne.symm h]
      · simpa [Tab.modify, Tab.find, h', h2] using ih

@[simp] theorem Tab.find_mapVals (t : Tab α) (f : Nat → α → α) (a : Nat) :
    Tab.find (Tab.mapVals t f) a = (Tab.find t a).map (f a) := by
  induction t with
  | nil => rfl
  | cons p t ih =>
    obtain ⟨k', v⟩ := p
    by_cases h : k' = a
    · subst h; simp [Tab.mapVals, Tab.find]
    · simpa [Tab.mapVals, Tab.find, h] using ih

/-! ## The canonical form -/

theorem Tab.mem_put {t : Tab α} {k : Nat} {v : α} {p : Nat × α} (h : p ∈ Tab.put t k v) : p = (k, v) ∨ p ∈ t := by
  induction t with
  | nil => simp [Tab.put] at h; exact Or.inl h
  | cons q t ih =>
    obtain ⟨k', v'⟩ := q
    simp only [Tab.put] at h
    split at h
    · rcases List.mem_cons.mp h with h | h
      · exact Or.inl h
      · exact Or.inr h
    · split at h
      · rcases List.mem_cons.mp h with h | h
        · exact Or.inl h
        · exact Or.inr (List.mem_cons_of_mem _ h)
      · rcases List.mem_cons.mp h with h | h
        · exact Or.inr (h ▸ List.mem_cons_self ..)
        · rcases ih h with h | h
          · exact Or.inl h
          · exact Or.inr (List.mem_cons_of_mem _ h)

theorem Tab.mem_of_find {t : Tab α} {k : Nat} {v : α} (h : Tab.find t k = some v) : (k, v) ∈ t := by
  induction t with
  | nil => cases h
  | cons p t ih =>
    obtain ⟨k', v'⟩ := p
    unfold Tab.find at h
    split at h
    · rename_i e; cases h; subst e; exact List.mem_cons_self ..
    · exact List.mem_cons_of_mem _ (ih h)

theorem Tab.sorted_put {t : Tab α} (k : Nat) (v : α) (h : Tab.sorted t = true) : Tab.sorted (Tab.put t k v) = true := by
  induction t with
  | nil => rfl
  | cons q t ih =>
    obtain ⟨k', v'⟩ := q
    simp only [Tab.put]
    split
    · rename_i hk
      refine Tab.sorted_cons h fun p hp => ?_
      rcases List.mem_cons.mp hp with rfl | hp
      · exact hk
      · exact Nat.lt_trans hk (Tab.sorted_head_lt h p hp)
    · split
      · rename_i hk; subst hk
        exact Tab.sorted_cons (Tab.sorted_tail h) (Tab.sorted_head_lt h)
      · rename_i h1 h2
        refine Tab.sorted_cons (ih (Tab.sorted_tail h)) fun p hp => ?_
        rcases Tab.mem_put hp with rfl | hp
        · exact Nat.lt_of_le_of_ne (Nat.le_of_not_lt h1) (Ne.symm h2)
        · exact Tab.sorted_head_lt h p hp

theorem Tab.sorted_filter {t : Tab α} (f : Nat × α → Bool) (h : Tab.sorted t = true) : Tab.sorted (t.filter f) = true := by
  induction t with
  | nil => rfl
  | cons q t ih =>
    obtain ⟨k', v'⟩ := q
    rw [List.filter_cons]
    split
    · exact Tab.sorted_cons (ih (Tab.sorted_tail h)) fun p hp => Tab.sorted_head_lt h p (List.mem_filter.mp hp).1
    · exact ih (Tab.sorted_tail h)

theorem Tab.wf_set [DecidableEq α] {d : α} {t : Tab α} (k : Nat) (v : α) (h : Tab.wf d t = true) :
    Tab.wf d (Tab.set d t k v) = true := by
  simp only [Tab.wf, Bool.and_eq_true, List.all_eq_true, decide_eq_true_eq] at *
  unfold Tab.set
  split
  · exact ⟨Tab.sorted_filter _ h.1, fun p hp => h.2 p (List.mem_filter.mp hp).1⟩
  · rename_i hv
    refine ⟨Tab.sorted_put k v h.1, fun p hp => ?_⟩
    rcases Tab.mem_put hp with rfl | hp
    · exact hv
    · exact h.2 p hp

/-! ## Bytes -/

theorem Tab.wf_writeBytes {d : Byte} (l : List Byte) {t : Tab Byte} (a : Nat) (h : Tab.wf d t = true) :
    Tab.wf d (Tab.writeBytes d t a l) = true := by
  induction l generalizing t a with
  | nil => exact h
  | cons b l ih => exact ih (a + 1) (Tab.wf_set a b h)

/-- A byte after a run of bytes is written: the run's own byte inside it, the old one outside. -/
theorem Tab.get_writeBytes (d : Byte) (l : List Byte) (t : Tab Byte) (a x : Nat) :
    Tab.get d (Tab.writeBytes d t a l) x =
      if a ≤ x ∧ x < a + l.length then l.getD (x - a) d else Tab.get d t x := by
  induction l generalizing t a with
  | nil => simp [Tab.writeBytes] <;> omega
  | cons b l ih =>
    rw [Tab.writeBytes, ih, Tab.get_set]
    by_cases hx : x = a
    · subst hx; simp <;> omega
    · rw [if_neg hx]
      by_cases h : a + 1 ≤ x ∧ x < a + 1 + l.length
      · rw [if_pos h, if_pos (by simp only [List.length_cons]; omega)]
        have : x - a = x - (a + 1) + 1 := by omega
        rw [this, List.getD_cons_succ]
      · rw [if_neg h, if_neg (by simp only [List.length_cons]; omega)]

@[simp] theorem Tab.readBytes_length (d : Byte) (t : Tab Byte) (a n : Nat) : (Tab.readBytes d t a n).length = n := by
  simp [Tab.readBytes]

/-- What was written is read back. -/
theorem Tab.readBytes_writeBytes (d : Byte) (l : List Byte) (t : Tab Byte) (a : Nat) :
    Tab.readBytes d (Tab.writeBytes d t a l) a l.length = l := by
  apply List.ext_getElem
  · simp
  · intro i h1 h2
    have hi : i < l.length := h2
    simp [Tab.readBytes, Tab.get_writeBytes, hi, List.getD]

end Sys2Proof.Machine
end

