-- ==== Sys2Proof/Laws/Bits.lean ====
section
/-! SUPPORT. Single bits of a number. -/

set_option Elab.async false

namespace Sys2Proof.Machine

theorem bit_def (x n : Nat) : bit x n = decide (x / 2 ^ n % 2 = 1) := by
  simp only [bit, Nat.shiftRight_eq_div_pow]
  rcases Nat.mod_two_eq_zero_or_one (x / 2 ^ n) with h | h <;> simp [h]

/-- Adding the weight of a clear bit sets it and leaves the others. -/
theorem bit_add_two_pow {x n : Nat} (h : bit x n = false) (m : Nat) : bit (x + 2 ^ n) m = if m = n then true else bit x m := by
  rw [bit_def] at h
  have h0 : x / 2 ^ n % 2 = 0 := by simp at h; omega
  have hpos : 0 < 2 ^ n := Nat.pow_pos (by decide)
  have hdiv : (x + 2 ^ n) / 2 ^ n = x / 2 ^ n + 1 := Nat.add_div_right x hpos
  rw [bit_def, bit_def]
  by_cases e : m = n
  · subst e; simp [hdiv]; omega
  · simp only [e, if_false]
    congr 2
    rcases Nat.lt_or_gt_of_ne e with e' | e'
    · have h2 : 2 ^ n = 2 ^ m * (2 * 2 ^ (n - m - 1)) := by
        rw [← Nat.pow_succ', ← Nat.pow_add]; congr 1; omega
      rw [h2, Nat.add_mul_div_left _ _ (Nat.pow_pos (by decide))]
      omega
    · have h2 : 2 ^ m = 2 ^ n * (2 * 2 ^ (m - n - 1)) := by
        rw [← Nat.pow_succ', ← Nat.pow_add]; congr 1; omega
      rw [h2, ← Nat.div_div_eq_div_mul, ← Nat.div_div_eq_div_mul, hdiv, ← Nat.div_div_eq_div_mul, ← Nat.div_div_eq_div_mul]
      congr 2
      omega

theorem bit_setBit (x n m : Nat) : bit (setBit x n) m = if m = n then true else bit x m := by
  unfold setBit
  split
  · rename_i h; split
    · rename_i e; rw [e, h]
    · rfl
  · rename_i h; exact bit_add_two_pow (by simpa using h) m

theorem bit_clearBit (x n m : Nat) : bit (clearBit x n) m = if m = n then false else bit x m := by
  unfold clearBit
  by_cases h : bit x n = true
  · simp only [h, if_true]
    have hle : 2 ^ n ≤ x := by
      rw [bit_def] at h
      apply Nat.le_of_not_lt; intro hlt
      simp [Nat.div_eq_of_lt hlt] at h
    have hb : bit (x - 2 ^ n) n = false := by
      rw [bit_def] at h ⊢
      have hpos : 0 < 2 ^ n := Nat.pow_pos (by decide)
      have := Nat.sub_mul_div x (2 ^ n) 1
      rw [Nat.mul_one] at this
      rw [this]
      simp at h ⊢
      omega
    have := bit_add_two_pow hb m
    rw [Nat.sub_add_cancel hle] at this
    by_cases e : m = n
    · subst e; simp [hb]
    · simpa [e] using this.symm
  · have h' : bit x n = false := by simpa using h
    rw [if_neg h]
    split
    · rename_i e; rw [e]; exact h'
    · rfl

/-! ## A context's registers and predicates (R359) -/

theorem Ctx.greg_setReg (c : Ctx) (n r : Nat) (v : Word64) :
    (c.setReg n v).greg r = if r = n then (if n = 0 then 0 else v) else c.greg r := by
  unfold Ctx.setReg Ctx.greg
  by_cases h0 : n = 0
  · subst h0; by_cases hr : r = 0 <;> simp [hr]
  · simp only [h0, if_false]
    by_cases hr : r = 0
    · subst hr; simp [Ne.symm h0]
    · simp [hr, Tab.get_set]

theorem Ctx.preds_setPred (c : Ctx) (n p : Nat) (v : Bool) : bit (c.setPred n v).preds p = if p = n then v else bit c.preds p := by
  unfold Ctx.setPred
  cases v
  · simp [bit_clearBit]
  · simp [bit_setBit]

end Sys2Proof.Machine
end

