-- ==== Sys2Proof/Laws/State.lean ====
section
/-! SUPPORT. What each update of the state leaves in each field: one lemma per field per update. -/

set_option Elab.async false

namespace Sys2Proof.Machine

/-! ## wr -/

@[simp] theorem State.wr_variant (s : State) (o : Obj) (i v : Nat) : (s.wr o i v).variant = s.variant := rfl
@[simp] theorem State.wr_chipId (s : State) (o : Obj) (i v : Nat) : (s.wr o i v).chipId = s.chipId := rfl
@[simp] theorem State.wr_mctpPen (s : State) (o : Obj) (i v : Nat) : (s.wr o i v).mctpPen = s.mctpPen := rfl
@[simp] theorem State.wr_pageBase (s : State) (o : Obj) (i v : Nat) : (s.wr o i v).pageBase = s.pageBase := rfl
@[simp] theorem State.wr_mainReq (s : State) (o : Obj) (i v : Nat) : (s.wr o i v).mainReq = s.mainReq := rfl
@[simp] theorem State.wr_mainGood (s : State) (o : Obj) (i v : Nat) : (s.wr o i v).mainGood = s.mainGood := rfl
@[simp] theorem State.wr_coldReleased (s : State) (o : Obj) (i v : Nat) : (s.wr o i v).coldReleased = s.coldReleased := rfl
@[simp] theorem State.wr_bootTick (s : State) (o : Obj) (i v : Nat) : (s.wr o i v).bootTick = s.bootTick := rfl
@[simp] theorem State.wr_clockMhz (s : State) (o : Obj) (i v : Nat) : (s.wr o i v).clockMhz = s.clockMhz := rfl
@[simp] theorem State.wr_krdInt (s : State) (o : Obj) (i v : Nat) : (s.wr o i v).krdInt = s.krdInt := rfl
@[simp] theorem State.wr_tick (s : State) (o : Obj) (i v : Nat) : (s.wr o i v).tick = s.tick := rfl
@[simp] theorem State.wr_objs (s : State) (o : Obj) (i v : Nat) : (s.wr o i v).objs = Tab.set o.reset s.objs (o.key i) v := rfl
@[simp] theorem State.wr_free (s : State) (o : Obj) (i v : Nat) : (s.wr o i v).free = s.free := rfl
@[simp] theorem State.wr_mem (s : State) (o : Obj) (i v : Nat) : (s.wr o i v).mem = s.mem := rfl
@[simp] theorem State.wr_memStatus (s : State) (o : Obj) (i v : Nat) : (s.wr o i v).memStatus = s.memStatus := rfl
@[simp] theorem State.wr_out (s : State) (o : Obj) (i v : Nat) : (s.wr o i v).out = s.out := rfl
@[simp] theorem State.wr_gate (s : State) (o : Obj) (i v : Nat) : (s.wr o i v).gate = s.gate := rfl
@[simp] theorem State.wr_landing (s : State) (o : Obj) (i v : Nat) : (s.wr o i v).landing = s.landing := rfl
@[simp] theorem State.wr_planCache (s : State) (o : Obj) (i v : Nat) : (s.wr o i v).planCache = s.planCache := rfl
@[simp] theorem State.wr_scratch (s : State) (o : Obj) (i v : Nat) : (s.wr o i v).scratch = s.scratch := rfl
@[simp] theorem State.wr_checks (s : State) (o : Obj) (i v : Nat) : (s.wr o i v).checks = s.checks := rfl
@[simp] theorem State.wr_units (s : State) (o : Obj) (i v : Nat) : (s.wr o i v).units = s.units := rfl
@[simp] theorem State.wr_promo (s : State) (o : Obj) (i v : Nat) : (s.wr o i v).promo = s.promo := rfl
@[simp] theorem State.wr_summary (s : State) (o : Obj) (i v : Nat) : (s.wr o i v).summary = s.summary := rfl
@[simp] theorem State.wr_inject (s : State) (o : Obj) (i v : Nat) : (s.wr o i v).inject = s.inject := rfl
@[simp] theorem State.wr_stopDeadline (s : State) (o : Obj) (i v : Nat) : (s.wr o i v).stopDeadline = s.stopDeadline := rfl
@[simp] theorem State.wr_rings (s : State) (o : Obj) (i v : Nat) : (s.wr o i v).rings = s.rings := rfl
@[simp] theorem State.wr_cmds (s : State) (o : Obj) (i v : Nat) : (s.wr o i v).cmds = s.cmds := rfl
@[simp] theorem State.wr_nextUid (s : State) (o : Obj) (i v : Nat) : (s.wr o i v).nextUid = s.nextUid := rfl
@[simp] theorem State.wr_ctxs (s : State) (o : Obj) (i v : Nat) : (s.wr o i v).ctxs = s.ctxs := rfl
@[simp] theorem State.wr_excs (s : State) (o : Obj) (i v : Nat) : (s.wr o i v).excs = s.excs := rfl
@[simp] theorem State.wr_patterns (s : State) (o : Obj) (i v : Nat) : (s.wr o i v).patterns = s.patterns := rfl
@[simp] theorem State.wr_patLoads (s : State) (o : Obj) (i v : Nat) : (s.wr o i v).patLoads = s.patLoads := rfl
@[simp] theorem State.wr_tallies (s : State) (o : Obj) (i v : Nat) : (s.wr o i v).tallies = s.tallies := rfl
@[simp] theorem State.wr_tallyBad (s : State) (o : Obj) (i v : Nat) : (s.wr o i v).tallyBad = s.tallyBad := rfl
@[simp] theorem State.wr_tallyFlip (s : State) (o : Obj) (i v : Nat) : (s.wr o i v).tallyFlip = s.tallyFlip := rfl
@[simp] theorem State.wr_watchTable (s : State) (o : Obj) (i v : Nat) : (s.wr o i v).watchTable = s.watchTable := rfl
@[simp] theorem State.wr_pollList (s : State) (o : Obj) (i v : Nat) : (s.wr o i v).pollList = s.pollList := rfl
@[simp] theorem State.wr_pageWatch (s : State) (o : Obj) (i v : Nat) : (s.wr o i v).pageWatch = s.pageWatch := rfl
@[simp] theorem State.wr_pools (s : State) (o : Obj) (i v : Nat) : (s.wr o i v).pools = s.pools := rfl
@[simp] theorem State.wr_bufs (s : State) (o : Obj) (i v : Nat) : (s.wr o i v).bufs = s.bufs := rfl
@[simp] theorem State.wr_withdrawnList (s : State) (o : Obj) (i v : Nat) : (s.wr o i v).withdrawnList = s.withdrawnList := rfl
@[simp] theorem State.wr_freeStatus (s : State) (o : Obj) (i v : Nat) : (s.wr o i v).freeStatus = s.freeStatus := rfl
@[simp] theorem State.wr_heldReads (s : State) (o : Obj) (i v : Nat) : (s.wr o i v).heldReads = s.heldReads := rfl
@[simp] theorem State.wr_copies (s : State) (o : Obj) (i v : Nat) : (s.wr o i v).copies = s.copies := rfl
@[simp] theorem State.wr_nextCopy (s : State) (o : Obj) (i v : Nat) : (s.wr o i v).nextCopy = s.nextCopy := rfl
@[simp] theorem State.wr_mouldUser (s : State) (o : Obj) (i v : Nat) : (s.wr o i v).mouldUser = s.mouldUser := rfl
@[simp] theorem State.wr_mouldBufs (s : State) (o : Obj) (i v : Nat) : (s.wr o i v).mouldBufs = s.mouldBufs := rfl
@[simp] theorem State.wr_owners (s : State) (o : Obj) (i v : Nat) : (s.wr o i v).owners = s.owners := rfl
@[simp] theorem State.wr_checkChans (s : State) (o : Obj) (i v : Nat) : (s.wr o i v).checkChans = s.checkChans := rfl
@[simp] theorem State.wr_checkMismatch (s : State) (o : Obj) (i v : Nat) : (s.wr o i v).checkMismatch = s.checkMismatch := rfl
@[simp] theorem State.wr_replays (s : State) (o : Obj) (i v : Nat) : (s.wr o i v).replays = s.replays := rfl
@[simp] theorem State.wr_subs (s : State) (o : Obj) (i v : Nat) : (s.wr o i v).subs = s.subs := rfl
@[simp] theorem State.wr_queries (s : State) (o : Obj) (i v : Nat) : (s.wr o i v).queries = s.queries := rfl
@[simp] theorem State.wr_mctpEid (s : State) (o : Obj) (i v : Nat) : (s.wr o i v).mctpEid = s.mctpEid := rfl
@[simp] theorem State.wr_heldAap (s : State) (o : Obj) (i v : Nat) : (s.wr o i v).heldAap = s.heldAap := rfl
@[simp] theorem State.wr_stateSince (s : State) (o : Obj) (i v : Nat) : (s.wr o i v).stateSince = s.stateSince := rfl
@[simp] theorem State.wr_quietSince (s : State) (o : Obj) (i v : Nat) : (s.wr o i v).quietSince = s.quietSince := rfl
@[simp] theorem State.wr_feedB (s : State) (o : Obj) (i v : Nat) : (s.wr o i v).feedB = s.feedB := rfl
@[simp] theorem State.wr_feedTick (s : State) (o : Obj) (i v : Nat) : (s.wr o i v).feedTick = s.feedTick := rfl
@[simp] theorem State.wr_heldPages (s : State) (o : Obj) (i v : Nat) : (s.wr o i v).heldPages = s.heldPages := rfl
@[simp] theorem State.wr_doorLatch (s : State) (o : Obj) (i v : Nat) : (s.wr o i v).doorLatch = s.doorLatch := rfl
@[simp] theorem State.wr_timers (s : State) (o : Obj) (i v : Nat) : (s.wr o i v).timers = s.timers := rfl
@[simp] theorem State.wr_teleBase (s : State) (o : Obj) (i v : Nat) : (s.wr o i v).teleBase = s.teleBase := rfl
@[simp] theorem State.wr_saved (s : State) (o : Obj) (i v : Nat) : (s.wr o i v).saved = s.saved := rfl
@[simp] theorem State.wr_savedAt (s : State) (o : Obj) (i v : Nat) : (s.wr o i v).savedAt = s.savedAt := rfl
@[simp] theorem State.wr_plans (s : State) (o : Obj) (i v : Nat) : (s.wr o i v).plans = s.plans := rfl
@[simp] theorem State.wr_layerStates (s : State) (o : Obj) (i v : Nat) : (s.wr o i v).layerStates = s.layerStates := rfl
@[simp] theorem State.wr_planLoads (s : State) (o : Obj) (i v : Nat) : (s.wr o i v).planLoads = s.planLoads := rfl
@[simp] theorem State.wr_masks (s : State) (o : Obj) (i v : Nat) : (s.wr o i v).masks = s.masks := rfl
@[simp] theorem State.wr_disps (s : State) (o : Obj) (i v : Nat) : (s.wr o i v).disps = s.disps := rfl
@[simp] theorem State.wr_pourQueue (s : State) (o : Obj) (i v : Nat) : (s.wr o i v).pourQueue = s.pourQueue := rfl
@[simp] theorem State.wr_blocks (s : State) (o : Obj) (i v : Nat) : (s.wr o i v).blocks = s.blocks := rfl
@[simp] theorem State.wr_sharedPosts (s : State) (o : Obj) (i v : Nat) : (s.wr o i v).sharedPosts = s.sharedPosts := rfl
@[simp] theorem State.wr_queueSeq (s : State) (o : Obj) (i v : Nat) : (s.wr o i v).queueSeq = s.queueSeq := rfl
@[simp] theorem State.wr_peers (s : State) (o : Obj) (i v : Nat) : (s.wr o i v).peers = s.peers := rfl
@[simp] theorem State.wr_atomReqs (s : State) (o : Obj) (i v : Nat) : (s.wr o i v).atomReqs = s.atomReqs := rfl
@[simp] theorem State.wr_replyCache (s : State) (o : Obj) (i v : Nat) : (s.wr o i v).replyCache = s.replyCache := rfl
@[simp] theorem State.wr_xfers (s : State) (o : Obj) (i v : Nat) : (s.wr o i v).xfers = s.xfers := rfl
@[simp] theorem State.wr_versions (s : State) (o : Obj) (i v : Nat) : (s.wr o i v).versions = s.versions := rfl
@[simp] theorem State.wr_control (s : State) (o : Obj) (i v : Nat) : (s.wr o i v).control = s.control := rfl
@[simp] theorem State.wr_fetchHeld (s : State) (o : Obj) (i v : Nat) : (s.wr o i v).fetchHeld = s.fetchHeld := rfl
@[simp] theorem State.wr_ports (s : State) (o : Obj) (i v : Nat) : (s.wr o i v).ports = s.ports := rfl
@[simp] theorem State.wr_planBuckets (s : State) (o : Obj) (i v : Nat) : (s.wr o i v).planBuckets = s.planBuckets := rfl
@[simp] theorem State.wr_pathBuckets (s : State) (o : Obj) (i v : Nat) : (s.wr o i v).pathBuckets = s.pathBuckets := rfl
@[simp] theorem State.wr_firstUp (s : State) (o : Obj) (i v : Nat) : (s.wr o i v).firstUp = s.firstUp := rfl
@[simp] theorem State.wr_quiet (s : State) (o : Obj) (i v : Nat) : (s.wr o i v).quiet = s.quiet := rfl
@[simp] theorem State.wr_probesSent (s : State) (o : Obj) (i v : Nat) : (s.wr o i v).probesSent = s.probesSent := rfl
@[simp] theorem State.wr_surveyTick (s : State) (o : Obj) (i v : Nat) : (s.wr o i v).surveyTick = s.surveyTick := rfl
@[simp] theorem State.wr_flasks (s : State) (o : Obj) (i v : Nat) : (s.wr o i v).flasks = s.flasks := rfl
@[simp] theorem State.wr_heldFrames (s : State) (o : Obj) (i v : Nat) : (s.wr o i v).heldFrames = s.heldFrames := rfl
@[simp] theorem State.wr_pourUses (s : State) (o : Obj) (i v : Nat) : (s.wr o i v).pourUses = s.pourUses := rfl
@[simp] theorem State.wr_groupQueues (s : State) (o : Obj) (i v : Nat) : (s.wr o i v).groupQueues = s.groupQueues := rfl
@[simp] theorem State.wr_useNumbers (s : State) (o : Obj) (i v : Nat) : (s.wr o i v).useNumbers = s.useNumbers := rfl
@[simp] theorem State.wr_groups (s : State) (o : Obj) (i v : Nat) : (s.wr o i v).groups = s.groups := rfl
@[simp] theorem State.wr_balances (s : State) (o : Obj) (i v : Nat) : (s.wr o i v).balances = s.balances := rfl
@[simp] theorem State.wr_boundaries (s : State) (o : Obj) (i v : Nat) : (s.wr o i v).boundaries = s.boundaries := rfl
@[simp] theorem State.wr_pending (s : State) (o : Obj) (i v : Nat) : (s.wr o i v).pending = s.pending := rfl

/-! ## inc -/

@[simp] theorem State.inc_variant (s : State) (o : Obj) (i n : Nat) : (s.inc o i n).variant = s.variant := rfl
@[simp] theorem State.inc_chipId (s : State) (o : Obj) (i n : Nat) : (s.inc o i n).chipId = s.chipId := rfl
@[simp] theorem State.inc_mctpPen (s : State) (o : Obj) (i n : Nat) : (s.inc o i n).mctpPen = s.mctpPen := rfl
@[simp] theorem State.inc_pageBase (s : State) (o : Obj) (i n : Nat) : (s.inc o i n).pageBase = s.pageBase := rfl
@[simp] theorem State.inc_mainReq (s : State) (o : Obj) (i n : Nat) : (s.inc o i n).mainReq = s.mainReq := rfl
@[simp] theorem State.inc_mainGood (s : State) (o : Obj) (i n : Nat) : (s.inc o i n).mainGood = s.mainGood := rfl
@[simp] theorem State.inc_coldReleased (s : State) (o : Obj) (i n : Nat) : (s.inc o i n).coldReleased = s.coldReleased := rfl
@[simp] theorem State.inc_bootTick (s : State) (o : Obj) (i n : Nat) : (s.inc o i n).bootTick = s.bootTick := rfl
@[simp] theorem State.inc_clockMhz (s : State) (o : Obj) (i n : Nat) : (s.inc o i n).clockMhz = s.clockMhz := rfl
@[simp] theorem State.inc_krdInt (s : State) (o : Obj) (i n : Nat) : (s.inc o i n).krdInt = s.krdInt := rfl
@[simp] theorem State.inc_tick (s : State) (o : Obj) (i n : Nat) : (s.inc o i n).tick = s.tick := rfl
@[simp] theorem State.inc_objs (s : State) (o : Obj) (i n : Nat) : (s.inc o i n).objs = Tab.set o.reset s.objs (o.key i) ((s.rd o i + n) % 2 ^ (8 * o.len)) := rfl
@[simp] theorem State.inc_free (s : State) (o : Obj) (i n : Nat) : (s.inc o i n).free = s.free := rfl
@[simp] theorem State.inc_mem (s : State) (o : Obj) (i n : Nat) : (s.inc o i n).mem = s.mem := rfl
@[simp] theorem State.inc_memStatus (s : State) (o : Obj) (i n : Nat) : (s.inc o i n).memStatus = s.memStatus := rfl
@[simp] theorem State.inc_out (s : State) (o : Obj) (i n : Nat) : (s.inc o i n).out = s.out := rfl
@[simp] theorem State.inc_gate (s : State) (o : Obj) (i n : Nat) : (s.inc o i n).gate = s.gate := rfl
@[simp] theorem State.inc_landing (s : State) (o : Obj) (i n : Nat) : (s.inc o i n).landing = s.landing := rfl
@[simp] theorem State.inc_planCache (s : State) (o : Obj) (i n : Nat) : (s.inc o i n).planCache = s.planCache := rfl
@[simp] theorem State.inc_scratch (s : State) (o : Obj) (i n : Nat) : (s.inc o i n).scratch = s.scratch := rfl
@[simp] theorem State.inc_checks (s : State) (o : Obj) (i n : Nat) : (s.inc o i n).checks = s.checks := rfl
@[simp] theorem State.inc_units (s : State) (o : Obj) (i n : Nat) : (s.inc o i n).units = s.units := rfl
@[simp] theorem State.inc_promo (s : State) (o : Obj) (i n : Nat) : (s.inc o i n).promo = s.promo := rfl
@[simp] theorem State.inc_summary (s : State) (o : Obj) (i n : Nat) : (s.inc o i n).summary = s.summary := rfl
@[simp] theorem State.inc_inject (s : State) (o : Obj) (i n : Nat) : (s.inc o i n).inject = s.inject := rfl
@[simp] theorem State.inc_stopDeadline (s : State) (o : Obj) (i n : Nat) : (s.inc o i n).stopDeadline = s.stopDeadline := rfl
@[simp] theorem State.inc_rings (s : State) (o : Obj) (i n : Nat) : (s.inc o i n).rings = s.rings := rfl
@[simp] theorem State.inc_cmds (s : State) (o : Obj) (i n : Nat) : (s.inc o i n).cmds = s.cmds := rfl
@[simp] theorem State.inc_nextUid (s : State) (o : Obj) (i n : Nat) : (s.inc o i n).nextUid = s.nextUid := rfl
@[simp] theorem State.inc_ctxs (s : State) (o : Obj) (i n : Nat) : (s.inc o i n).ctxs = s.ctxs := rfl
@[simp] theorem State.inc_excs (s : State) (o : Obj) (i n : Nat) : (s.inc o i n).excs = s.excs := rfl
@[simp] theorem State.inc_patterns (s : State) (o : Obj) (i n : Nat) : (s.inc o i n).patterns = s.patterns := rfl
@[simp] theorem State.inc_patLoads (s : State) (o : Obj) (i n : Nat) : (s.inc o i n).patLoads = s.patLoads := rfl
@[simp] theorem State.inc_tallies (s : State) (o : Obj) (i n : Nat) : (s.inc o i n).tallies = s.tallies := rfl
@[simp] theorem State.inc_tallyBad (s : State) (o : Obj) (i n : Nat) : (s.inc o i n).tallyBad = s.tallyBad := rfl
@[simp] theorem State.inc_tallyFlip (s : State) (o : Obj) (i n : Nat) : (s.inc o i n).tallyFlip = s.tallyFlip := rfl
@[simp] theorem State.inc_watchTable (s : State) (o : Obj) (i n : Nat) : (s.inc o i n).watchTable = s.watchTable := rfl
@[simp] theorem State.inc_pollList (s : State) (o : Obj) (i n : Nat) : (s.inc o i n).pollList = s.pollList := rfl
@[simp] theorem State.inc_pageWatch (s : State) (o : Obj) (i n : Nat) : (s.inc o i n).pageWatch = s.pageWatch := rfl
@[simp] theorem State.inc_pools (s : State) (o : Obj) (i n : Nat) : (s.inc o i n).pools = s.pools := rfl
@[simp] theorem State.inc_bufs (s : State) (o : Obj) (i n : Nat) : (s.inc o i n).bufs = s.bufs := rfl
@[simp] theorem State.inc_withdrawnList (s : State) (o : Obj) (i n : Nat) : (s.inc o i n).withdrawnList = s.withdrawnList := rfl
@[simp] theorem State.inc_freeStatus (s : State) (o : Obj) (i n : Nat) : (s.inc o i n).freeStatus = s.freeStatus := rfl
@[simp] theorem State.inc_heldReads (s : State) (o : Obj) (i n : Nat) : (s.inc o i n).heldReads = s.heldReads := rfl
@[simp] theorem State.inc_copies (s : State) (o : Obj) (i n : Nat) : (s.inc o i n).copies = s.copies := rfl
@[simp] theorem State.inc_nextCopy (s : State) (o : Obj) (i n : Nat) : (s.inc o i n).nextCopy = s.nextCopy := rfl
@[simp] theorem State.inc_mouldUser (s : State) (o : Obj) (i n : Nat) : (s.inc o i n).mouldUser = s.mouldUser := rfl
@[simp] theorem State.inc_mouldBufs (s : State) (o : Obj) (i n : Nat) : (s.inc o i n).mouldBufs = s.mouldBufs := rfl
@[simp] theorem State.inc_owners (s : State) (o : Obj) (i n : Nat) : (s.inc o i n).owners = s.owners := rfl
@[simp] theorem State.inc_checkChans (s : State) (o : Obj) (i n : Nat) : (s.inc o i n).checkChans = s.checkChans := rfl
@[simp] theorem State.inc_checkMismatch (s : State) (o : Obj) (i n : Nat) : (s.inc o i n).checkMismatch = s.checkMismatch := rfl
@[simp] theorem State.inc_replays (s : State) (o : Obj) (i n : Nat) : (s.inc o i n).replays = s.replays := rfl
@[simp] theorem State.inc_subs (s : State) (o : Obj) (i n : Nat) : (s.inc o i n).subs = s.subs := rfl
@[simp] theorem State.inc_queries (s : State) (o : Obj) (i n : Nat) : (s.inc o i n).queries = s.queries := rfl
@[simp] theorem State.inc_mctpEid (s : State) (o : Obj) (i n : Nat) : (s.inc o i n).mctpEid = s.mctpEid := rfl
@[simp] theorem State.inc_heldAap (s : State) (o : Obj) (i n : Nat) : (s.inc o i n).heldAap = s.heldAap := rfl
@[simp] theorem State.inc_stateSince (s : State) (o : Obj) (i n : Nat) : (s.inc o i n).stateSince = s.stateSince := rfl
@[simp] theorem State.inc_quietSince (s : State) (o : Obj) (i n : Nat) : (s.inc o i n).quietSince = s.quietSince := rfl
@[simp] theorem State.inc_feedB (s : State) (o : Obj) (i n : Nat) : (s.inc o i n).feedB = s.feedB := rfl
@[simp] theorem State.inc_feedTick (s : State) (o : Obj) (i n : Nat) : (s.inc o i n).feedTick = s.feedTick := rfl
@[simp] theorem State.inc_heldPages (s : State) (o : Obj) (i n : Nat) : (s.inc o i n).heldPages = s.heldPages := rfl
@[simp] theorem State.inc_doorLatch (s : State) (o : Obj) (i n : Nat) : (s.inc o i n).doorLatch = s.doorLatch := rfl
@[simp] theorem State.inc_timers (s : State) (o : Obj) (i n : Nat) : (s.inc o i n).timers = s.timers := rfl
@[simp] theorem State.inc_teleBase (s : State) (o : Obj) (i n : Nat) : (s.inc o i n).teleBase = s.teleBase := rfl
@[simp] theorem State.inc_saved (s : State) (o : Obj) (i n : Nat) : (s.inc o i n).saved = s.saved := rfl
@[simp] theorem State.inc_savedAt (s : State) (o : Obj) (i n : Nat) : (s.inc o i n).savedAt = s.savedAt := rfl
@[simp] theorem State.inc_plans (s : State) (o : Obj) (i n : Nat) : (s.inc o i n).plans = s.plans := rfl
@[simp] theorem State.inc_layerStates (s : State) (o : Obj) (i n : Nat) : (s.inc o i n).layerStates = s.layerStates := rfl
@[simp] theorem State.inc_planLoads (s : State) (o : Obj) (i n : Nat) : (s.inc o i n).planLoads = s.planLoads := rfl
@[simp] theorem State.inc_masks (s : State) (o : Obj) (i n : Nat) : (s.inc o i n).masks = s.masks := rfl
@[simp] theorem State.inc_disps (s : State) (o : Obj) (i n : Nat) : (s.inc o i n).disps = s.disps := rfl
@[simp] theorem State.inc_pourQueue (s : State) (o : Obj) (i n : Nat) : (s.inc o i n).pourQueue = s.pourQueue := rfl
@[simp] theorem State.inc_blocks (s : State) (o : Obj) (i n : Nat) : (s.inc o i n).blocks = s.blocks := rfl
@[simp] theorem State.inc_sharedPosts (s : State) (o : Obj) (i n : Nat) : (s.inc o i n).sharedPosts = s.sharedPosts := rfl
@[simp] theorem State.inc_queueSeq (s : State) (o : Obj) (i n : Nat) : (s.inc o i n).queueSeq = s.queueSeq := rfl
@[simp] theorem State.inc_peers (s : State) (o : Obj) (i n : Nat) : (s.inc o i n).peers = s.peers := rfl
@[simp] theorem State.inc_atomReqs (s : State) (o : Obj) (i n : Nat) : (s.inc o i n).atomReqs = s.atomReqs := rfl
@[simp] theorem State.inc_replyCache (s : State) (o : Obj) (i n : Nat) : (s.inc o i n).replyCache = s.replyCache := rfl
@[simp] theorem State.inc_xfers (s : State) (o : Obj) (i n : Nat) : (s.inc o i n).xfers = s.xfers := rfl
@[simp] theorem State.inc_versions (s : State) (o : Obj) (i n : Nat) : (s.inc o i n).versions = s.versions := rfl
@[simp] theorem State.inc_control (s : State) (o : Obj) (i n : Nat) : (s.inc o i n).control = s.control := rfl
@[simp] theorem State.inc_fetchHeld (s : State) (o : Obj) (i n : Nat) : (s.inc o i n).fetchHeld = s.fetchHeld := rfl
@[simp] theorem State.inc_ports (s : State) (o : Obj) (i n : Nat) : (s.inc o i n).ports = s.ports := rfl
@[simp] theorem State.inc_planBuckets (s : State) (o : Obj) (i n : Nat) : (s.inc o i n).planBuckets = s.planBuckets := rfl
@[simp] theorem State.inc_pathBuckets (s : State) (o : Obj) (i n : Nat) : (s.inc o i n).pathBuckets = s.pathBuckets := rfl
@[simp] theorem State.inc_firstUp (s : State) (o : Obj) (i n : Nat) : (s.inc o i n).firstUp = s.firstUp := rfl
@[simp] theorem State.inc_quiet (s : State) (o : Obj) (i n : Nat) : (s.inc o i n).quiet = s.quiet := rfl
@[simp] theorem State.inc_probesSent (s : State) (o : Obj) (i n : Nat) : (s.inc o i n).probesSent = s.probesSent := rfl
@[simp] theorem State.inc_surveyTick (s : State) (o : Obj) (i n : Nat) : (s.inc o i n).surveyTick = s.surveyTick := rfl
@[simp] theorem State.inc_flasks (s : State) (o : Obj) (i n : Nat) : (s.inc o i n).flasks = s.flasks := rfl
@[simp] theorem State.inc_heldFrames (s : State) (o : Obj) (i n : Nat) : (s.inc o i n).heldFrames = s.heldFrames := rfl
@[simp] theorem State.inc_pourUses (s : State) (o : Obj) (i n : Nat) : (s.inc o i n).pourUses = s.pourUses := rfl
@[simp] theorem State.inc_groupQueues (s : State) (o : Obj) (i n : Nat) : (s.inc o i n).groupQueues = s.groupQueues := rfl
@[simp] theorem State.inc_useNumbers (s : State) (o : Obj) (i n : Nat) : (s.inc o i n).useNumbers = s.useNumbers := rfl
@[simp] theorem State.inc_groups (s : State) (o : Obj) (i n : Nat) : (s.inc o i n).groups = s.groups := rfl
@[simp] theorem State.inc_balances (s : State) (o : Obj) (i n : Nat) : (s.inc o i n).balances = s.balances := rfl
@[simp] theorem State.inc_boundaries (s : State) (o : Obj) (i n : Nat) : (s.inc o i n).boundaries = s.boundaries := rfl
@[simp] theorem State.inc_pending (s : State) (o : Obj) (i n : Nat) : (s.inc o i n).pending = s.pending := rfl

/-! ## emit -/

@[simp] theorem State.emit_variant (s : State) (o : Out) : (s.emit o).variant = s.variant := rfl
@[simp] theorem State.emit_chipId (s : State) (o : Out) : (s.emit o).chipId = s.chipId := rfl
@[simp] theorem State.emit_mctpPen (s : State) (o : Out) : (s.emit o).mctpPen = s.mctpPen := rfl
@[simp] theorem State.emit_pageBase (s : State) (o : Out) : (s.emit o).pageBase = s.pageBase := rfl
@[simp] theorem State.emit_mainReq (s : State) (o : Out) : (s.emit o).mainReq = s.mainReq := rfl
@[simp] theorem State.emit_mainGood (s : State) (o : Out) : (s.emit o).mainGood = s.mainGood := rfl
@[simp] theorem State.emit_coldReleased (s : State) (o : Out) : (s.emit o).coldReleased = s.coldReleased := rfl
@[simp] theorem State.emit_bootTick (s : State) (o : Out) : (s.emit o).bootTick = s.bootTick := rfl
@[simp] theorem State.emit_clockMhz (s : State) (o : Out) : (s.emit o).clockMhz = s.clockMhz := rfl
@[simp] theorem State.emit_krdInt (s : State) (o : Out) : (s.emit o).krdInt = s.krdInt := rfl
@[simp] theorem State.emit_tick (s : State) (o : Out) : (s.emit o).tick = s.tick := rfl
@[simp] theorem State.emit_objs (s : State) (o : Out) : (s.emit o).objs = s.objs := rfl
@[simp] theorem State.emit_free (s : State) (o : Out) : (s.emit o).free = s.free := rfl
@[simp] theorem State.emit_mem (s : State) (o : Out) : (s.emit o).mem = s.mem := rfl
@[simp] theorem State.emit_memStatus (s : State) (o : Out) : (s.emit o).memStatus = s.memStatus := rfl
@[simp] theorem State.emit_out (s : State) (o : Out) : (s.emit o).out = o :: s.out := rfl
@[simp] theorem State.emit_gate (s : State) (o : Out) : (s.emit o).gate = s.gate := rfl
@[simp] theorem State.emit_landing (s : State) (o : Out) : (s.emit o).landing = s.landing := rfl
@[simp] theorem State.emit_planCache (s : State) (o : Out) : (s.emit o).planCache = s.planCache := rfl
@[simp] theorem State.emit_scratch (s : State) (o : Out) : (s.emit o).scratch = s.scratch := rfl
@[simp] theorem State.emit_checks (s : State) (o : Out) : (s.emit o).checks = s.checks := rfl
@[simp] theorem State.emit_units (s : State) (o : Out) : (s.emit o).units = s.units := rfl
@[simp] theorem State.emit_promo (s : State) (o : Out) : (s.emit o).promo = s.promo := rfl
@[simp] theorem State.emit_summary (s : State) (o : Out) : (s.emit o).summary = s.summary := rfl
@[simp] theorem State.emit_inject (s : State) (o : Out) : (s.emit o).inject = s.inject := rfl
@[simp] theorem State.emit_stopDeadline (s : State) (o : Out) : (s.emit o).stopDeadline = s.stopDeadline := rfl
@[simp] theorem State.emit_rings (s : State) (o : Out) : (s.emit o).rings = s.rings := rfl
@[simp] theorem State.emit_cmds (s : State) (o : Out) : (s.emit o).cmds = s.cmds := rfl
@[simp] theorem State.emit_nextUid (s : State) (o : Out) : (s.emit o).nextUid = s.nextUid := rfl
@[simp] theorem State.emit_ctxs (s : State) (o : Out) : (s.emit o).ctxs = s.ctxs := rfl
@[simp] theorem State.emit_excs (s : State) (o : Out) : (s.emit o).excs = s.excs := rfl
@[simp] theorem State.emit_patterns (s : State) (o : Out) : (s.emit o).patterns = s.patterns := rfl
@[simp] theorem State.emit_patLoads (s : State) (o : Out) : (s.emit o).patLoads = s.patLoads := rfl
@[simp] theorem State.emit_tallies (s : State) (o : Out) : (s.emit o).tallies = s.tallies := rfl
@[simp] theorem State.emit_tallyBad (s : State) (o : Out) : (s.emit o).tallyBad = s.tallyBad := rfl
@[simp] theorem State.emit_tallyFlip (s : State) (o : Out) : (s.emit o).tallyFlip = s.tallyFlip := rfl
@[simp] theorem State.emit_watchTable (s : State) (o : Out) : (s.emit o).watchTable = s.watchTable := rfl
@[simp] theorem State.emit_pollList (s : State) (o : Out) : (s.emit o).pollList = s.pollList := rfl
@[simp] theorem State.emit_pageWatch (s : State) (o : Out) : (s.emit o).pageWatch = s.pageWatch := rfl
@[simp] theorem State.emit_pools (s : State) (o : Out) : (s.emit o).pools = s.pools := rfl
@[simp] theorem State.emit_bufs (s : State) (o : Out) : (s.emit o).bufs = s.bufs := rfl
@[simp] theorem State.emit_withdrawnList (s : State) (o : Out) : (s.emit o).withdrawnList = s.withdrawnList := rfl
@[simp] theorem State.emit_freeStatus (s : State) (o : Out) : (s.emit o).freeStatus = s.freeStatus := rfl
@[simp] theorem State.emit_heldReads (s : State) (o : Out) : (s.emit o).heldReads = s.heldReads := rfl
@[simp] theorem State.emit_copies (s : State) (o : Out) : (s.emit o).copies = s.copies := rfl
@[simp] theorem State.emit_nextCopy (s : State) (o : Out) : (s.emit o).nextCopy = s.nextCopy := rfl
@[simp] theorem State.emit_mouldUser (s : State) (o : Out) : (s.emit o).mouldUser = s.mouldUser := rfl
@[simp] theorem State.emit_mouldBufs (s : State) (o : Out) : (s.emit o).mouldBufs = s.mouldBufs := rfl
@[simp] theorem State.emit_owners (s : State) (o : Out) : (s.emit o).owners = s.owners := rfl
@[simp] theorem State.emit_checkChans (s : State) (o : Out) : (s.emit o).checkChans = s.checkChans := rfl
@[simp] theorem State.emit_checkMismatch (s : State) (o : Out) : (s.emit o).checkMismatch = s.checkMismatch := rfl
@[simp] theorem State.emit_replays (s : State) (o : Out) : (s.emit o).replays = s.replays := rfl
@[simp] theorem State.emit_subs (s : State) (o : Out) : (s.emit o).subs = s.subs := rfl
@[simp] theorem State.emit_queries (s : State) (o : Out) : (s.emit o).queries = s.queries := rfl
@[simp] theorem State.emit_mctpEid (s : State) (o : Out) : (s.emit o).mctpEid = s.mctpEid := rfl
@[simp] theorem State.emit_heldAap (s : State) (o : Out) : (s.emit o).heldAap = s.heldAap := rfl
@[simp] theorem State.emit_stateSince (s : State) (o : Out) : (s.emit o).stateSince = s.stateSince := rfl
@[simp] theorem State.emit_quietSince (s : State) (o : Out) : (s.emit o).quietSince = s.quietSince := rfl
@[simp] theorem State.emit_feedB (s : State) (o : Out) : (s.emit o).feedB = s.feedB := rfl
@[simp] theorem State.emit_feedTick (s : State) (o : Out) : (s.emit o).feedTick = s.feedTick := rfl
@[simp] theorem State.emit_heldPages (s : State) (o : Out) : (s.emit o).heldPages = s.heldPages := rfl
@[simp] theorem State.emit_doorLatch (s : State) (o : Out) : (s.emit o).doorLatch = s.doorLatch := rfl
@[simp] theorem State.emit_timers (s : State) (o : Out) : (s.emit o).timers = s.timers := rfl
@[simp] theorem State.emit_teleBase (s : State) (o : Out) : (s.emit o).teleBase = s.teleBase := rfl
@[simp] theorem State.emit_saved (s : State) (o : Out) : (s.emit o).saved = s.saved := rfl
@[simp] theorem State.emit_savedAt (s : State) (o : Out) : (s.emit o).savedAt = s.savedAt := rfl
@[simp] theorem State.emit_plans (s : State) (o : Out) : (s.emit o).plans = s.plans := rfl
@[simp] theorem State.emit_layerStates (s : State) (o : Out) : (s.emit o).layerStates = s.layerStates := rfl
@[simp] theorem State.emit_planLoads (s : State) (o : Out) : (s.emit o).planLoads = s.planLoads := rfl
@[simp] theorem State.emit_masks (s : State) (o : Out) : (s.emit o).masks = s.masks := rfl
@[simp] theorem State.emit_disps (s : State) (o : Out) : (s.emit o).disps = s.disps := rfl
@[simp] theorem State.emit_pourQueue (s : State) (o : Out) : (s.emit o).pourQueue = s.pourQueue := rfl
@[simp] theorem State.emit_blocks (s : State) (o : Out) : (s.emit o).blocks = s.blocks := rfl
@[simp] theorem State.emit_sharedPosts (s : State) (o : Out) : (s.emit o).sharedPosts = s.sharedPosts := rfl
@[simp] theorem State.emit_queueSeq (s : State) (o : Out) : (s.emit o).queueSeq = s.queueSeq := rfl
@[simp] theorem State.emit_peers (s : State) (o : Out) : (s.emit o).peers = s.peers := rfl
@[simp] theorem State.emit_atomReqs (s : State) (o : Out) : (s.emit o).atomReqs = s.atomReqs := rfl
@[simp] theorem State.emit_replyCache (s : State) (o : Out) : (s.emit o).replyCache = s.replyCache := rfl
@[simp] theorem State.emit_xfers (s : State) (o : Out) : (s.emit o).xfers = s.xfers := rfl
@[simp] theorem State.emit_versions (s : State) (o : Out) : (s.emit o).versions = s.versions := rfl
@[simp] theorem State.emit_control (s : State) (o : Out) : (s.emit o).control = s.control := rfl
@[simp] theorem State.emit_fetchHeld (s : State) (o : Out) : (s.emit o).fetchHeld = s.fetchHeld := rfl
@[simp] theorem State.emit_ports (s : State) (o : Out) : (s.emit o).ports = s.ports := rfl
@[simp] theorem State.emit_planBuckets (s : State) (o : Out) : (s.emit o).planBuckets = s.planBuckets := rfl
@[simp] theorem State.emit_pathBuckets (s : State) (o : Out) : (s.emit o).pathBuckets = s.pathBuckets := rfl
@[simp] theorem State.emit_firstUp (s : State) (o : Out) : (s.emit o).firstUp = s.firstUp := rfl
@[simp] theorem State.emit_quiet (s : State) (o : Out) : (s.emit o).quiet = s.quiet := rfl
@[simp] theorem State.emit_probesSent (s : State) (o : Out) : (s.emit o).probesSent = s.probesSent := rfl
@[simp] theorem State.emit_surveyTick (s : State) (o : Out) : (s.emit o).surveyTick = s.surveyTick := rfl
@[simp] theorem State.emit_flasks (s : State) (o : Out) : (s.emit o).flasks = s.flasks := rfl
@[simp] theorem State.emit_heldFrames (s : State) (o : Out) : (s.emit o).heldFrames = s.heldFrames := rfl
@[simp] theorem State.emit_pourUses (s : State) (o : Out) : (s.emit o).pourUses = s.pourUses := rfl
@[simp] theorem State.emit_groupQueues (s : State) (o : Out) : (s.emit o).groupQueues = s.groupQueues := rfl
@[simp] theorem State.emit_useNumbers (s : State) (o : Out) : (s.emit o).useNumbers = s.useNumbers := rfl
@[simp] theorem State.emit_groups (s : State) (o : Out) : (s.emit o).groups = s.groups := rfl
@[simp] theorem State.emit_balances (s : State) (o : Out) : (s.emit o).balances = s.balances := rfl
@[simp] theorem State.emit_boundaries (s : State) (o : Out) : (s.emit o).boundaries = s.boundaries := rfl
@[simp] theorem State.emit_pending (s : State) (o : Out) : (s.emit o).pending = s.pending := rfl

/-! ## memWrite -/

@[simp] theorem State.memWrite_variant (s : State) (a : Nat) (l : List Byte) : (s.memWrite a l).variant = s.variant := rfl
@[simp] theorem State.memWrite_chipId (s : State) (a : Nat) (l : List Byte) : (s.memWrite a l).chipId = s.chipId := rfl
@[simp] theorem State.memWrite_mctpPen (s : State) (a : Nat) (l : List Byte) : (s.memWrite a l).mctpPen = s.mctpPen := rfl
@[simp] theorem State.memWrite_pageBase (s : State) (a : Nat) (l : List Byte) : (s.memWrite a l).pageBase = s.pageBase := rfl
@[simp] theorem State.memWrite_mainReq (s : State) (a : Nat) (l : List Byte) : (s.memWrite a l).mainReq = s.mainReq := rfl
@[simp] theorem State.memWrite_mainGood (s : State) (a : Nat) (l : List Byte) : (s.memWrite a l).mainGood = s.mainGood := rfl
@[simp] theorem State.memWrite_coldReleased (s : State) (a : Nat) (l : List Byte) : (s.memWrite a l).coldReleased = s.coldReleased := rfl
@[simp] theorem State.memWrite_bootTick (s : State) (a : Nat) (l : List Byte) : (s.memWrite a l).bootTick = s.bootTick := rfl
@[simp] theorem State.memWrite_clockMhz (s : State) (a : Nat) (l : List Byte) : (s.memWrite a l).clockMhz = s.clockMhz := rfl
@[simp] theorem State.memWrite_krdInt (s : State) (a : Nat) (l : List Byte) : (s.memWrite a l).krdInt = s.krdInt := rfl
@[simp] theorem State.memWrite_tick (s : State) (a : Nat) (l : List Byte) : (s.memWrite a l).tick = s.tick := rfl
@[simp] theorem State.memWrite_objs (s : State) (a : Nat) (l : List Byte) : (s.memWrite a l).objs = s.objs := rfl
@[simp] theorem State.memWrite_free (s : State) (a : Nat) (l : List Byte) : (s.memWrite a l).free = s.free := rfl
@[simp] theorem State.memWrite_mem (s : State) (a : Nat) (l : List Byte) : (s.memWrite a l).mem = Tab.writeBytes memDefault s.mem a l := rfl
@[simp] theorem State.memWrite_memStatus (s : State) (a : Nat) (l : List Byte) : (s.memWrite a l).memStatus = s.memStatus := rfl
@[simp] theorem State.memWrite_out (s : State) (a : Nat) (l : List Byte) : (s.memWrite a l).out = s.out := rfl
@[simp] theorem State.memWrite_gate (s : State) (a : Nat) (l : List Byte) : (s.memWrite a l).gate = s.gate := rfl
@[simp] theorem State.memWrite_landing (s : State) (a : Nat) (l : List Byte) : (s.memWrite a l).landing = s.landing := rfl
@[simp] theorem State.memWrite_planCache (s : State) (a : Nat) (l : List Byte) : (s.memWrite a l).planCache = s.planCache := rfl
@[simp] theorem State.memWrite_scratch (s : State) (a : Nat) (l : List Byte) : (s.memWrite a l).scratch = s.scratch := rfl
@[simp] theorem State.memWrite_checks (s : State) (a : Nat) (l : List Byte) : (s.memWrite a l).checks = s.checks := rfl
@[simp] theorem State.memWrite_units (s : State) (a : Nat) (l : List Byte) : (s.memWrite a l).units = s.units := rfl
@[simp] theorem State.memWrite_promo (s : State) (a : Nat) (l : List Byte) : (s.memWrite a l).promo = s.promo := rfl
@[simp] theorem State.memWrite_summary (s : State) (a : Nat) (l : List Byte) : (s.memWrite a l).summary = s.summary := rfl
@[simp] theorem State.memWrite_inject (s : State) (a : Nat) (l : List Byte) : (s.memWrite a l).inject = s.inject := rfl
@[simp] theorem State.memWrite_stopDeadline (s : State) (a : Nat) (l : List Byte) : (s.memWrite a l).stopDeadline = s.stopDeadline := rfl
@[simp] theorem State.memWrite_rings (s : State) (a : Nat) (l : List Byte) : (s.memWrite a l).rings = s.rings := rfl
@[simp] theorem State.memWrite_cmds (s : State) (a : Nat) (l : List Byte) : (s.memWrite a l).cmds = s.cmds := rfl
@[simp] theorem State.memWrite_nextUid (s : State) (a : Nat) (l : List Byte) : (s.memWrite a l).nextUid = s.nextUid := rfl
@[simp] theorem State.memWrite_ctxs (s : State) (a : Nat) (l : List Byte) : (s.memWrite a l).ctxs = s.ctxs := rfl
@[simp] theorem State.memWrite_excs (s : State) (a : Nat) (l : List Byte) : (s.memWrite a l).excs = s.excs := rfl
@[simp] theorem State.memWrite_patterns (s : State) (a : Nat) (l : List Byte) : (s.memWrite a l).patterns = s.patterns := rfl
@[simp] theorem State.memWrite_patLoads (s : State) (a : Nat) (l : List Byte) : (s.memWrite a l).patLoads = s.patLoads := rfl
@[simp] theorem State.memWrite_tallies (s : State) (a : Nat) (l : List Byte) : (s.memWrite a l).tallies = s.tallies := rfl
@[simp] theorem State.memWrite_tallyBad (s : State) (a : Nat) (l : List Byte) : (s.memWrite a l).tallyBad = s.tallyBad := rfl
@[simp] theorem State.memWrite_tallyFlip (s : State) (a : Nat) (l : List Byte) : (s.memWrite a l).tallyFlip = s.tallyFlip := rfl
@[simp] theorem State.memWrite_watchTable (s : State) (a : Nat) (l : List Byte) : (s.memWrite a l).watchTable = s.watchTable := rfl
@[simp] theorem State.memWrite_pollList (s : State) (a : Nat) (l : List Byte) : (s.memWrite a l).pollList = s.pollList := rfl
@[simp] theorem State.memWrite_pageWatch (s : State) (a : Nat) (l : List Byte) : (s.memWrite a l).pageWatch = s.pageWatch := rfl
@[simp] theorem State.memWrite_pools (s : State) (a : Nat) (l : List Byte) : (s.memWrite a l).pools = s.pools := rfl
@[simp] theorem State.memWrite_bufs (s : State) (a : Nat) (l : List Byte) : (s.memWrite a l).bufs = s.bufs := rfl
@[simp] theorem State.memWrite_withdrawnList (s : State) (a : Nat) (l : List Byte) : (s.memWrite a l).withdrawnList = s.withdrawnList := rfl
@[simp] theorem State.memWrite_freeStatus (s : State) (a : Nat) (l : List Byte) : (s.memWrite a l).freeStatus = s.freeStatus := rfl
@[simp] theorem State.memWrite_heldReads (s : State) (a : Nat) (l : List Byte) : (s.memWrite a l).heldReads = s.heldReads := rfl
@[simp] theorem State.memWrite_copies (s : State) (a : Nat) (l : List Byte) : (s.memWrite a l).copies = s.copies := rfl
@[simp] theorem State.memWrite_nextCopy (s : State) (a : Nat) (l : List Byte) : (s.memWrite a l).nextCopy = s.nextCopy := rfl
@[simp] theorem State.memWrite_mouldUser (s : State) (a : Nat) (l : List Byte) : (s.memWrite a l).mouldUser = s.mouldUser := rfl
@[simp] theorem State.memWrite_mouldBufs (s : State) (a : Nat) (l : List Byte) : (s.memWrite a l).mouldBufs = s.mouldBufs := rfl
@[simp] theorem State.memWrite_owners (s : State) (a : Nat) (l : List Byte) : (s.memWrite a l).owners = s.owners := rfl
@[simp] theorem State.memWrite_checkChans (s : State) (a : Nat) (l : List Byte) : (s.memWrite a l).checkChans = s.checkChans := rfl
@[simp] theorem State.memWrite_checkMismatch (s : State) (a : Nat) (l : List Byte) : (s.memWrite a l).checkMismatch = s.checkMismatch := rfl
@[simp] theorem State.memWrite_replays (s : State) (a : Nat) (l : List Byte) : (s.memWrite a l).replays = s.replays := rfl
@[simp] theorem State.memWrite_subs (s : State) (a : Nat) (l : List Byte) : (s.memWrite a l).subs = s.subs := rfl
@[simp] theorem State.memWrite_queries (s : State) (a : Nat) (l : List Byte) : (s.memWrite a l).queries = s.queries := rfl
@[simp] theorem State.memWrite_mctpEid (s : State) (a : Nat) (l : List Byte) : (s.memWrite a l).mctpEid = s.mctpEid := rfl
@[simp] theorem State.memWrite_heldAap (s : State) (a : Nat) (l : List Byte) : (s.memWrite a l).heldAap = s.heldAap := rfl
@[simp] theorem State.memWrite_stateSince (s : State) (a : Nat) (l : List Byte) : (s.memWrite a l).stateSince = s.stateSince := rfl
@[simp] theorem State.memWrite_quietSince (s : State) (a : Nat) (l : List Byte) : (s.memWrite a l).quietSince = s.quietSince := rfl
@[simp] theorem State.memWrite_feedB (s : State) (a : Nat) (l : List Byte) : (s.memWrite a l).feedB = s.feedB := rfl
@[simp] theorem State.memWrite_feedTick (s : State) (a : Nat) (l : List Byte) : (s.memWrite a l).feedTick = s.feedTick := rfl
@[simp] theorem State.memWrite_heldPages (s : State) (a : Nat) (l : List Byte) : (s.memWrite a l).heldPages = s.heldPages := rfl
@[simp] theorem State.memWrite_doorLatch (s : State) (a : Nat) (l : List Byte) : (s.memWrite a l).doorLatch = s.doorLatch := rfl
@[simp] theorem State.memWrite_timers (s : State) (a : Nat) (l : List Byte) : (s.memWrite a l).timers = s.timers := rfl
@[simp] theorem State.memWrite_teleBase (s : State) (a : Nat) (l : List Byte) : (s.memWrite a l).teleBase = s.teleBase := rfl
@[simp] theorem State.memWrite_saved (s : State) (a : Nat) (l : List Byte) : (s.memWrite a l).saved = s.saved := rfl
@[simp] theorem State.memWrite_savedAt (s : State) (a : Nat) (l : List Byte) : (s.memWrite a l).savedAt = s.savedAt := rfl
@[simp] theorem State.memWrite_plans (s : State) (a : Nat) (l : List Byte) : (s.memWrite a l).plans = s.plans := rfl
@[simp] theorem State.memWrite_layerStates (s : State) (a : Nat) (l : List Byte) : (s.memWrite a l).layerStates = s.layerStates := rfl
@[simp] theorem State.memWrite_planLoads (s : State) (a : Nat) (l : List Byte) : (s.memWrite a l).planLoads = s.planLoads := rfl
@[simp] theorem State.memWrite_masks (s : State) (a : Nat) (l : List Byte) : (s.memWrite a l).masks = s.masks := rfl
@[simp] theorem State.memWrite_disps (s : State) (a : Nat) (l : List Byte) : (s.memWrite a l).disps = s.disps := rfl
@[simp] theorem State.memWrite_pourQueue (s : State) (a : Nat) (l : List Byte) : (s.memWrite a l).pourQueue = s.pourQueue := rfl
@[simp] theorem State.memWrite_blocks (s : State) (a : Nat) (l : List Byte) : (s.memWrite a l).blocks = s.blocks := rfl
@[simp] theorem State.memWrite_sharedPosts (s : State) (a : Nat) (l : List Byte) : (s.memWrite a l).sharedPosts = s.sharedPosts := rfl
@[simp] theorem State.memWrite_queueSeq (s : State) (a : Nat) (l : List Byte) : (s.memWrite a l).queueSeq = s.queueSeq := rfl
@[simp] theorem State.memWrite_peers (s : State) (a : Nat) (l : List Byte) : (s.memWrite a l).peers = s.peers := rfl
@[simp] theorem State.memWrite_atomReqs (s : State) (a : Nat) (l : List Byte) : (s.memWrite a l).atomReqs = s.atomReqs := rfl
@[simp] theorem State.memWrite_replyCache (s : State) (a : Nat) (l : List Byte) : (s.memWrite a l).replyCache = s.replyCache := rfl
@[simp] theorem State.memWrite_xfers (s : State) (a : Nat) (l : List Byte) : (s.memWrite a l).xfers = s.xfers := rfl
@[simp] theorem State.memWrite_versions (s : State) (a : Nat) (l : List Byte) : (s.memWrite a l).versions = s.versions := rfl
@[simp] theorem State.memWrite_control (s : State) (a : Nat) (l : List Byte) : (s.memWrite a l).control = s.control := rfl
@[simp] theorem State.memWrite_fetchHeld (s : State) (a : Nat) (l : List Byte) : (s.memWrite a l).fetchHeld = s.fetchHeld := rfl
@[simp] theorem State.memWrite_ports (s : State) (a : Nat) (l : List Byte) : (s.memWrite a l).ports = s.ports := rfl
@[simp] theorem State.memWrite_planBuckets (s : State) (a : Nat) (l : List Byte) : (s.memWrite a l).planBuckets = s.planBuckets := rfl
@[simp] theorem State.memWrite_pathBuckets (s : State) (a : Nat) (l : List Byte) : (s.memWrite a l).pathBuckets = s.pathBuckets := rfl
@[simp] theorem State.memWrite_firstUp (s : State) (a : Nat) (l : List Byte) : (s.memWrite a l).firstUp = s.firstUp := rfl
@[simp] theorem State.memWrite_quiet (s : State) (a : Nat) (l : List Byte) : (s.memWrite a l).quiet = s.quiet := rfl
@[simp] theorem State.memWrite_probesSent (s : State) (a : Nat) (l : List Byte) : (s.memWrite a l).probesSent = s.probesSent := rfl
@[simp] theorem State.memWrite_surveyTick (s : State) (a : Nat) (l : List Byte) : (s.memWrite a l).surveyTick = s.surveyTick := rfl
@[simp] theorem State.memWrite_flasks (s : State) (a : Nat) (l : List Byte) : (s.memWrite a l).flasks = s.flasks := rfl
@[simp] theorem State.memWrite_heldFrames (s : State) (a : Nat) (l : List Byte) : (s.memWrite a l).heldFrames = s.heldFrames := rfl
@[simp] theorem State.memWrite_pourUses (s : State) (a : Nat) (l : List Byte) : (s.memWrite a l).pourUses = s.pourUses := rfl
@[simp] theorem State.memWrite_groupQueues (s : State) (a : Nat) (l : List Byte) : (s.memWrite a l).groupQueues = s.groupQueues := rfl
@[simp] theorem State.memWrite_useNumbers (s : State) (a : Nat) (l : List Byte) : (s.memWrite a l).useNumbers = s.useNumbers := rfl
@[simp] theorem State.memWrite_groups (s : State) (a : Nat) (l : List Byte) : (s.memWrite a l).groups = s.groups := rfl
@[simp] theorem State.memWrite_balances (s : State) (a : Nat) (l : List Byte) : (s.memWrite a l).balances = s.balances := rfl
@[simp] theorem State.memWrite_boundaries (s : State) (a : Nat) (l : List Byte) : (s.memWrite a l).boundaries = s.boundaries := rfl
@[simp] theorem State.memWrite_pending (s : State) (a : Nat) (l : List Byte) : (s.memWrite a l).pending = s.pending := rfl

/-! ## modCmd -/

@[simp] theorem State.modCmd_variant (s : State) (u : Nat) (f : Cmd → Cmd) : (s.modCmd u f).variant = s.variant := rfl
@[simp] theorem State.modCmd_chipId (s : State) (u : Nat) (f : Cmd → Cmd) : (s.modCmd u f).chipId = s.chipId := rfl
@[simp] theorem State.modCmd_mctpPen (s : State) (u : Nat) (f : Cmd → Cmd) : (s.modCmd u f).mctpPen = s.mctpPen := rfl
@[simp] theorem State.modCmd_pageBase (s : State) (u : Nat) (f : Cmd → Cmd) : (s.modCmd u f).pageBase = s.pageBase := rfl
@[simp] theorem State.modCmd_mainReq (s : State) (u : Nat) (f : Cmd → Cmd) : (s.modCmd u f).mainReq = s.mainReq := rfl
@[simp] theorem State.modCmd_mainGood (s : State) (u : Nat) (f : Cmd → Cmd) : (s.modCmd u f).mainGood = s.mainGood := rfl
@[simp] theorem State.modCmd_coldReleased (s : State) (u : Nat) (f : Cmd → Cmd) : (s.modCmd u f).coldReleased = s.coldReleased := rfl
@[simp] theorem State.modCmd_bootTick (s : State) (u : Nat) (f : Cmd → Cmd) : (s.modCmd u f).bootTick = s.bootTick := rfl
@[simp] theorem State.modCmd_clockMhz (s : State) (u : Nat) (f : Cmd → Cmd) : (s.modCmd u f).clockMhz = s.clockMhz := rfl
@[simp] theorem State.modCmd_krdInt (s : State) (u : Nat) (f : Cmd → Cmd) : (s.modCmd u f).krdInt = s.krdInt := rfl
@[simp] theorem State.modCmd_tick (s : State) (u : Nat) (f : Cmd → Cmd) : (s.modCmd u f).tick = s.tick := rfl
@[simp] theorem State.modCmd_objs (s : State) (u : Nat) (f : Cmd → Cmd) : (s.modCmd u f).objs = s.objs := rfl
@[simp] theorem State.modCmd_free (s : State) (u : Nat) (f : Cmd → Cmd) : (s.modCmd u f).free = s.free := rfl
@[simp] theorem State.modCmd_mem (s : State) (u : Nat) (f : Cmd → Cmd) : (s.modCmd u f).mem = s.mem := rfl
@[simp] theorem State.modCmd_memStatus (s : State) (u : Nat) (f : Cmd → Cmd) : (s.modCmd u f).memStatus = s.memStatus := rfl
@[simp] theorem State.modCmd_out (s : State) (u : Nat) (f : Cmd → Cmd) : (s.modCmd u f).out = s.out := rfl
@[simp] theorem State.modCmd_gate (s : State) (u : Nat) (f : Cmd → Cmd) : (s.modCmd u f).gate = s.gate := rfl
@[simp] theorem State.modCmd_landing (s : State) (u : Nat) (f : Cmd → Cmd) : (s.modCmd u f).landing = s.landing := rfl
@[simp] theorem State.modCmd_planCache (s : State) (u : Nat) (f : Cmd → Cmd) : (s.modCmd u f).planCache = s.planCache := rfl
@[simp] theorem State.modCmd_scratch (s : State) (u : Nat) (f : Cmd → Cmd) : (s.modCmd u f).scratch = s.scratch := rfl
@[simp] theorem State.modCmd_checks (s : State) (u : Nat) (f : Cmd → Cmd) : (s.modCmd u f).checks = s.checks := rfl
@[simp] theorem State.modCmd_units (s : State) (u : Nat) (f : Cmd → Cmd) : (s.modCmd u f).units = s.units := rfl
@[simp] theorem State.modCmd_promo (s : State) (u : Nat) (f : Cmd → Cmd) : (s.modCmd u f).promo = s.promo := rfl
@[simp] theorem State.modCmd_summary (s : State) (u : Nat) (f : Cmd → Cmd) : (s.modCmd u f).summary = s.summary := rfl
@[simp] theorem State.modCmd_inject (s : State) (u : Nat) (f : Cmd → Cmd) : (s.modCmd u f).inject = s.inject := rfl
@[simp] theorem State.modCmd_stopDeadline (s : State) (u : Nat) (f : Cmd → Cmd) : (s.modCmd u f).stopDeadline = s.stopDeadline := rfl
@[simp] theorem State.modCmd_rings (s : State) (u : Nat) (f : Cmd → Cmd) : (s.modCmd u f).rings = s.rings := rfl
@[simp] theorem State.modCmd_cmds (s : State) (u : Nat) (f : Cmd → Cmd) : (s.modCmd u f).cmds = Tab.modify s.cmds u f := rfl
@[simp] theorem State.modCmd_nextUid (s : State) (u : Nat) (f : Cmd → Cmd) : (s.modCmd u f).nextUid = s.nextUid := rfl
@[simp] theorem State.modCmd_ctxs (s : State) (u : Nat) (f : Cmd → Cmd) : (s.modCmd u f).ctxs = s.ctxs := rfl
@[simp] theorem State.modCmd_excs (s : State) (u : Nat) (f : Cmd → Cmd) : (s.modCmd u f).excs = s.excs := rfl
@[simp] theorem State.modCmd_patterns (s : State) (u : Nat) (f : Cmd → Cmd) : (s.modCmd u f).patterns = s.patterns := rfl
@[simp] theorem State.modCmd_patLoads (s : State) (u : Nat) (f : Cmd → Cmd) : (s.modCmd u f).patLoads = s.patLoads := rfl
@[simp] theorem State.modCmd_tallies (s : State) (u : Nat) (f : Cmd → Cmd) : (s.modCmd u f).tallies = s.tallies := rfl
@[simp] theorem State.modCmd_tallyBad (s : State) (u : Nat) (f : Cmd → Cmd) : (s.modCmd u f).tallyBad = s.tallyBad := rfl
@[simp] theorem State.modCmd_tallyFlip (s : State) (u : Nat) (f : Cmd → Cmd) : (s.modCmd u f).tallyFlip = s.tallyFlip := rfl
@[simp] theorem State.modCmd_watchTable (s : State) (u : Nat) (f : Cmd → Cmd) : (s.modCmd u f).watchTable = s.watchTable := rfl
@[simp] theorem State.modCmd_pollList (s : State) (u : Nat) (f : Cmd → Cmd) : (s.modCmd u f).pollList = s.pollList := rfl
@[simp] theorem State.modCmd_pageWatch (s : State) (u : Nat) (f : Cmd → Cmd) : (s.modCmd u f).pageWatch = s.pageWatch := rfl
@[simp] theorem State.modCmd_pools (s : State) (u : Nat) (f : Cmd → Cmd) : (s.modCmd u f).pools = s.pools := rfl
@[simp] theorem State.modCmd_bufs (s : State) (u : Nat) (f : Cmd → Cmd) : (s.modCmd u f).bufs = s.bufs := rfl
@[simp] theorem State.modCmd_withdrawnList (s : State) (u : Nat) (f : Cmd → Cmd) : (s.modCmd u f).withdrawnList = s.withdrawnList := rfl
@[simp] theorem State.modCmd_freeStatus (s : State) (u : Nat) (f : Cmd → Cmd) : (s.modCmd u f).freeStatus = s.freeStatus := rfl
@[simp] theorem State.modCmd_heldReads (s : State) (u : Nat) (f : Cmd → Cmd) : (s.modCmd u f).heldReads = s.heldReads := rfl
@[simp] theorem State.modCmd_copies (s : State) (u : Nat) (f : Cmd → Cmd) : (s.modCmd u f).copies = s.copies := rfl
@[simp] theorem State.modCmd_nextCopy (s : State) (u : Nat) (f : Cmd → Cmd) : (s.modCmd u f).nextCopy = s.nextCopy := rfl
@[simp] theorem State.modCmd_mouldUser (s : State) (u : Nat) (f : Cmd → Cmd) : (s.modCmd u f).mouldUser = s.mouldUser := rfl
@[simp] theorem State.modCmd_mouldBufs (s : State) (u : Nat) (f : Cmd → Cmd) : (s.modCmd u f).mouldBufs = s.mouldBufs := rfl
@[simp] theorem State.modCmd_owners (s : State) (u : Nat) (f : Cmd → Cmd) : (s.modCmd u f).owners = s.owners := rfl
@[simp] theorem State.modCmd_checkChans (s : State) (u : Nat) (f : Cmd → Cmd) : (s.modCmd u f).checkChans = s.checkChans := rfl
@[simp] theorem State.modCmd_checkMismatch (s : State) (u : Nat) (f : Cmd → Cmd) : (s.modCmd u f).checkMismatch = s.checkMismatch := rfl
@[simp] theorem State.modCmd_replays (s : State) (u : Nat) (f : Cmd → Cmd) : (s.modCmd u f).replays = s.replays := rfl
@[simp] theorem State.modCmd_subs (s : State) (u : Nat) (f : Cmd → Cmd) : (s.modCmd u f).subs = s.subs := rfl
@[simp] theorem State.modCmd_queries (s : State) (u : Nat) (f : Cmd → Cmd) : (s.modCmd u f).queries = s.queries := rfl
@[simp] theorem State.modCmd_mctpEid (s : State) (u : Nat) (f : Cmd → Cmd) : (s.modCmd u f).mctpEid = s.mctpEid := rfl
@[simp] theorem State.modCmd_heldAap (s : State) (u : Nat) (f : Cmd → Cmd) : (s.modCmd u f).heldAap = s.heldAap := rfl
@[simp] theorem State.modCmd_stateSince (s : State) (u : Nat) (f : Cmd → Cmd) : (s.modCmd u f).stateSince = s.stateSince := rfl
@[simp] theorem State.modCmd_quietSince (s : State) (u : Nat) (f : Cmd → Cmd) : (s.modCmd u f).quietSince = s.quietSince := rfl
@[simp] theorem State.modCmd_feedB (s : State) (u : Nat) (f : Cmd → Cmd) : (s.modCmd u f).feedB = s.feedB := rfl
@[simp] theorem State.modCmd_feedTick (s : State) (u : Nat) (f : Cmd → Cmd) : (s.modCmd u f).feedTick = s.feedTick := rfl
@[simp] theorem State.modCmd_heldPages (s : State) (u : Nat) (f : Cmd → Cmd) : (s.modCmd u f).heldPages = s.heldPages := rfl
@[simp] theorem State.modCmd_doorLatch (s : State) (u : Nat) (f : Cmd → Cmd) : (s.modCmd u f).doorLatch = s.doorLatch := rfl
@[simp] theorem State.modCmd_timers (s : State) (u : Nat) (f : Cmd → Cmd) : (s.modCmd u f).timers = s.timers := rfl
@[simp] theorem State.modCmd_teleBase (s : State) (u : Nat) (f : Cmd → Cmd) : (s.modCmd u f).teleBase = s.teleBase := rfl
@[simp] theorem State.modCmd_saved (s : State) (u : Nat) (f : Cmd → Cmd) : (s.modCmd u f).saved = s.saved := rfl
@[simp] theorem State.modCmd_savedAt (s : State) (u : Nat) (f : Cmd → Cmd) : (s.modCmd u f).savedAt = s.savedAt := rfl
@[simp] theorem State.modCmd_plans (s : State) (u : Nat) (f : Cmd → Cmd) : (s.modCmd u f).plans = s.plans := rfl
@[simp] theorem State.modCmd_layerStates (s : State) (u : Nat) (f : Cmd → Cmd) : (s.modCmd u f).layerStates = s.layerStates := rfl
@[simp] theorem State.modCmd_planLoads (s : State) (u : Nat) (f : Cmd → Cmd) : (s.modCmd u f).planLoads = s.planLoads := rfl
@[simp] theorem State.modCmd_masks (s : State) (u : Nat) (f : Cmd → Cmd) : (s.modCmd u f).masks = s.masks := rfl
@[simp] theorem State.modCmd_disps (s : State) (u : Nat) (f : Cmd → Cmd) : (s.modCmd u f).disps = s.disps := rfl
@[simp] theorem State.modCmd_pourQueue (s : State) (u : Nat) (f : Cmd → Cmd) : (s.modCmd u f).pourQueue = s.pourQueue := rfl
@[simp] theorem State.modCmd_blocks (s : State) (u : Nat) (f : Cmd → Cmd) : (s.modCmd u f).blocks = s.blocks := rfl
@[simp] theorem State.modCmd_sharedPosts (s : State) (u : Nat) (f : Cmd → Cmd) : (s.modCmd u f).sharedPosts = s.sharedPosts := rfl
@[simp] theorem State.modCmd_queueSeq (s : State) (u : Nat) (f : Cmd → Cmd) : (s.modCmd u f).queueSeq = s.queueSeq := rfl
@[simp] theorem State.modCmd_peers (s : State) (u : Nat) (f : Cmd → Cmd) : (s.modCmd u f).peers = s.peers := rfl
@[simp] theorem State.modCmd_atomReqs (s : State) (u : Nat) (f : Cmd → Cmd) : (s.modCmd u f).atomReqs = s.atomReqs := rfl
@[simp] theorem State.modCmd_replyCache (s : State) (u : Nat) (f : Cmd → Cmd) : (s.modCmd u f).replyCache = s.replyCache := rfl
@[simp] theorem State.modCmd_xfers (s : State) (u : Nat) (f : Cmd → Cmd) : (s.modCmd u f).xfers = s.xfers := rfl
@[simp] theorem State.modCmd_versions (s : State) (u : Nat) (f : Cmd → Cmd) : (s.modCmd u f).versions = s.versions := rfl
@[simp] theorem State.modCmd_control (s : State) (u : Nat) (f : Cmd → Cmd) : (s.modCmd u f).control = s.control := rfl
@[simp] theorem State.modCmd_fetchHeld (s : State) (u : Nat) (f : Cmd → Cmd) : (s.modCmd u f).fetchHeld = s.fetchHeld := rfl
@[simp] theorem State.modCmd_ports (s : State) (u : Nat) (f : Cmd → Cmd) : (s.modCmd u f).ports = s.ports := rfl
@[simp] theorem State.modCmd_planBuckets (s : State) (u : Nat) (f : Cmd → Cmd) : (s.modCmd u f).planBuckets = s.planBuckets := rfl
@[simp] theorem State.modCmd_pathBuckets (s : State) (u : Nat) (f : Cmd → Cmd) : (s.modCmd u f).pathBuckets = s.pathBuckets := rfl
@[simp] theorem State.modCmd_firstUp (s : State) (u : Nat) (f : Cmd → Cmd) : (s.modCmd u f).firstUp = s.firstUp := rfl
@[simp] theorem State.modCmd_quiet (s : State) (u : Nat) (f : Cmd → Cmd) : (s.modCmd u f).quiet = s.quiet := rfl
@[simp] theorem State.modCmd_probesSent (s : State) (u : Nat) (f : Cmd → Cmd) : (s.modCmd u f).probesSent = s.probesSent := rfl
@[simp] theorem State.modCmd_surveyTick (s : State) (u : Nat) (f : Cmd → Cmd) : (s.modCmd u f).surveyTick = s.surveyTick := rfl
@[simp] theorem State.modCmd_flasks (s : State) (u : Nat) (f : Cmd → Cmd) : (s.modCmd u f).flasks = s.flasks := rfl
@[simp] theorem State.modCmd_heldFrames (s : State) (u : Nat) (f : Cmd → Cmd) : (s.modCmd u f).heldFrames = s.heldFrames := rfl
@[simp] theorem State.modCmd_pourUses (s : State) (u : Nat) (f : Cmd → Cmd) : (s.modCmd u f).pourUses = s.pourUses := rfl
@[simp] theorem State.modCmd_groupQueues (s : State) (u : Nat) (f : Cmd → Cmd) : (s.modCmd u f).groupQueues = s.groupQueues := rfl
@[simp] theorem State.modCmd_useNumbers (s : State) (u : Nat) (f : Cmd → Cmd) : (s.modCmd u f).useNumbers = s.useNumbers := rfl
@[simp] theorem State.modCmd_groups (s : State) (u : Nat) (f : Cmd → Cmd) : (s.modCmd u f).groups = s.groups := rfl
@[simp] theorem State.modCmd_balances (s : State) (u : Nat) (f : Cmd → Cmd) : (s.modCmd u f).balances = s.balances := rfl
@[simp] theorem State.modCmd_boundaries (s : State) (u : Nat) (f : Cmd → Cmd) : (s.modCmd u f).boundaries = s.boundaries := rfl
@[simp] theorem State.modCmd_pending (s : State) (u : Nat) (f : Cmd → Cmd) : (s.modCmd u f).pending = s.pending := rfl

/-! ## modCtx -/

@[simp] theorem State.modCtx_variant (s : State) (x : Nat) (f : Ctx → Ctx) : (s.modCtx x f).variant = s.variant := rfl
@[simp] theorem State.modCtx_chipId (s : State) (x : Nat) (f : Ctx → Ctx) : (s.modCtx x f).chipId = s.chipId := rfl
@[simp] theorem State.modCtx_mctpPen (s : State) (x : Nat) (f : Ctx → Ctx) : (s.modCtx x f).mctpPen = s.mctpPen := rfl
@[simp] theorem State.modCtx_pageBase (s : State) (x : Nat) (f : Ctx → Ctx) : (s.modCtx x f).pageBase = s.pageBase := rfl
@[simp] theorem State.modCtx_mainReq (s : State) (x : Nat) (f : Ctx → Ctx) : (s.modCtx x f).mainReq = s.mainReq := rfl
@[simp] theorem State.modCtx_mainGood (s : State) (x : Nat) (f : Ctx → Ctx) : (s.modCtx x f).mainGood = s.mainGood := rfl
@[simp] theorem State.modCtx_coldReleased (s : State) (x : Nat) (f : Ctx → Ctx) : (s.modCtx x f).coldReleased = s.coldReleased := rfl
@[simp] theorem State.modCtx_bootTick (s : State) (x : Nat) (f : Ctx → Ctx) : (s.modCtx x f).bootTick = s.bootTick := rfl
@[simp] theorem State.modCtx_clockMhz (s : State) (x : Nat) (f : Ctx → Ctx) : (s.modCtx x f).clockMhz = s.clockMhz := rfl
@[simp] theorem State.modCtx_krdInt (s : State) (x : Nat) (f : Ctx → Ctx) : (s.modCtx x f).krdInt = s.krdInt := rfl
@[simp] theorem State.modCtx_tick (s : State) (x : Nat) (f : Ctx → Ctx) : (s.modCtx x f).tick = s.tick := rfl
@[simp] theorem State.modCtx_objs (s : State) (x : Nat) (f : Ctx → Ctx) : (s.modCtx x f).objs = s.objs := rfl
@[simp] theorem State.modCtx_free (s : State) (x : Nat) (f : Ctx → Ctx) : (s.modCtx x f).free = s.free := rfl
@[simp] theorem State.modCtx_mem (s : State) (x : Nat) (f : Ctx → Ctx) : (s.modCtx x f).mem = s.mem := rfl
@[simp] theorem State.modCtx_memStatus (s : State) (x : Nat) (f : Ctx → Ctx) : (s.modCtx x f).memStatus = s.memStatus := rfl
@[simp] theorem State.modCtx_out (s : State) (x : Nat) (f : Ctx → Ctx) : (s.modCtx x f).out = s.out := rfl
@[simp] theorem State.modCtx_gate (s : State) (x : Nat) (f : Ctx → Ctx) : (s.modCtx x f).gate = s.gate := rfl
@[simp] theorem State.modCtx_landing (s : State) (x : Nat) (f : Ctx → Ctx) : (s.modCtx x f).landing = s.landing := rfl
@[simp] theorem State.modCtx_planCache (s : State) (x : Nat) (f : Ctx → Ctx) : (s.modCtx x f).planCache = s.planCache := rfl
@[simp] theorem State.modCtx_scratch (s : State) (x : Nat) (f : Ctx → Ctx) : (s.modCtx x f).scratch = s.scratch := rfl
@[simp] theorem State.modCtx_checks (s : State) (x : Nat) (f : Ctx → Ctx) : (s.modCtx x f).checks = s.checks := rfl
@[simp] theorem State.modCtx_units (s : State) (x : Nat) (f : Ctx → Ctx) : (s.modCtx x f).units = s.units := rfl
@[simp] theorem State.modCtx_promo (s : State) (x : Nat) (f : Ctx → Ctx) : (s.modCtx x f).promo = s.promo := rfl
@[simp] theorem State.modCtx_summary (s : State) (x : Nat) (f : Ctx → Ctx) : (s.modCtx x f).summary = s.summary := rfl
@[simp] theorem State.modCtx_inject (s : State) (x : Nat) (f : Ctx → Ctx) : (s.modCtx x f).inject = s.inject := rfl
@[simp] theorem State.modCtx_stopDeadline (s : State) (x : Nat) (f : Ctx → Ctx) : (s.modCtx x f).stopDeadline = s.stopDeadline := rfl
@[simp] theorem State.modCtx_rings (s : State) (x : Nat) (f : Ctx → Ctx) : (s.modCtx x f).rings = s.rings := rfl
@[simp] theorem State.modCtx_cmds (s : State) (x : Nat) (f : Ctx → Ctx) : (s.modCtx x f).cmds = s.cmds := rfl
@[simp] theorem State.modCtx_nextUid (s : State) (x : Nat) (f : Ctx → Ctx) : (s.modCtx x f).nextUid = s.nextUid := rfl
@[simp] theorem State.modCtx_ctxs (s : State) (x : Nat) (f : Ctx → Ctx) : (s.modCtx x f).ctxs = Tab.modify s.ctxs x f := rfl
@[simp] theorem State.modCtx_excs (s : State) (x : Nat) (f : Ctx → Ctx) : (s.modCtx x f).excs = s.excs := rfl
@[simp] theorem State.modCtx_patterns (s : State) (x : Nat) (f : Ctx → Ctx) : (s.modCtx x f).patterns = s.patterns := rfl
@[simp] theorem State.modCtx_patLoads (s : State) (x : Nat) (f : Ctx → Ctx) : (s.modCtx x f).patLoads = s.patLoads := rfl
@[simp] theorem State.modCtx_tallies (s : State) (x : Nat) (f : Ctx → Ctx) : (s.modCtx x f).tallies = s.tallies := rfl
@[simp] theorem State.modCtx_tallyBad (s : State) (x : Nat) (f : Ctx → Ctx) : (s.modCtx x f).tallyBad = s.tallyBad := rfl
@[simp] theorem State.modCtx_tallyFlip (s : State) (x : Nat) (f : Ctx → Ctx) : (s.modCtx x f).tallyFlip = s.tallyFlip := rfl
@[simp] theorem State.modCtx_watchTable (s : State) (x : Nat) (f : Ctx → Ctx) : (s.modCtx x f).watchTable = s.watchTable := rfl
@[simp] theorem State.modCtx_pollList (s : State) (x : Nat) (f : Ctx → Ctx) : (s.modCtx x f).pollList = s.pollList := rfl
@[simp] theorem State.modCtx_pageWatch (s : State) (x : Nat) (f : Ctx → Ctx) : (s.modCtx x f).pageWatch = s.pageWatch := rfl
@[simp] theorem State.modCtx_pools (s : State) (x : Nat) (f : Ctx → Ctx) : (s.modCtx x f).pools = s.pools := rfl
@[simp] theorem State.modCtx_bufs (s : State) (x : Nat) (f : Ctx → Ctx) : (s.modCtx x f).bufs = s.bufs := rfl
@[simp] theorem State.modCtx_withdrawnList (s : State) (x : Nat) (f : Ctx → Ctx) : (s.modCtx x f).withdrawnList = s.withdrawnList := rfl
@[simp] theorem State.modCtx_freeStatus (s : State) (x : Nat) (f : Ctx → Ctx) : (s.modCtx x f).freeStatus = s.freeStatus := rfl
@[simp] theorem State.modCtx_heldReads (s : State) (x : Nat) (f : Ctx → Ctx) : (s.modCtx x f).heldReads = s.heldReads := rfl
@[simp] theorem State.modCtx_copies (s : State) (x : Nat) (f : Ctx → Ctx) : (s.modCtx x f).copies = s.copies := rfl
@[simp] theorem State.modCtx_nextCopy (s : State) (x : Nat) (f : Ctx → Ctx) : (s.modCtx x f).nextCopy = s.nextCopy := rfl
@[simp] theorem State.modCtx_mouldUser (s : State) (x : Nat) (f : Ctx → Ctx) : (s.modCtx x f).mouldUser = s.mouldUser := rfl
@[simp] theorem State.modCtx_mouldBufs (s : State) (x : Nat) (f : Ctx → Ctx) : (s.modCtx x f).mouldBufs = s.mouldBufs := rfl
@[simp] theorem State.modCtx_owners (s : State) (x : Nat) (f : Ctx → Ctx) : (s.modCtx x f).owners = s.owners := rfl
@[simp] theorem State.modCtx_checkChans (s : State) (x : Nat) (f : Ctx → Ctx) : (s.modCtx x f).checkChans = s.checkChans := rfl
@[simp] theorem State.modCtx_checkMismatch (s : State) (x : Nat) (f : Ctx → Ctx) : (s.modCtx x f).checkMismatch = s.checkMismatch := rfl
@[simp] theorem State.modCtx_replays (s : State) (x : Nat) (f : Ctx → Ctx) : (s.modCtx x f).replays = s.replays := rfl
@[simp] theorem State.modCtx_subs (s : State) (x : Nat) (f : Ctx → Ctx) : (s.modCtx x f).subs = s.subs := rfl
@[simp] theorem State.modCtx_queries (s : State) (x : Nat) (f : Ctx → Ctx) : (s.modCtx x f).queries = s.queries := rfl
@[simp] theorem State.modCtx_mctpEid (s : State) (x : Nat) (f : Ctx → Ctx) : (s.modCtx x f).mctpEid = s.mctpEid := rfl
@[simp] theorem State.modCtx_heldAap (s : State) (x : Nat) (f : Ctx → Ctx) : (s.modCtx x f).heldAap = s.heldAap := rfl
@[simp] theorem State.modCtx_stateSince (s : State) (x : Nat) (f : Ctx → Ctx) : (s.modCtx x f).stateSince = s.stateSince := rfl
@[simp] theorem State.modCtx_quietSince (s : State) (x : Nat) (f : Ctx → Ctx) : (s.modCtx x f).quietSince = s.quietSince := rfl
@[simp] theorem State.modCtx_feedB (s : State) (x : Nat) (f : Ctx → Ctx) : (s.modCtx x f).feedB = s.feedB := rfl
@[simp] theorem State.modCtx_feedTick (s : State) (x : Nat) (f : Ctx → Ctx) : (s.modCtx x f).feedTick = s.feedTick := rfl
@[simp] theorem State.modCtx_heldPages (s : State) (x : Nat) (f : Ctx → Ctx) : (s.modCtx x f).heldPages = s.heldPages := rfl
@[simp] theorem State.modCtx_doorLatch (s : State) (x : Nat) (f : Ctx → Ctx) : (s.modCtx x f).doorLatch = s.doorLatch := rfl
@[simp] theorem State.modCtx_timers (s : State) (x : Nat) (f : Ctx → Ctx) : (s.modCtx x f).timers = s.timers := rfl
@[simp] theorem State.modCtx_teleBase (s : State) (x : Nat) (f : Ctx → Ctx) : (s.modCtx x f).teleBase = s.teleBase := rfl
@[simp] theorem State.modCtx_saved (s : State) (x : Nat) (f : Ctx → Ctx) : (s.modCtx x f).saved = s.saved := rfl
@[simp] theorem State.modCtx_savedAt (s : State) (x : Nat) (f : Ctx → Ctx) : (s.modCtx x f).savedAt = s.savedAt := rfl
@[simp] theorem State.modCtx_plans (s : State) (x : Nat) (f : Ctx → Ctx) : (s.modCtx x f).plans = s.plans := rfl
@[simp] theorem State.modCtx_layerStates (s : State) (x : Nat) (f : Ctx → Ctx) : (s.modCtx x f).layerStates = s.layerStates := rfl
@[simp] theorem State.modCtx_planLoads (s : State) (x : Nat) (f : Ctx → Ctx) : (s.modCtx x f).planLoads = s.planLoads := rfl
@[simp] theorem State.modCtx_masks (s : State) (x : Nat) (f : Ctx → Ctx) : (s.modCtx x f).masks = s.masks := rfl
@[simp] theorem State.modCtx_disps (s : State) (x : Nat) (f : Ctx → Ctx) : (s.modCtx x f).disps = s.disps := rfl
@[simp] theorem State.modCtx_pourQueue (s : State) (x : Nat) (f : Ctx → Ctx) : (s.modCtx x f).pourQueue = s.pourQueue := rfl
@[simp] theorem State.modCtx_blocks (s : State) (x : Nat) (f : Ctx → Ctx) : (s.modCtx x f).blocks = s.blocks := rfl
@[simp] theorem State.modCtx_sharedPosts (s : State) (x : Nat) (f : Ctx → Ctx) : (s.modCtx x f).sharedPosts = s.sharedPosts := rfl
@[simp] theorem State.modCtx_queueSeq (s : State) (x : Nat) (f : Ctx → Ctx) : (s.modCtx x f).queueSeq = s.queueSeq := rfl
@[simp] theorem State.modCtx_peers (s : State) (x : Nat) (f : Ctx → Ctx) : (s.modCtx x f).peers = s.peers := rfl
@[simp] theorem State.modCtx_atomReqs (s : State) (x : Nat) (f : Ctx → Ctx) : (s.modCtx x f).atomReqs = s.atomReqs := rfl
@[simp] theorem State.modCtx_replyCache (s : State) (x : Nat) (f : Ctx → Ctx) : (s.modCtx x f).replyCache = s.replyCache := rfl
@[simp] theorem State.modCtx_xfers (s : State) (x : Nat) (f : Ctx → Ctx) : (s.modCtx x f).xfers = s.xfers := rfl
@[simp] theorem State.modCtx_versions (s : State) (x : Nat) (f : Ctx → Ctx) : (s.modCtx x f).versions = s.versions := rfl
@[simp] theorem State.modCtx_control (s : State) (x : Nat) (f : Ctx → Ctx) : (s.modCtx x f).control = s.control := rfl
@[simp] theorem State.modCtx_fetchHeld (s : State) (x : Nat) (f : Ctx → Ctx) : (s.modCtx x f).fetchHeld = s.fetchHeld := rfl
@[simp] theorem State.modCtx_ports (s : State) (x : Nat) (f : Ctx → Ctx) : (s.modCtx x f).ports = s.ports := rfl
@[simp] theorem State.modCtx_planBuckets (s : State) (x : Nat) (f : Ctx → Ctx) : (s.modCtx x f).planBuckets = s.planBuckets := rfl
@[simp] theorem State.modCtx_pathBuckets (s : State) (x : Nat) (f : Ctx → Ctx) : (s.modCtx x f).pathBuckets = s.pathBuckets := rfl
@[simp] theorem State.modCtx_firstUp (s : State) (x : Nat) (f : Ctx → Ctx) : (s.modCtx x f).firstUp = s.firstUp := rfl
@[simp] theorem State.modCtx_quiet (s : State) (x : Nat) (f : Ctx → Ctx) : (s.modCtx x f).quiet = s.quiet := rfl
@[simp] theorem State.modCtx_probesSent (s : State) (x : Nat) (f : Ctx → Ctx) : (s.modCtx x f).probesSent = s.probesSent := rfl
@[simp] theorem State.modCtx_surveyTick (s : State) (x : Nat) (f : Ctx → Ctx) : (s.modCtx x f).surveyTick = s.surveyTick := rfl
@[simp] theorem State.modCtx_flasks (s : State) (x : Nat) (f : Ctx → Ctx) : (s.modCtx x f).flasks = s.flasks := rfl
@[simp] theorem State.modCtx_heldFrames (s : State) (x : Nat) (f : Ctx → Ctx) : (s.modCtx x f).heldFrames = s.heldFrames := rfl
@[simp] theorem State.modCtx_pourUses (s : State) (x : Nat) (f : Ctx → Ctx) : (s.modCtx x f).pourUses = s.pourUses := rfl
@[simp] theorem State.modCtx_groupQueues (s : State) (x : Nat) (f : Ctx → Ctx) : (s.modCtx x f).groupQueues = s.groupQueues := rfl
@[simp] theorem State.modCtx_useNumbers (s : State) (x : Nat) (f : Ctx → Ctx) : (s.modCtx x f).useNumbers = s.useNumbers := rfl
@[simp] theorem State.modCtx_groups (s : State) (x : Nat) (f : Ctx → Ctx) : (s.modCtx x f).groups = s.groups := rfl
@[simp] theorem State.modCtx_balances (s : State) (x : Nat) (f : Ctx → Ctx) : (s.modCtx x f).balances = s.balances := rfl
@[simp] theorem State.modCtx_boundaries (s : State) (x : Nat) (f : Ctx → Ctx) : (s.modCtx x f).boundaries = s.boundaries := rfl
@[simp] theorem State.modCtx_pending (s : State) (x : Nat) (f : Ctx → Ctx) : (s.modCtx x f).pending = s.pending := rfl

/-! ## modDisp -/

@[simp] theorem State.modDisp_variant (s : State) (u : Nat) (f : Disp → Disp) : (s.modDisp u f).variant = s.variant := rfl
@[simp] theorem State.modDisp_chipId (s : State) (u : Nat) (f : Disp → Disp) : (s.modDisp u f).chipId = s.chipId := rfl
@[simp] theorem State.modDisp_mctpPen (s : State) (u : Nat) (f : Disp → Disp) : (s.modDisp u f).mctpPen = s.mctpPen := rfl
@[simp] theorem State.modDisp_pageBase (s : State) (u : Nat) (f : Disp → Disp) : (s.modDisp u f).pageBase = s.pageBase := rfl
@[simp] theorem State.modDisp_mainReq (s : State) (u : Nat) (f : Disp → Disp) : (s.modDisp u f).mainReq = s.mainReq := rfl
@[simp] theorem State.modDisp_mainGood (s : State) (u : Nat) (f : Disp → Disp) : (s.modDisp u f).mainGood = s.mainGood := rfl
@[simp] theorem State.modDisp_coldReleased (s : State) (u : Nat) (f : Disp → Disp) : (s.modDisp u f).coldReleased = s.coldReleased := rfl
@[simp] theorem State.modDisp_bootTick (s : State) (u : Nat) (f : Disp → Disp) : (s.modDisp u f).bootTick = s.bootTick := rfl
@[simp] theorem State.modDisp_clockMhz (s : State) (u : Nat) (f : Disp → Disp) : (s.modDisp u f).clockMhz = s.clockMhz := rfl
@[simp] theorem State.modDisp_krdInt (s : State) (u : Nat) (f : Disp → Disp) : (s.modDisp u f).krdInt = s.krdInt := rfl
@[simp] theorem State.modDisp_tick (s : State) (u : Nat) (f : Disp → Disp) : (s.modDisp u f).tick = s.tick := rfl
@[simp] theorem State.modDisp_objs (s : State) (u : Nat) (f : Disp → Disp) : (s.modDisp u f).objs = s.objs := rfl
@[simp] theorem State.modDisp_free (s : State) (u : Nat) (f : Disp → Disp) : (s.modDisp u f).free = s.free := rfl
@[simp] theorem State.modDisp_mem (s : State) (u : Nat) (f : Disp → Disp) : (s.modDisp u f).mem = s.mem := rfl
@[simp] theorem State.modDisp_memStatus (s : State) (u : Nat) (f : Disp → Disp) : (s.modDisp u f).memStatus = s.memStatus := rfl
@[simp] theorem State.modDisp_out (s : State) (u : Nat) (f : Disp → Disp) : (s.modDisp u f).out = s.out := rfl
@[simp] theorem State.modDisp_gate (s : State) (u : Nat) (f : Disp → Disp) : (s.modDisp u f).gate = s.gate := rfl
@[simp] theorem State.modDisp_landing (s : State) (u : Nat) (f : Disp → Disp) : (s.modDisp u f).landing = s.landing := rfl
@[simp] theorem State.modDisp_planCache (s : State) (u : Nat) (f : Disp → Disp) : (s.modDisp u f).planCache = s.planCache := rfl
@[simp] theorem State.modDisp_scratch (s : State) (u : Nat) (f : Disp → Disp) : (s.modDisp u f).scratch = s.scratch := rfl
@[simp] theorem State.modDisp_checks (s : State) (u : Nat) (f : Disp → Disp) : (s.modDisp u f).checks = s.checks := rfl
@[simp] theorem State.modDisp_units (s : State) (u : Nat) (f : Disp → Disp) : (s.modDisp u f).units = s.units := rfl
@[simp] theorem State.modDisp_promo (s : State) (u : Nat) (f : Disp → Disp) : (s.modDisp u f).promo = s.promo := rfl
@[simp] theorem State.modDisp_summary (s : State) (u : Nat) (f : Disp → Disp) : (s.modDisp u f).summary = s.summary := rfl
@[simp] theorem State.modDisp_inject (s : State) (u : Nat) (f : Disp → Disp) : (s.modDisp u f).inject = s.inject := rfl
@[simp] theorem State.modDisp_stopDeadline (s : State) (u : Nat) (f : Disp → Disp) : (s.modDisp u f).stopDeadline = s.stopDeadline := rfl
@[simp] theorem State.modDisp_rings (s : State) (u : Nat) (f : Disp → Disp) : (s.modDisp u f).rings = s.rings := rfl
@[simp] theorem State.modDisp_cmds (s : State) (u : Nat) (f : Disp → Disp) : (s.modDisp u f).cmds = s.cmds := rfl
@[simp] theorem State.modDisp_nextUid (s : State) (u : Nat) (f : Disp → Disp) : (s.modDisp u f).nextUid = s.nextUid := rfl
@[simp] theorem State.modDisp_ctxs (s : State) (u : Nat) (f : Disp → Disp) : (s.modDisp u f).ctxs = s.ctxs := rfl
@[simp] theorem State.modDisp_excs (s : State) (u : Nat) (f : Disp → Disp) : (s.modDisp u f).excs = s.excs := rfl
@[simp] theorem State.modDisp_patterns (s : State) (u : Nat) (f : Disp → Disp) : (s.modDisp u f).patterns = s.patterns := rfl
@[simp] theorem State.modDisp_patLoads (s : State) (u : Nat) (f : Disp → Disp) : (s.modDisp u f).patLoads = s.patLoads := rfl
@[simp] theorem State.modDisp_tallies (s : State) (u : Nat) (f : Disp → Disp) : (s.modDisp u f).tallies = s.tallies := rfl
@[simp] theorem State.modDisp_tallyBad (s : State) (u : Nat) (f : Disp → Disp) : (s.modDisp u f).tallyBad = s.tallyBad := rfl
@[simp] theorem State.modDisp_tallyFlip (s : State) (u : Nat) (f : Disp → Disp) : (s.modDisp u f).tallyFlip = s.tallyFlip := rfl
@[simp] theorem State.modDisp_watchTable (s : State) (u : Nat) (f : Disp → Disp) : (s.modDisp u f).watchTable = s.watchTable := rfl
@[simp] theorem State.modDisp_pollList (s : State) (u : Nat) (f : Disp → Disp) : (s.modDisp u f).pollList = s.pollList := rfl
@[simp] theorem State.modDisp_pageWatch (s : State) (u : Nat) (f : Disp → Disp) : (s.modDisp u f).pageWatch = s.pageWatch := rfl
@[simp] theorem State.modDisp_pools (s : State) (u : Nat) (f : Disp → Disp) : (s.modDisp u f).pools = s.pools := rfl
@[simp] theorem State.modDisp_bufs (s : State) (u : Nat) (f : Disp → Disp) : (s.modDisp u f).bufs = s.bufs := rfl
@[simp] theorem State.modDisp_withdrawnList (s : State) (u : Nat) (f : Disp → Disp) : (s.modDisp u f).withdrawnList = s.withdrawnList := rfl
@[simp] theorem State.modDisp_freeStatus (s : State) (u : Nat) (f : Disp → Disp) : (s.modDisp u f).freeStatus = s.freeStatus := rfl
@[simp] theorem State.modDisp_heldReads (s : State) (u : Nat) (f : Disp → Disp) : (s.modDisp u f).heldReads = s.heldReads := rfl
@[simp] theorem State.modDisp_copies (s : State) (u : Nat) (f : Disp → Disp) : (s.modDisp u f).copies = s.copies := rfl
@[simp] theorem State.modDisp_nextCopy (s : State) (u : Nat) (f : Disp → Disp) : (s.modDisp u f).nextCopy = s.nextCopy := rfl
@[simp] theorem State.modDisp_mouldUser (s : State) (u : Nat) (f : Disp → Disp) : (s.modDisp u f).mouldUser = s.mouldUser := rfl
@[simp] theorem State.modDisp_mouldBufs (s : State) (u : Nat) (f : Disp → Disp) : (s.modDisp u f).mouldBufs = s.mouldBufs := rfl
@[simp] theorem State.modDisp_owners (s : State) (u : Nat) (f : Disp → Disp) : (s.modDisp u f).owners = s.owners := rfl
@[simp] theorem State.modDisp_checkChans (s : State) (u : Nat) (f : Disp → Disp) : (s.modDisp u f).checkChans = s.checkChans := rfl
@[simp] theorem State.modDisp_checkMismatch (s : State) (u : Nat) (f : Disp → Disp) : (s.modDisp u f).checkMismatch = s.checkMismatch := rfl
@[simp] theorem State.modDisp_replays (s : State) (u : Nat) (f : Disp → Disp) : (s.modDisp u f).replays = s.replays := rfl
@[simp] theorem State.modDisp_subs (s : State) (u : Nat) (f : Disp → Disp) : (s.modDisp u f).subs = s.subs := rfl
@[simp] theorem State.modDisp_queries (s : State) (u : Nat) (f : Disp → Disp) : (s.modDisp u f).queries = s.queries := rfl
@[simp] theorem State.modDisp_mctpEid (s : State) (u : Nat) (f : Disp → Disp) : (s.modDisp u f).mctpEid = s.mctpEid := rfl
@[simp] theorem State.modDisp_heldAap (s : State) (u : Nat) (f : Disp → Disp) : (s.modDisp u f).heldAap = s.heldAap := rfl
@[simp] theorem State.modDisp_stateSince (s : State) (u : Nat) (f : Disp → Disp) : (s.modDisp u f).stateSince = s.stateSince := rfl
@[simp] theorem State.modDisp_quietSince (s : State) (u : Nat) (f : Disp → Disp) : (s.modDisp u f).quietSince = s.quietSince := rfl
@[simp] theorem State.modDisp_feedB (s : State) (u : Nat) (f : Disp → Disp) : (s.modDisp u f).feedB = s.feedB := rfl
@[simp] theorem State.modDisp_feedTick (s : State) (u : Nat) (f : Disp → Disp) : (s.modDisp u f).feedTick = s.feedTick := rfl
@[simp] theorem State.modDisp_heldPages (s : State) (u : Nat) (f : Disp → Disp) : (s.modDisp u f).heldPages = s.heldPages := rfl
@[simp] theorem State.modDisp_doorLatch (s : State) (u : Nat) (f : Disp → Disp) : (s.modDisp u f).doorLatch = s.doorLatch := rfl
@[simp] theorem State.modDisp_timers (s : State) (u : Nat) (f : Disp → Disp) : (s.modDisp u f).timers = s.timers := rfl
@[simp] theorem State.modDisp_teleBase (s : State) (u : Nat) (f : Disp → Disp) : (s.modDisp u f).teleBase = s.teleBase := rfl
@[simp] theorem State.modDisp_saved (s : State) (u : Nat) (f : Disp → Disp) : (s.modDisp u f).saved = s.saved := rfl
@[simp] theorem State.modDisp_savedAt (s : State) (u : Nat) (f : Disp → Disp) : (s.modDisp u f).savedAt = s.savedAt := rfl
@[simp] theorem State.modDisp_plans (s : State) (u : Nat) (f : Disp → Disp) : (s.modDisp u f).plans = s.plans := rfl
@[simp] theorem State.modDisp_layerStates (s : State) (u : Nat) (f : Disp → Disp) : (s.modDisp u f).layerStates = s.layerStates := rfl
@[simp] theorem State.modDisp_planLoads (s : State) (u : Nat) (f : Disp → Disp) : (s.modDisp u f).planLoads = s.planLoads := rfl
@[simp] theorem State.modDisp_masks (s : State) (u : Nat) (f : Disp → Disp) : (s.modDisp u f).masks = s.masks := rfl
@[simp] theorem State.modDisp_disps (s : State) (u : Nat) (f : Disp → Disp) : (s.modDisp u f).disps = Tab.modify s.disps u f := rfl
@[simp] theorem State.modDisp_pourQueue (s : State) (u : Nat) (f : Disp → Disp) : (s.modDisp u f).pourQueue = s.pourQueue := rfl
@[simp] theorem State.modDisp_blocks (s : State) (u : Nat) (f : Disp → Disp) : (s.modDisp u f).blocks = s.blocks := rfl
@[simp] theorem State.modDisp_sharedPosts (s : State) (u : Nat) (f : Disp → Disp) : (s.modDisp u f).sharedPosts = s.sharedPosts := rfl
@[simp] theorem State.modDisp_queueSeq (s : State) (u : Nat) (f : Disp → Disp) : (s.modDisp u f).queueSeq = s.queueSeq := rfl
@[simp] theorem State.modDisp_peers (s : State) (u : Nat) (f : Disp → Disp) : (s.modDisp u f).peers = s.peers := rfl
@[simp] theorem State.modDisp_atomReqs (s : State) (u : Nat) (f : Disp → Disp) : (s.modDisp u f).atomReqs = s.atomReqs := rfl
@[simp] theorem State.modDisp_replyCache (s : State) (u : Nat) (f : Disp → Disp) : (s.modDisp u f).replyCache = s.replyCache := rfl
@[simp] theorem State.modDisp_xfers (s : State) (u : Nat) (f : Disp → Disp) : (s.modDisp u f).xfers = s.xfers := rfl
@[simp] theorem State.modDisp_versions (s : State) (u : Nat) (f : Disp → Disp) : (s.modDisp u f).versions = s.versions := rfl
@[simp] theorem State.modDisp_control (s : State) (u : Nat) (f : Disp → Disp) : (s.modDisp u f).control = s.control := rfl
@[simp] theorem State.modDisp_fetchHeld (s : State) (u : Nat) (f : Disp → Disp) : (s.modDisp u f).fetchHeld = s.fetchHeld := rfl
@[simp] theorem State.modDisp_ports (s : State) (u : Nat) (f : Disp → Disp) : (s.modDisp u f).ports = s.ports := rfl
@[simp] theorem State.modDisp_planBuckets (s : State) (u : Nat) (f : Disp → Disp) : (s.modDisp u f).planBuckets = s.planBuckets := rfl
@[simp] theorem State.modDisp_pathBuckets (s : State) (u : Nat) (f : Disp → Disp) : (s.modDisp u f).pathBuckets = s.pathBuckets := rfl
@[simp] theorem State.modDisp_firstUp (s : State) (u : Nat) (f : Disp → Disp) : (s.modDisp u f).firstUp = s.firstUp := rfl
@[simp] theorem State.modDisp_quiet (s : State) (u : Nat) (f : Disp → Disp) : (s.modDisp u f).quiet = s.quiet := rfl
@[simp] theorem State.modDisp_probesSent (s : State) (u : Nat) (f : Disp → Disp) : (s.modDisp u f).probesSent = s.probesSent := rfl
@[simp] theorem State.modDisp_surveyTick (s : State) (u : Nat) (f : Disp → Disp) : (s.modDisp u f).surveyTick = s.surveyTick := rfl
@[simp] theorem State.modDisp_flasks (s : State) (u : Nat) (f : Disp → Disp) : (s.modDisp u f).flasks = s.flasks := rfl
@[simp] theorem State.modDisp_heldFrames (s : State) (u : Nat) (f : Disp → Disp) : (s.modDisp u f).heldFrames = s.heldFrames := rfl
@[simp] theorem State.modDisp_pourUses (s : State) (u : Nat) (f : Disp → Disp) : (s.modDisp u f).pourUses = s.pourUses := rfl
@[simp] theorem State.modDisp_groupQueues (s : State) (u : Nat) (f : Disp → Disp) : (s.modDisp u f).groupQueues = s.groupQueues := rfl
@[simp] theorem State.modDisp_useNumbers (s : State) (u : Nat) (f : Disp → Disp) : (s.modDisp u f).useNumbers = s.useNumbers := rfl
@[simp] theorem State.modDisp_groups (s : State) (u : Nat) (f : Disp → Disp) : (s.modDisp u f).groups = s.groups := rfl
@[simp] theorem State.modDisp_balances (s : State) (u : Nat) (f : Disp → Disp) : (s.modDisp u f).balances = s.balances := rfl
@[simp] theorem State.modDisp_boundaries (s : State) (u : Nat) (f : Disp → Disp) : (s.modDisp u f).boundaries = s.boundaries := rfl
@[simp] theorem State.modDisp_pending (s : State) (u : Nat) (f : Disp → Disp) : (s.modDisp u f).pending = s.pending := rfl

/-! ## modBlock -/

@[simp] theorem State.modBlock_variant (s : State) (x : Nat) (f : Block → Block) : (s.modBlock x f).variant = s.variant := rfl
@[simp] theorem State.modBlock_chipId (s : State) (x : Nat) (f : Block → Block) : (s.modBlock x f).chipId = s.chipId := rfl
@[simp] theorem State.modBlock_mctpPen (s : State) (x : Nat) (f : Block → Block) : (s.modBlock x f).mctpPen = s.mctpPen := rfl
@[simp] theorem State.modBlock_pageBase (s : State) (x : Nat) (f : Block → Block) : (s.modBlock x f).pageBase = s.pageBase := rfl
@[simp] theorem State.modBlock_mainReq (s : State) (x : Nat) (f : Block → Block) : (s.modBlock x f).mainReq = s.mainReq := rfl
@[simp] theorem State.modBlock_mainGood (s : State) (x : Nat) (f : Block → Block) : (s.modBlock x f).mainGood = s.mainGood := rfl
@[simp] theorem State.modBlock_coldReleased (s : State) (x : Nat) (f : Block → Block) : (s.modBlock x f).coldReleased = s.coldReleased := rfl
@[simp] theorem State.modBlock_bootTick (s : State) (x : Nat) (f : Block → Block) : (s.modBlock x f).bootTick = s.bootTick := rfl
@[simp] theorem State.modBlock_clockMhz (s : State) (x : Nat) (f : Block → Block) : (s.modBlock x f).clockMhz = s.clockMhz := rfl
@[simp] theorem State.modBlock_krdInt (s : State) (x : Nat) (f : Block → Block) : (s.modBlock x f).krdInt = s.krdInt := rfl
@[simp] theorem State.modBlock_tick (s : State) (x : Nat) (f : Block → Block) : (s.modBlock x f).tick = s.tick := rfl
@[simp] theorem State.modBlock_objs (s : State) (x : Nat) (f : Block → Block) : (s.modBlock x f).objs = s.objs := rfl
@[simp] theorem State.modBlock_free (s : State) (x : Nat) (f : Block → Block) : (s.modBlock x f).free = s.free := rfl
@[simp] theorem State.modBlock_mem (s : State) (x : Nat) (f : Block → Block) : (s.modBlock x f).mem = s.mem := rfl
@[simp] theorem State.modBlock_memStatus (s : State) (x : Nat) (f : Block → Block) : (s.modBlock x f).memStatus = s.memStatus := rfl
@[simp] theorem State.modBlock_out (s : State) (x : Nat) (f : Block → Block) : (s.modBlock x f).out = s.out := rfl
@[simp] theorem State.modBlock_gate (s : State) (x : Nat) (f : Block → Block) : (s.modBlock x f).gate = s.gate := rfl
@[simp] theorem State.modBlock_landing (s : State) (x : Nat) (f : Block → Block) : (s.modBlock x f).landing = s.landing := rfl
@[simp] theorem State.modBlock_planCache (s : State) (x : Nat) (f : Block → Block) : (s.modBlock x f).planCache = s.planCache := rfl
@[simp] theorem State.modBlock_scratch (s : State) (x : Nat) (f : Block → Block) : (s.modBlock x f).scratch = s.scratch := rfl
@[simp] theorem State.modBlock_checks (s : State) (x : Nat) (f : Block → Block) : (s.modBlock x f).checks = s.checks := rfl
@[simp] theorem State.modBlock_units (s : State) (x : Nat) (f : Block → Block) : (s.modBlock x f).units = s.units := rfl
@[simp] theorem State.modBlock_promo (s : State) (x : Nat) (f : Block → Block) : (s.modBlock x f).promo = s.promo := rfl
@[simp] theorem State.modBlock_summary (s : State) (x : Nat) (f : Block → Block) : (s.modBlock x f).summary = s.summary := rfl
@[simp] theorem State.modBlock_inject (s : State) (x : Nat) (f : Block → Block) : (s.modBlock x f).inject = s.inject := rfl
@[simp] theorem State.modBlock_stopDeadline (s : State) (x : Nat) (f : Block → Block) : (s.modBlock x f).stopDeadline = s.stopDeadline := rfl
@[simp] theorem State.modBlock_rings (s : State) (x : Nat) (f : Block → Block) : (s.modBlock x f).rings = s.rings := rfl
@[simp] theorem State.modBlock_cmds (s : State) (x : Nat) (f : Block → Block) : (s.modBlock x f).cmds = s.cmds := rfl
@[simp] theorem State.modBlock_nextUid (s : State) (x : Nat) (f : Block → Block) : (s.modBlock x f).nextUid = s.nextUid := rfl
@[simp] theorem State.modBlock_ctxs (s : State) (x : Nat) (f : Block → Block) : (s.modBlock x f).ctxs = s.ctxs := rfl
@[simp] theorem State.modBlock_excs (s : State) (x : Nat) (f : Block → Block) : (s.modBlock x f).excs = s.excs := rfl
@[simp] theorem State.modBlock_patterns (s : State) (x : Nat) (f : Block → Block) : (s.modBlock x f).patterns = s.patterns := rfl
@[simp] theorem State.modBlock_patLoads (s : State) (x : Nat) (f : Block → Block) : (s.modBlock x f).patLoads = s.patLoads := rfl
@[simp] theorem State.modBlock_tallies (s : State) (x : Nat) (f : Block → Block) : (s.modBlock x f).tallies = s.tallies := rfl
@[simp] theorem State.modBlock_tallyBad (s : State) (x : Nat) (f : Block → Block) : (s.modBlock x f).tallyBad = s.tallyBad := rfl
@[simp] theorem State.modBlock_tallyFlip (s : State) (x : Nat) (f : Block → Block) : (s.modBlock x f).tallyFlip = s.tallyFlip := rfl
@[simp] theorem State.modBlock_watchTable (s : State) (x : Nat) (f : Block → Block) : (s.modBlock x f).watchTable = s.watchTable := rfl
@[simp] theorem State.modBlock_pollList (s : State) (x : Nat) (f : Block → Block) : (s.modBlock x f).pollList = s.pollList := rfl
@[simp] theorem State.modBlock_pageWatch (s : State) (x : Nat) (f : Block → Block) : (s.modBlock x f).pageWatch = s.pageWatch := rfl
@[simp] theorem State.modBlock_pools (s : State) (x : Nat) (f : Block → Block) : (s.modBlock x f).pools = s.pools := rfl
@[simp] theorem State.modBlock_bufs (s : State) (x : Nat) (f : Block → Block) : (s.modBlock x f).bufs = s.bufs := rfl
@[simp] theorem State.modBlock_withdrawnList (s : State) (x : Nat) (f : Block → Block) : (s.modBlock x f).withdrawnList = s.withdrawnList := rfl
@[simp] theorem State.modBlock_freeStatus (s : State) (x : Nat) (f : Block → Block) : (s.modBlock x f).freeStatus = s.freeStatus := rfl
@[simp] theorem State.modBlock_heldReads (s : State) (x : Nat) (f : Block → Block) : (s.modBlock x f).heldReads = s.heldReads := rfl
@[simp] theorem State.modBlock_copies (s : State) (x : Nat) (f : Block → Block) : (s.modBlock x f).copies = s.copies := rfl
@[simp] theorem State.modBlock_nextCopy (s : State) (x : Nat) (f : Block → Block) : (s.modBlock x f).nextCopy = s.nextCopy := rfl
@[simp] theorem State.modBlock_mouldUser (s : State) (x : Nat) (f : Block → Block) : (s.modBlock x f).mouldUser = s.mouldUser := rfl
@[simp] theorem State.modBlock_mouldBufs (s : State) (x : Nat) (f : Block → Block) : (s.modBlock x f).mouldBufs = s.mouldBufs := rfl
@[simp] theorem State.modBlock_owners (s : State) (x : Nat) (f : Block → Block) : (s.modBlock x f).owners = s.owners := rfl
@[simp] theorem State.modBlock_checkChans (s : State) (x : Nat) (f : Block → Block) : (s.modBlock x f).checkChans = s.checkChans := rfl
@[simp] theorem State.modBlock_checkMismatch (s : State) (x : Nat) (f : Block → Block) : (s.modBlock x f).checkMismatch = s.checkMismatch := rfl
@[simp] theorem State.modBlock_replays (s : State) (x : Nat) (f : Block → Block) : (s.modBlock x f).replays = s.replays := rfl
@[simp] theorem State.modBlock_subs (s : State) (x : Nat) (f : Block → Block) : (s.modBlock x f).subs = s.subs := rfl
@[simp] theorem State.modBlock_queries (s : State) (x : Nat) (f : Block → Block) : (s.modBlock x f).queries = s.queries := rfl
@[simp] theorem State.modBlock_mctpEid (s : State) (x : Nat) (f : Block → Block) : (s.modBlock x f).mctpEid = s.mctpEid := rfl
@[simp] theorem State.modBlock_heldAap (s : State) (x : Nat) (f : Block → Block) : (s.modBlock x f).heldAap = s.heldAap := rfl
@[simp] theorem State.modBlock_stateSince (s : State) (x : Nat) (f : Block → Block) : (s.modBlock x f).stateSince = s.stateSince := rfl
@[simp] theorem State.modBlock_quietSince (s : State) (x : Nat) (f : Block → Block) : (s.modBlock x f).quietSince = s.quietSince := rfl
@[simp] theorem State.modBlock_feedB (s : State) (x : Nat) (f : Block → Block) : (s.modBlock x f).feedB = s.feedB := rfl
@[simp] theorem State.modBlock_feedTick (s : State) (x : Nat) (f : Block → Block) : (s.modBlock x f).feedTick = s.feedTick := rfl
@[simp] theorem State.modBlock_heldPages (s : State) (x : Nat) (f : Block → Block) : (s.modBlock x f).heldPages = s.heldPages := rfl
@[simp] theorem State.modBlock_doorLatch (s : State) (x : Nat) (f : Block → Block) : (s.modBlock x f).doorLatch = s.doorLatch := rfl
@[simp] theorem State.modBlock_timers (s : State) (x : Nat) (f : Block → Block) : (s.modBlock x f).timers = s.timers := rfl
@[simp] theorem State.modBlock_teleBase (s : State) (x : Nat) (f : Block → Block) : (s.modBlock x f).teleBase = s.teleBase := rfl
@[simp] theorem State.modBlock_saved (s : State) (x : Nat) (f : Block → Block) : (s.modBlock x f).saved = s.saved := rfl
@[simp] theorem State.modBlock_savedAt (s : State) (x : Nat) (f : Block → Block) : (s.modBlock x f).savedAt = s.savedAt := rfl
@[simp] theorem State.modBlock_plans (s : State) (x : Nat) (f : Block → Block) : (s.modBlock x f).plans = s.plans := rfl
@[simp] theorem State.modBlock_layerStates (s : State) (x : Nat) (f : Block → Block) : (s.modBlock x f).layerStates = s.layerStates := rfl
@[simp] theorem State.modBlock_planLoads (s : State) (x : Nat) (f : Block → Block) : (s.modBlock x f).planLoads = s.planLoads := rfl
@[simp] theorem State.modBlock_masks (s : State) (x : Nat) (f : Block → Block) : (s.modBlock x f).masks = s.masks := rfl
@[simp] theorem State.modBlock_disps (s : State) (x : Nat) (f : Block → Block) : (s.modBlock x f).disps = s.disps := rfl
@[simp] theorem State.modBlock_pourQueue (s : State) (x : Nat) (f : Block → Block) : (s.modBlock x f).pourQueue = s.pourQueue := rfl
@[simp] theorem State.modBlock_blocks (s : State) (x : Nat) (f : Block → Block) : (s.modBlock x f).blocks = Tab.modify s.blocks x f := rfl
@[simp] theorem State.modBlock_sharedPosts (s : State) (x : Nat) (f : Block → Block) : (s.modBlock x f).sharedPosts = s.sharedPosts := rfl
@[simp] theorem State.modBlock_queueSeq (s : State) (x : Nat) (f : Block → Block) : (s.modBlock x f).queueSeq = s.queueSeq := rfl
@[simp] theorem State.modBlock_peers (s : State) (x : Nat) (f : Block → Block) : (s.modBlock x f).peers = s.peers := rfl
@[simp] theorem State.modBlock_atomReqs (s : State) (x : Nat) (f : Block → Block) : (s.modBlock x f).atomReqs = s.atomReqs := rfl
@[simp] theorem State.modBlock_replyCache (s : State) (x : Nat) (f : Block → Block) : (s.modBlock x f).replyCache = s.replyCache := rfl
@[simp] theorem State.modBlock_xfers (s : State) (x : Nat) (f : Block → Block) : (s.modBlock x f).xfers = s.xfers := rfl
@[simp] theorem State.modBlock_versions (s : State) (x : Nat) (f : Block → Block) : (s.modBlock x f).versions = s.versions := rfl
@[simp] theorem State.modBlock_control (s : State) (x : Nat) (f : Block → Block) : (s.modBlock x f).control = s.control := rfl
@[simp] theorem State.modBlock_fetchHeld (s : State) (x : Nat) (f : Block → Block) : (s.modBlock x f).fetchHeld = s.fetchHeld := rfl
@[simp] theorem State.modBlock_ports (s : State) (x : Nat) (f : Block → Block) : (s.modBlock x f).ports = s.ports := rfl
@[simp] theorem State.modBlock_planBuckets (s : State) (x : Nat) (f : Block → Block) : (s.modBlock x f).planBuckets = s.planBuckets := rfl
@[simp] theorem State.modBlock_pathBuckets (s : State) (x : Nat) (f : Block → Block) : (s.modBlock x f).pathBuckets = s.pathBuckets := rfl
@[simp] theorem State.modBlock_firstUp (s : State) (x : Nat) (f : Block → Block) : (s.modBlock x f).firstUp = s.firstUp := rfl
@[simp] theorem State.modBlock_quiet (s : State) (x : Nat) (f : Block → Block) : (s.modBlock x f).quiet = s.quiet := rfl
@[simp] theorem State.modBlock_probesSent (s : State) (x : Nat) (f : Block → Block) : (s.modBlock x f).probesSent = s.probesSent := rfl
@[simp] theorem State.modBlock_surveyTick (s : State) (x : Nat) (f : Block → Block) : (s.modBlock x f).surveyTick = s.surveyTick := rfl
@[simp] theorem State.modBlock_flasks (s : State) (x : Nat) (f : Block → Block) : (s.modBlock x f).flasks = s.flasks := rfl
@[simp] theorem State.modBlock_heldFrames (s : State) (x : Nat) (f : Block → Block) : (s.modBlock x f).heldFrames = s.heldFrames := rfl
@[simp] theorem State.modBlock_pourUses (s : State) (x : Nat) (f : Block → Block) : (s.modBlock x f).pourUses = s.pourUses := rfl
@[simp] theorem State.modBlock_groupQueues (s : State) (x : Nat) (f : Block → Block) : (s.modBlock x f).groupQueues = s.groupQueues := rfl
@[simp] theorem State.modBlock_useNumbers (s : State) (x : Nat) (f : Block → Block) : (s.modBlock x f).useNumbers = s.useNumbers := rfl
@[simp] theorem State.modBlock_groups (s : State) (x : Nat) (f : Block → Block) : (s.modBlock x f).groups = s.groups := rfl
@[simp] theorem State.modBlock_balances (s : State) (x : Nat) (f : Block → Block) : (s.modBlock x f).balances = s.balances := rfl
@[simp] theorem State.modBlock_boundaries (s : State) (x : Nat) (f : Block → Block) : (s.modBlock x f).boundaries = s.boundaries := rfl
@[simp] theorem State.modBlock_pending (s : State) (x : Nat) (f : Block → Block) : (s.modBlock x f).pending = s.pending := rfl

/-! ## modRing -/

@[simp] theorem State.modRing_variant (s : State) (i : Nat) (f : Ring → Ring) : (s.modRing i f).variant = s.variant := rfl
@[simp] theorem State.modRing_chipId (s : State) (i : Nat) (f : Ring → Ring) : (s.modRing i f).chipId = s.chipId := rfl
@[simp] theorem State.modRing_mctpPen (s : State) (i : Nat) (f : Ring → Ring) : (s.modRing i f).mctpPen = s.mctpPen := rfl
@[simp] theorem State.modRing_pageBase (s : State) (i : Nat) (f : Ring → Ring) : (s.modRing i f).pageBase = s.pageBase := rfl
@[simp] theorem State.modRing_mainReq (s : State) (i : Nat) (f : Ring → Ring) : (s.modRing i f).mainReq = s.mainReq := rfl
@[simp] theorem State.modRing_mainGood (s : State) (i : Nat) (f : Ring → Ring) : (s.modRing i f).mainGood = s.mainGood := rfl
@[simp] theorem State.modRing_coldReleased (s : State) (i : Nat) (f : Ring → Ring) : (s.modRing i f).coldReleased = s.coldReleased := rfl
@[simp] theorem State.modRing_bootTick (s : State) (i : Nat) (f : Ring → Ring) : (s.modRing i f).bootTick = s.bootTick := rfl
@[simp] theorem State.modRing_clockMhz (s : State) (i : Nat) (f : Ring → Ring) : (s.modRing i f).clockMhz = s.clockMhz := rfl
@[simp] theorem State.modRing_krdInt (s : State) (i : Nat) (f : Ring → Ring) : (s.modRing i f).krdInt = s.krdInt := rfl
@[simp] theorem State.modRing_tick (s : State) (i : Nat) (f : Ring → Ring) : (s.modRing i f).tick = s.tick := rfl
@[simp] theorem State.modRing_objs (s : State) (i : Nat) (f : Ring → Ring) : (s.modRing i f).objs = s.objs := rfl
@[simp] theorem State.modRing_free (s : State) (i : Nat) (f : Ring → Ring) : (s.modRing i f).free = s.free := rfl
@[simp] theorem State.modRing_mem (s : State) (i : Nat) (f : Ring → Ring) : (s.modRing i f).mem = s.mem := rfl
@[simp] theorem State.modRing_memStatus (s : State) (i : Nat) (f : Ring → Ring) : (s.modRing i f).memStatus = s.memStatus := rfl
@[simp] theorem State.modRing_out (s : State) (i : Nat) (f : Ring → Ring) : (s.modRing i f).out = s.out := rfl
@[simp] theorem State.modRing_gate (s : State) (i : Nat) (f : Ring → Ring) : (s.modRing i f).gate = s.gate := rfl
@[simp] theorem State.modRing_landing (s : State) (i : Nat) (f : Ring → Ring) : (s.modRing i f).landing = s.landing := rfl
@[simp] theorem State.modRing_planCache (s : State) (i : Nat) (f : Ring → Ring) : (s.modRing i f).planCache = s.planCache := rfl
@[simp] theorem State.modRing_scratch (s : State) (i : Nat) (f : Ring → Ring) : (s.modRing i f).scratch = s.scratch := rfl
@[simp] theorem State.modRing_checks (s : State) (i : Nat) (f : Ring → Ring) : (s.modRing i f).checks = s.checks := rfl
@[simp] theorem State.modRing_units (s : State) (i : Nat) (f : Ring → Ring) : (s.modRing i f).units = s.units := rfl
@[simp] theorem State.modRing_promo (s : State) (i : Nat) (f : Ring → Ring) : (s.modRing i f).promo = s.promo := rfl
@[simp] theorem State.modRing_summary (s : State) (i : Nat) (f : Ring → Ring) : (s.modRing i f).summary = s.summary := rfl
@[simp] theorem State.modRing_inject (s : State) (i : Nat) (f : Ring → Ring) : (s.modRing i f).inject = s.inject := rfl
@[simp] theorem State.modRing_stopDeadline (s : State) (i : Nat) (f : Ring → Ring) : (s.modRing i f).stopDeadline = s.stopDeadline := rfl
@[simp] theorem State.modRing_rings (s : State) (i : Nat) (f : Ring → Ring) : (s.modRing i f).rings = Tab.set {} s.rings i (f (s.ring i)) := rfl
@[simp] theorem State.modRing_cmds (s : State) (i : Nat) (f : Ring → Ring) : (s.modRing i f).cmds = s.cmds := rfl
@[simp] theorem State.modRing_nextUid (s : State) (i : Nat) (f : Ring → Ring) : (s.modRing i f).nextUid = s.nextUid := rfl
@[simp] theorem State.modRing_ctxs (s : State) (i : Nat) (f : Ring → Ring) : (s.modRing i f).ctxs = s.ctxs := rfl
@[simp] theorem State.modRing_excs (s : State) (i : Nat) (f : Ring → Ring) : (s.modRing i f).excs = s.excs := rfl
@[simp] theorem State.modRing_patterns (s : State) (i : Nat) (f : Ring → Ring) : (s.modRing i f).patterns = s.patterns := rfl
@[simp] theorem State.modRing_patLoads (s : State) (i : Nat) (f : Ring → Ring) : (s.modRing i f).patLoads = s.patLoads := rfl
@[simp] theorem State.modRing_tallies (s : State) (i : Nat) (f : Ring → Ring) : (s.modRing i f).tallies = s.tallies := rfl
@[simp] theorem State.modRing_tallyBad (s : State) (i : Nat) (f : Ring → Ring) : (s.modRing i f).tallyBad = s.tallyBad := rfl
@[simp] theorem State.modRing_tallyFlip (s : State) (i : Nat) (f : Ring → Ring) : (s.modRing i f).tallyFlip = s.tallyFlip := rfl
@[simp] theorem State.modRing_watchTable (s : State) (i : Nat) (f : Ring → Ring) : (s.modRing i f).watchTable = s.watchTable := rfl
@[simp] theorem State.modRing_pollList (s : State) (i : Nat) (f : Ring → Ring) : (s.modRing i f).pollList = s.pollList := rfl
@[simp] theorem State.modRing_pageWatch (s : State) (i : Nat) (f : Ring → Ring) : (s.modRing i f).pageWatch = s.pageWatch := rfl
@[simp] theorem State.modRing_pools (s : State) (i : Nat) (f : Ring → Ring) : (s.modRing i f).pools = s.pools := rfl
@[simp] theorem State.modRing_bufs (s : State) (i : Nat) (f : Ring → Ring) : (s.modRing i f).bufs = s.bufs := rfl
@[simp] theorem State.modRing_withdrawnList (s : State) (i : Nat) (f : Ring → Ring) : (s.modRing i f).withdrawnList = s.withdrawnList := rfl
@[simp] theorem State.modRing_freeStatus (s : State) (i : Nat) (f : Ring → Ring) : (s.modRing i f).freeStatus = s.freeStatus := rfl
@[simp] theorem State.modRing_heldReads (s : State) (i : Nat) (f : Ring → Ring) : (s.modRing i f).heldReads = s.heldReads := rfl
@[simp] theorem State.modRing_copies (s : State) (i : Nat) (f : Ring → Ring) : (s.modRing i f).copies = s.copies := rfl
@[simp] theorem State.modRing_nextCopy (s : State) (i : Nat) (f : Ring → Ring) : (s.modRing i f).nextCopy = s.nextCopy := rfl
@[simp] theorem State.modRing_mouldUser (s : State) (i : Nat) (f : Ring → Ring) : (s.modRing i f).mouldUser = s.mouldUser := rfl
@[simp] theorem State.modRing_mouldBufs (s : State) (i : Nat) (f : Ring → Ring) : (s.modRing i f).mouldBufs = s.mouldBufs := rfl
@[simp] theorem State.modRing_owners (s : State) (i : Nat) (f : Ring → Ring) : (s.modRing i f).owners = s.owners := rfl
@[simp] theorem State.modRing_checkChans (s : State) (i : Nat) (f : Ring → Ring) : (s.modRing i f).checkChans = s.checkChans := rfl
@[simp] theorem State.modRing_checkMismatch (s : State) (i : Nat) (f : Ring → Ring) : (s.modRing i f).checkMismatch = s.checkMismatch := rfl
@[simp] theorem State.modRing_replays (s : State) (i : Nat) (f : Ring → Ring) : (s.modRing i f).replays = s.replays := rfl
@[simp] theorem State.modRing_subs (s : State) (i : Nat) (f : Ring → Ring) : (s.modRing i f).subs = s.subs := rfl
@[simp] theorem State.modRing_queries (s : State) (i : Nat) (f : Ring → Ring) : (s.modRing i f).queries = s.queries := rfl
@[simp] theorem State.modRing_mctpEid (s : State) (i : Nat) (f : Ring → Ring) : (s.modRing i f).mctpEid = s.mctpEid := rfl
@[simp] theorem State.modRing_heldAap (s : State) (i : Nat) (f : Ring → Ring) : (s.modRing i f).heldAap = s.heldAap := rfl
@[simp] theorem State.modRing_stateSince (s : State) (i : Nat) (f : Ring → Ring) : (s.modRing i f).stateSince = s.stateSince := rfl
@[simp] theorem State.modRing_quietSince (s : State) (i : Nat) (f : Ring → Ring) : (s.modRing i f).quietSince = s.quietSince := rfl
@[simp] theorem State.modRing_feedB (s : State) (i : Nat) (f : Ring → Ring) : (s.modRing i f).feedB = s.feedB := rfl
@[simp] theorem State.modRing_feedTick (s : State) (i : Nat) (f : Ring → Ring) : (s.modRing i f).feedTick = s.feedTick := rfl
@[simp] theorem State.modRing_heldPages (s : State) (i : Nat) (f : Ring → Ring) : (s.modRing i f).heldPages = s.heldPages := rfl
@[simp] theorem State.modRing_doorLatch (s : State) (i : Nat) (f : Ring → Ring) : (s.modRing i f).doorLatch = s.doorLatch := rfl
@[simp] theorem State.modRing_timers (s : State) (i : Nat) (f : Ring → Ring) : (s.modRing i f).timers = s.timers := rfl
@[simp] theorem State.modRing_teleBase (s : State) (i : Nat) (f : Ring → Ring) : (s.modRing i f).teleBase = s.teleBase := rfl
@[simp] theorem State.modRing_saved (s : State) (i : Nat) (f : Ring → Ring) : (s.modRing i f).saved = s.saved := rfl
@[simp] theorem State.modRing_savedAt (s : State) (i : Nat) (f : Ring → Ring) : (s.modRing i f).savedAt = s.savedAt := rfl
@[simp] theorem State.modRing_plans (s : State) (i : Nat) (f : Ring → Ring) : (s.modRing i f).plans = s.plans := rfl
@[simp] theorem State.modRing_layerStates (s : State) (i : Nat) (f : Ring → Ring) : (s.modRing i f).layerStates = s.layerStates := rfl
@[simp] theorem State.modRing_planLoads (s : State) (i : Nat) (f : Ring → Ring) : (s.modRing i f).planLoads = s.planLoads := rfl
@[simp] theorem State.modRing_masks (s : State) (i : Nat) (f : Ring → Ring) : (s.modRing i f).masks = s.masks := rfl
@[simp] theorem State.modRing_disps (s : State) (i : Nat) (f : Ring → Ring) : (s.modRing i f).disps = s.disps := rfl
@[simp] theorem State.modRing_pourQueue (s : State) (i : Nat) (f : Ring → Ring) : (s.modRing i f).pourQueue = s.pourQueue := rfl
@[simp] theorem State.modRing_blocks (s : State) (i : Nat) (f : Ring → Ring) : (s.modRing i f).blocks = s.blocks := rfl
@[simp] theorem State.modRing_sharedPosts (s : State) (i : Nat) (f : Ring → Ring) : (s.modRing i f).sharedPosts = s.sharedPosts := rfl
@[simp] theorem State.modRing_queueSeq (s : State) (i : Nat) (f : Ring → Ring) : (s.modRing i f).queueSeq = s.queueSeq := rfl
@[simp] theorem State.modRing_peers (s : State) (i : Nat) (f : Ring → Ring) : (s.modRing i f).peers = s.peers := rfl
@[simp] theorem State.modRing_atomReqs (s : State) (i : Nat) (f : Ring → Ring) : (s.modRing i f).atomReqs = s.atomReqs := rfl
@[simp] theorem State.modRing_replyCache (s : State) (i : Nat) (f : Ring → Ring) : (s.modRing i f).replyCache = s.replyCache := rfl
@[simp] theorem State.modRing_xfers (s : State) (i : Nat) (f : Ring → Ring) : (s.modRing i f).xfers = s.xfers := rfl
@[simp] theorem State.modRing_versions (s : State) (i : Nat) (f : Ring → Ring) : (s.modRing i f).versions = s.versions := rfl
@[simp] theorem State.modRing_control (s : State) (i : Nat) (f : Ring → Ring) : (s.modRing i f).control = s.control := rfl
@[simp] theorem State.modRing_fetchHeld (s : State) (i : Nat) (f : Ring → Ring) : (s.modRing i f).fetchHeld = s.fetchHeld := rfl
@[simp] theorem State.modRing_ports (s : State) (i : Nat) (f : Ring → Ring) : (s.modRing i f).ports = s.ports := rfl
@[simp] theorem State.modRing_planBuckets (s : State) (i : Nat) (f : Ring → Ring) : (s.modRing i f).planBuckets = s.planBuckets := rfl
@[simp] theorem State.modRing_pathBuckets (s : State) (i : Nat) (f : Ring → Ring) : (s.modRing i f).pathBuckets = s.pathBuckets := rfl
@[simp] theorem State.modRing_firstUp (s : State) (i : Nat) (f : Ring → Ring) : (s.modRing i f).firstUp = s.firstUp := rfl
@[simp] theorem State.modRing_quiet (s : State) (i : Nat) (f : Ring → Ring) : (s.modRing i f).quiet = s.quiet := rfl
@[simp] theorem State.modRing_probesSent (s : State) (i : Nat) (f : Ring → Ring) : (s.modRing i f).probesSent = s.probesSent := rfl
@[simp] theorem State.modRing_surveyTick (s : State) (i : Nat) (f : Ring → Ring) : (s.modRing i f).surveyTick = s.surveyTick := rfl
@[simp] theorem State.modRing_flasks (s : State) (i : Nat) (f : Ring → Ring) : (s.modRing i f).flasks = s.flasks := rfl
@[simp] theorem State.modRing_heldFrames (s : State) (i : Nat) (f : Ring → Ring) : (s.modRing i f).heldFrames = s.heldFrames := rfl
@[simp] theorem State.modRing_pourUses (s : State) (i : Nat) (f : Ring → Ring) : (s.modRing i f).pourUses = s.pourUses := rfl
@[simp] theorem State.modRing_groupQueues (s : State) (i : Nat) (f : Ring → Ring) : (s.modRing i f).groupQueues = s.groupQueues := rfl
@[simp] theorem State.modRing_useNumbers (s : State) (i : Nat) (f : Ring → Ring) : (s.modRing i f).useNumbers = s.useNumbers := rfl
@[simp] theorem State.modRing_groups (s : State) (i : Nat) (f : Ring → Ring) : (s.modRing i f).groups = s.groups := rfl
@[simp] theorem State.modRing_balances (s : State) (i : Nat) (f : Ring → Ring) : (s.modRing i f).balances = s.balances := rfl
@[simp] theorem State.modRing_boundaries (s : State) (i : Nat) (f : Ring → Ring) : (s.modRing i f).boundaries = s.boundaries := rfl
@[simp] theorem State.modRing_pending (s : State) (i : Nat) (f : Ring → Ring) : (s.modRing i f).pending = s.pending := rfl

/-! ## modUnit -/

@[simp] theorem State.modUnit_variant (s : State) (u : Nat) (f : UnitFaults → UnitFaults) : (s.modUnit u f).variant = s.variant := rfl
@[simp] theorem State.modUnit_chipId (s : State) (u : Nat) (f : UnitFaults → UnitFaults) : (s.modUnit u f).chipId = s.chipId := rfl
@[simp] theorem State.modUnit_mctpPen (s : State) (u : Nat) (f : UnitFaults → UnitFaults) : (s.modUnit u f).mctpPen = s.mctpPen := rfl
@[simp] theorem State.modUnit_pageBase (s : State) (u : Nat) (f : UnitFaults → UnitFaults) : (s.modUnit u f).pageBase = s.pageBase := rfl
@[simp] theorem State.modUnit_mainReq (s : State) (u : Nat) (f : UnitFaults → UnitFaults) : (s.modUnit u f).mainReq = s.mainReq := rfl
@[simp] theorem State.modUnit_mainGood (s : State) (u : Nat) (f : UnitFaults → UnitFaults) : (s.modUnit u f).mainGood = s.mainGood := rfl
@[simp] theorem State.modUnit_coldReleased (s : State) (u : Nat) (f : UnitFaults → UnitFaults) : (s.modUnit u f).coldReleased = s.coldReleased := rfl
@[simp] theorem State.modUnit_bootTick (s : State) (u : Nat) (f : UnitFaults → UnitFaults) : (s.modUnit u f).bootTick = s.bootTick := rfl
@[simp] theorem State.modUnit_clockMhz (s : State) (u : Nat) (f : UnitFaults → UnitFaults) : (s.modUnit u f).clockMhz = s.clockMhz := rfl
@[simp] theorem State.modUnit_krdInt (s : State) (u : Nat) (f : UnitFaults → UnitFaults) : (s.modUnit u f).krdInt = s.krdInt := rfl
@[simp] theorem State.modUnit_tick (s : State) (u : Nat) (f : UnitFaults → UnitFaults) : (s.modUnit u f).tick = s.tick := rfl
@[simp] theorem State.modUnit_objs (s : State) (u : Nat) (f : UnitFaults → UnitFaults) : (s.modUnit u f).objs = s.objs := rfl
@[simp] theorem State.modUnit_free (s : State) (u : Nat) (f : UnitFaults → UnitFaults) : (s.modUnit u f).free = s.free := rfl
@[simp] theorem State.modUnit_mem (s : State) (u : Nat) (f : UnitFaults → UnitFaults) : (s.modUnit u f).mem = s.mem := rfl
@[simp] theorem State.modUnit_memStatus (s : State) (u : Nat) (f : UnitFaults → UnitFaults) : (s.modUnit u f).memStatus = s.memStatus := rfl
@[simp] theorem State.modUnit_out (s : State) (u : Nat) (f : UnitFaults → UnitFaults) : (s.modUnit u f).out = s.out := rfl
@[simp] theorem State.modUnit_gate (s : State) (u : Nat) (f : UnitFaults → UnitFaults) : (s.modUnit u f).gate = s.gate := rfl
@[simp] theorem State.modUnit_landing (s : State) (u : Nat) (f : UnitFaults → UnitFaults) : (s.modUnit u f).landing = s.landing := rfl
@[simp] theorem State.modUnit_planCache (s : State) (u : Nat) (f : UnitFaults → UnitFaults) : (s.modUnit u f).planCache = s.planCache := rfl
@[simp] theorem State.modUnit_scratch (s : State) (u : Nat) (f : UnitFaults → UnitFaults) : (s.modUnit u f).scratch = s.scratch := rfl
@[simp] theorem State.modUnit_checks (s : State) (u : Nat) (f : UnitFaults → UnitFaults) : (s.modUnit u f).checks = s.checks := rfl
@[simp] theorem State.modUnit_units (s : State) (u : Nat) (f : UnitFaults → UnitFaults) : (s.modUnit u f).units = Tab.set {} s.units u (f (s.unitFaults u)) := rfl
@[simp] theorem State.modUnit_promo (s : State) (u : Nat) (f : UnitFaults → UnitFaults) : (s.modUnit u f).promo = s.promo := rfl
@[simp] theorem State.modUnit_summary (s : State) (u : Nat) (f : UnitFaults → UnitFaults) : (s.modUnit u f).summary = s.summary := rfl
@[simp] theorem State.modUnit_inject (s : State) (u : Nat) (f : UnitFaults → UnitFaults) : (s.modUnit u f).inject = s.inject := rfl
@[simp] theorem State.modUnit_stopDeadline (s : State) (u : Nat) (f : UnitFaults → UnitFaults) : (s.modUnit u f).stopDeadline = s.stopDeadline := rfl
@[simp] theorem State.modUnit_rings (s : State) (u : Nat) (f : UnitFaults → UnitFaults) : (s.modUnit u f).rings = s.rings := rfl
@[simp] theorem State.modUnit_cmds (s : State) (u : Nat) (f : UnitFaults → UnitFaults) : (s.modUnit u f).cmds = s.cmds := rfl
@[simp] theorem State.modUnit_nextUid (s : State) (u : Nat) (f : UnitFaults → UnitFaults) : (s.modUnit u f).nextUid = s.nextUid := rfl
@[simp] theorem State.modUnit_ctxs (s : State) (u : Nat) (f : UnitFaults → UnitFaults) : (s.modUnit u f).ctxs = s.ctxs := rfl
@[simp] theorem State.modUnit_excs (s : State) (u : Nat) (f : UnitFaults → UnitFaults) : (s.modUnit u f).excs = s.excs := rfl
@[simp] theorem State.modUnit_patterns (s : State) (u : Nat) (f : UnitFaults → UnitFaults) : (s.modUnit u f).patterns = s.patterns := rfl
@[simp] theorem State.modUnit_patLoads (s : State) (u : Nat) (f : UnitFaults → UnitFaults) : (s.modUnit u f).patLoads = s.patLoads := rfl
@[simp] theorem State.modUnit_tallies (s : State) (u : Nat) (f : UnitFaults → UnitFaults) : (s.modUnit u f).tallies = s.tallies := rfl
@[simp] theorem State.modUnit_tallyBad (s : State) (u : Nat) (f : UnitFaults → UnitFaults) : (s.modUnit u f).tallyBad = s.tallyBad := rfl
@[simp] theorem State.modUnit_tallyFlip (s : State) (u : Nat) (f : UnitFaults → UnitFaults) : (s.modUnit u f).tallyFlip = s.tallyFlip := rfl
@[simp] theorem State.modUnit_watchTable (s : State) (u : Nat) (f : UnitFaults → UnitFaults) : (s.modUnit u f).watchTable = s.watchTable := rfl
@[simp] theorem State.modUnit_pollList (s : State) (u : Nat) (f : UnitFaults → UnitFaults) : (s.modUnit u f).pollList = s.pollList := rfl
@[simp] theorem State.modUnit_pageWatch (s : State) (u : Nat) (f : UnitFaults → UnitFaults) : (s.modUnit u f).pageWatch = s.pageWatch := rfl
@[simp] theorem State.modUnit_pools (s : State) (u : Nat) (f : UnitFaults → UnitFaults) : (s.modUnit u f).pools = s.pools := rfl
@[simp] theorem State.modUnit_bufs (s : State) (u : Nat) (f : UnitFaults → UnitFaults) : (s.modUnit u f).bufs = s.bufs := rfl
@[simp] theorem State.modUnit_withdrawnList (s : State) (u : Nat) (f : UnitFaults → UnitFaults) : (s.modUnit u f).withdrawnList = s.withdrawnList := rfl
@[simp] theorem State.modUnit_freeStatus (s : State) (u : Nat) (f : UnitFaults → UnitFaults) : (s.modUnit u f).freeStatus = s.freeStatus := rfl
@[simp] theorem State.modUnit_heldReads (s : State) (u : Nat) (f : UnitFaults → UnitFaults) : (s.modUnit u f).heldReads = s.heldReads := rfl
@[simp] theorem State.modUnit_copies (s : State) (u : Nat) (f : UnitFaults → UnitFaults) : (s.modUnit u f).copies = s.copies := rfl
@[simp] theorem State.modUnit_nextCopy (s : State) (u : Nat) (f : UnitFaults → UnitFaults) : (s.modUnit u f).nextCopy = s.nextCopy := rfl
@[simp] theorem State.modUnit_mouldUser (s : State) (u : Nat) (f : UnitFaults → UnitFaults) : (s.modUnit u f).mouldUser = s.mouldUser := rfl
@[simp] theorem State.modUnit_mouldBufs (s : State) (u : Nat) (f : UnitFaults → UnitFaults) : (s.modUnit u f).mouldBufs = s.mouldBufs := rfl
@[simp] theorem State.modUnit_owners (s : State) (u : Nat) (f : UnitFaults → UnitFaults) : (s.modUnit u f).owners = s.owners := rfl
@[simp] theorem State.modUnit_checkChans (s : State) (u : Nat) (f : UnitFaults → UnitFaults) : (s.modUnit u f).checkChans = s.checkChans := rfl
@[simp] theorem State.modUnit_checkMismatch (s : State) (u : Nat) (f : UnitFaults → UnitFaults) : (s.modUnit u f).checkMismatch = s.checkMismatch := rfl
@[simp] theorem State.modUnit_replays (s : State) (u : Nat) (f : UnitFaults → UnitFaults) : (s.modUnit u f).replays = s.replays := rfl
@[simp] theorem State.modUnit_subs (s : State) (u : Nat) (f : UnitFaults → UnitFaults) : (s.modUnit u f).subs = s.subs := rfl
@[simp] theorem State.modUnit_queries (s : State) (u : Nat) (f : UnitFaults → UnitFaults) : (s.modUnit u f).queries = s.queries := rfl
@[simp] theorem State.modUnit_mctpEid (s : State) (u : Nat) (f : UnitFaults → UnitFaults) : (s.modUnit u f).mctpEid = s.mctpEid := rfl
@[simp] theorem State.modUnit_heldAap (s : State) (u : Nat) (f : UnitFaults → UnitFaults) : (s.modUnit u f).heldAap = s.heldAap := rfl
@[simp] theorem State.modUnit_stateSince (s : State) (u : Nat) (f : UnitFaults → UnitFaults) : (s.modUnit u f).stateSince = s.stateSince := rfl
@[simp] theorem State.modUnit_quietSince (s : State) (u : Nat) (f : UnitFaults → UnitFaults) : (s.modUnit u f).quietSince = s.quietSince := rfl
@[simp] theorem State.modUnit_feedB (s : State) (u : Nat) (f : UnitFaults → UnitFaults) : (s.modUnit u f).feedB = s.feedB := rfl
@[simp] theorem State.modUnit_feedTick (s : State) (u : Nat) (f : UnitFaults → UnitFaults) : (s.modUnit u f).feedTick = s.feedTick := rfl
@[simp] theorem State.modUnit_heldPages (s : State) (u : Nat) (f : UnitFaults → UnitFaults) : (s.modUnit u f).heldPages = s.heldPages := rfl
@[simp] theorem State.modUnit_doorLatch (s : State) (u : Nat) (f : UnitFaults → UnitFaults) : (s.modUnit u f).doorLatch = s.doorLatch := rfl
@[simp] theorem State.modUnit_timers (s : State) (u : Nat) (f : UnitFaults → UnitFaults) : (s.modUnit u f).timers = s.timers := rfl
@[simp] theorem State.modUnit_teleBase (s : State) (u : Nat) (f : UnitFaults → UnitFaults) : (s.modUnit u f).teleBase = s.teleBase := rfl
@[simp] theorem State.modUnit_saved (s : State) (u : Nat) (f : UnitFaults → UnitFaults) : (s.modUnit u f).saved = s.saved := rfl
@[simp] theorem State.modUnit_savedAt (s : State) (u : Nat) (f : UnitFaults → UnitFaults) : (s.modUnit u f).savedAt = s.savedAt := rfl
@[simp] theorem State.modUnit_plans (s : State) (u : Nat) (f : UnitFaults → UnitFaults) : (s.modUnit u f).plans = s.plans := rfl
@[simp] theorem State.modUnit_layerStates (s : State) (u : Nat) (f : UnitFaults → UnitFaults) : (s.modUnit u f).layerStates = s.layerStates := rfl
@[simp] theorem State.modUnit_planLoads (s : State) (u : Nat) (f : UnitFaults → UnitFaults) : (s.modUnit u f).planLoads = s.planLoads := rfl
@[simp] theorem State.modUnit_masks (s : State) (u : Nat) (f : UnitFaults → UnitFaults) : (s.modUnit u f).masks = s.masks := rfl
@[simp] theorem State.modUnit_disps (s : State) (u : Nat) (f : UnitFaults → UnitFaults) : (s.modUnit u f).disps = s.disps := rfl
@[simp] theorem State.modUnit_pourQueue (s : State) (u : Nat) (f : UnitFaults → UnitFaults) : (s.modUnit u f).pourQueue = s.pourQueue := rfl
@[simp] theorem State.modUnit_blocks (s : State) (u : Nat) (f : UnitFaults → UnitFaults) : (s.modUnit u f).blocks = s.blocks := rfl
@[simp] theorem State.modUnit_sharedPosts (s : State) (u : Nat) (f : UnitFaults → UnitFaults) : (s.modUnit u f).sharedPosts = s.sharedPosts := rfl
@[simp] theorem State.modUnit_queueSeq (s : State) (u : Nat) (f : UnitFaults → UnitFaults) : (s.modUnit u f).queueSeq = s.queueSeq := rfl
@[simp] theorem State.modUnit_peers (s : State) (u : Nat) (f : UnitFaults → UnitFaults) : (s.modUnit u f).peers = s.peers := rfl
@[simp] theorem State.modUnit_atomReqs (s : State) (u : Nat) (f : UnitFaults → UnitFaults) : (s.modUnit u f).atomReqs = s.atomReqs := rfl
@[simp] theorem State.modUnit_replyCache (s : State) (u : Nat) (f : UnitFaults → UnitFaults) : (s.modUnit u f).replyCache = s.replyCache := rfl
@[simp] theorem State.modUnit_xfers (s : State) (u : Nat) (f : UnitFaults → UnitFaults) : (s.modUnit u f).xfers = s.xfers := rfl
@[simp] theorem State.modUnit_versions (s : State) (u : Nat) (f : UnitFaults → UnitFaults) : (s.modUnit u f).versions = s.versions := rfl
@[simp] theorem State.modUnit_control (s : State) (u : Nat) (f : UnitFaults → UnitFaults) : (s.modUnit u f).control = s.control := rfl
@[simp] theorem State.modUnit_fetchHeld (s : State) (u : Nat) (f : UnitFaults → UnitFaults) : (s.modUnit u f).fetchHeld = s.fetchHeld := rfl
@[simp] theorem State.modUnit_ports (s : State) (u : Nat) (f : UnitFaults → UnitFaults) : (s.modUnit u f).ports = s.ports := rfl
@[simp] theorem State.modUnit_planBuckets (s : State) (u : Nat) (f : UnitFaults → UnitFaults) : (s.modUnit u f).planBuckets = s.planBuckets := rfl
@[simp] theorem State.modUnit_pathBuckets (s : State) (u : Nat) (f : UnitFaults → UnitFaults) : (s.modUnit u f).pathBuckets = s.pathBuckets := rfl
@[simp] theorem State.modUnit_firstUp (s : State) (u : Nat) (f : UnitFaults → UnitFaults) : (s.modUnit u f).firstUp = s.firstUp := rfl
@[simp] theorem State.modUnit_quiet (s : State) (u : Nat) (f : UnitFaults → UnitFaults) : (s.modUnit u f).quiet = s.quiet := rfl
@[simp] theorem State.modUnit_probesSent (s : State) (u : Nat) (f : UnitFaults → UnitFaults) : (s.modUnit u f).probesSent = s.probesSent := rfl
@[simp] theorem State.modUnit_surveyTick (s : State) (u : Nat) (f : UnitFaults → UnitFaults) : (s.modUnit u f).surveyTick = s.surveyTick := rfl
@[simp] theorem State.modUnit_flasks (s : State) (u : Nat) (f : UnitFaults → UnitFaults) : (s.modUnit u f).flasks = s.flasks := rfl
@[simp] theorem State.modUnit_heldFrames (s : State) (u : Nat) (f : UnitFaults → UnitFaults) : (s.modUnit u f).heldFrames = s.heldFrames := rfl
@[simp] theorem State.modUnit_pourUses (s : State) (u : Nat) (f : UnitFaults → UnitFaults) : (s.modUnit u f).pourUses = s.pourUses := rfl
@[simp] theorem State.modUnit_groupQueues (s : State) (u : Nat) (f : UnitFaults → UnitFaults) : (s.modUnit u f).groupQueues = s.groupQueues := rfl
@[simp] theorem State.modUnit_useNumbers (s : State) (u : Nat) (f : UnitFaults → UnitFaults) : (s.modUnit u f).useNumbers = s.useNumbers := rfl
@[simp] theorem State.modUnit_groups (s : State) (u : Nat) (f : UnitFaults → UnitFaults) : (s.modUnit u f).groups = s.groups := rfl
@[simp] theorem State.modUnit_balances (s : State) (u : Nat) (f : UnitFaults → UnitFaults) : (s.modUnit u f).balances = s.balances := rfl
@[simp] theorem State.modUnit_boundaries (s : State) (u : Nat) (f : UnitFaults → UnitFaults) : (s.modUnit u f).boundaries = s.boundaries := rfl
@[simp] theorem State.modUnit_pending (s : State) (u : Nat) (f : UnitFaults → UnitFaults) : (s.modUnit u f).pending = s.pending := rfl

/-! ## modPool -/

@[simp] theorem State.modPool_variant (s : State) (c : Nat) (f : Pool → Pool) : (s.modPool c f).variant = s.variant := rfl
@[simp] theorem State.modPool_chipId (s : State) (c : Nat) (f : Pool → Pool) : (s.modPool c f).chipId = s.chipId := rfl
@[simp] theorem State.modPool_mctpPen (s : State) (c : Nat) (f : Pool → Pool) : (s.modPool c f).mctpPen = s.mctpPen := rfl
@[simp] theorem State.modPool_pageBase (s : State) (c : Nat) (f : Pool → Pool) : (s.modPool c f).pageBase = s.pageBase := rfl
@[simp] theorem State.modPool_mainReq (s : State) (c : Nat) (f : Pool → Pool) : (s.modPool c f).mainReq = s.mainReq := rfl
@[simp] theorem State.modPool_mainGood (s : State) (c : Nat) (f : Pool → Pool) : (s.modPool c f).mainGood = s.mainGood := rfl
@[simp] theorem State.modPool_coldReleased (s : State) (c : Nat) (f : Pool → Pool) : (s.modPool c f).coldReleased = s.coldReleased := rfl
@[simp] theorem State.modPool_bootTick (s : State) (c : Nat) (f : Pool → Pool) : (s.modPool c f).bootTick = s.bootTick := rfl
@[simp] theorem State.modPool_clockMhz (s : State) (c : Nat) (f : Pool → Pool) : (s.modPool c f).clockMhz = s.clockMhz := rfl
@[simp] theorem State.modPool_krdInt (s : State) (c : Nat) (f : Pool → Pool) : (s.modPool c f).krdInt = s.krdInt := rfl
@[simp] theorem State.modPool_tick (s : State) (c : Nat) (f : Pool → Pool) : (s.modPool c f).tick = s.tick := rfl
@[simp] theorem State.modPool_objs (s : State) (c : Nat) (f : Pool → Pool) : (s.modPool c f).objs = s.objs := rfl
@[simp] theorem State.modPool_free (s : State) (c : Nat) (f : Pool → Pool) : (s.modPool c f).free = s.free := rfl
@[simp] theorem State.modPool_mem (s : State) (c : Nat) (f : Pool → Pool) : (s.modPool c f).mem = s.mem := rfl
@[simp] theorem State.modPool_memStatus (s : State) (c : Nat) (f : Pool → Pool) : (s.modPool c f).memStatus = s.memStatus := rfl
@[simp] theorem State.modPool_out (s : State) (c : Nat) (f : Pool → Pool) : (s.modPool c f).out = s.out := rfl
@[simp] theorem State.modPool_gate (s : State) (c : Nat) (f : Pool → Pool) : (s.modPool c f).gate = s.gate := rfl
@[simp] theorem State.modPool_landing (s : State) (c : Nat) (f : Pool → Pool) : (s.modPool c f).landing = s.landing := rfl
@[simp] theorem State.modPool_planCache (s : State) (c : Nat) (f : Pool → Pool) : (s.modPool c f).planCache = s.planCache := rfl
@[simp] theorem State.modPool_scratch (s : State) (c : Nat) (f : Pool → Pool) : (s.modPool c f).scratch = s.scratch := rfl
@[simp] theorem State.modPool_checks (s : State) (c : Nat) (f : Pool → Pool) : (s.modPool c f).checks = s.checks := rfl
@[simp] theorem State.modPool_units (s : State) (c : Nat) (f : Pool → Pool) : (s.modPool c f).units = s.units := rfl
@[simp] theorem State.modPool_promo (s : State) (c : Nat) (f : Pool → Pool) : (s.modPool c f).promo = s.promo := rfl
@[simp] theorem State.modPool_summary (s : State) (c : Nat) (f : Pool → Pool) : (s.modPool c f).summary = s.summary := rfl
@[simp] theorem State.modPool_inject (s : State) (c : Nat) (f : Pool → Pool) : (s.modPool c f).inject = s.inject := rfl
@[simp] theorem State.modPool_stopDeadline (s : State) (c : Nat) (f : Pool → Pool) : (s.modPool c f).stopDeadline = s.stopDeadline := rfl
@[simp] theorem State.modPool_rings (s : State) (c : Nat) (f : Pool → Pool) : (s.modPool c f).rings = s.rings := rfl
@[simp] theorem State.modPool_cmds (s : State) (c : Nat) (f : Pool → Pool) : (s.modPool c f).cmds = s.cmds := rfl
@[simp] theorem State.modPool_nextUid (s : State) (c : Nat) (f : Pool → Pool) : (s.modPool c f).nextUid = s.nextUid := rfl
@[simp] theorem State.modPool_ctxs (s : State) (c : Nat) (f : Pool → Pool) : (s.modPool c f).ctxs = s.ctxs := rfl
@[simp] theorem State.modPool_excs (s : State) (c : Nat) (f : Pool → Pool) : (s.modPool c f).excs = s.excs := rfl
@[simp] theorem State.modPool_patterns (s : State) (c : Nat) (f : Pool → Pool) : (s.modPool c f).patterns = s.patterns := rfl
@[simp] theorem State.modPool_patLoads (s : State) (c : Nat) (f : Pool → Pool) : (s.modPool c f).patLoads = s.patLoads := rfl
@[simp] theorem State.modPool_tallies (s : State) (c : Nat) (f : Pool → Pool) : (s.modPool c f).tallies = s.tallies := rfl
@[simp] theorem State.modPool_tallyBad (s : State) (c : Nat) (f : Pool → Pool) : (s.modPool c f).tallyBad = s.tallyBad := rfl
@[simp] theorem State.modPool_tallyFlip (s : State) (c : Nat) (f : Pool → Pool) : (s.modPool c f).tallyFlip = s.tallyFlip := rfl
@[simp] theorem State.modPool_watchTable (s : State) (c : Nat) (f : Pool → Pool) : (s.modPool c f).watchTable = s.watchTable := rfl
@[simp] theorem State.modPool_pollList (s : State) (c : Nat) (f : Pool → Pool) : (s.modPool c f).pollList = s.pollList := rfl
@[simp] theorem State.modPool_pageWatch (s : State) (c : Nat) (f : Pool → Pool) : (s.modPool c f).pageWatch = s.pageWatch := rfl
@[simp] theorem State.modPool_pools (s : State) (c : Nat) (f : Pool → Pool) : (s.modPool c f).pools = Tab.set {} s.pools c (f (s.pool c)) := rfl
@[simp] theorem State.modPool_bufs (s : State) (c : Nat) (f : Pool → Pool) : (s.modPool c f).bufs = s.bufs := rfl
@[simp] theorem State.modPool_withdrawnList (s : State) (c : Nat) (f : Pool → Pool) : (s.modPool c f).withdrawnList = s.withdrawnList := rfl
@[simp] theorem State.modPool_freeStatus (s : State) (c : Nat) (f : Pool → Pool) : (s.modPool c f).freeStatus = s.freeStatus := rfl
@[simp] theorem State.modPool_heldReads (s : State) (c : Nat) (f : Pool → Pool) : (s.modPool c f).heldReads = s.heldReads := rfl
@[simp] theorem State.modPool_copies (s : State) (c : Nat) (f : Pool → Pool) : (s.modPool c f).copies = s.copies := rfl
@[simp] theorem State.modPool_nextCopy (s : State) (c : Nat) (f : Pool → Pool) : (s.modPool c f).nextCopy = s.nextCopy := rfl
@[simp] theorem State.modPool_mouldUser (s : State) (c : Nat) (f : Pool → Pool) : (s.modPool c f).mouldUser = s.mouldUser := rfl
@[simp] theorem State.modPool_mouldBufs (s : State) (c : Nat) (f : Pool → Pool) : (s.modPool c f).mouldBufs = s.mouldBufs := rfl
@[simp] theorem State.modPool_owners (s : State) (c : Nat) (f : Pool → Pool) : (s.modPool c f).owners = s.owners := rfl
@[simp] theorem State.modPool_checkChans (s : State) (c : Nat) (f : Pool → Pool) : (s.modPool c f).checkChans = s.checkChans := rfl
@[simp] theorem State.modPool_checkMismatch (s : State) (c : Nat) (f : Pool → Pool) : (s.modPool c f).checkMismatch = s.checkMismatch := rfl
@[simp] theorem State.modPool_replays (s : State) (c : Nat) (f : Pool → Pool) : (s.modPool c f).replays = s.replays := rfl
@[simp] theorem State.modPool_subs (s : State) (c : Nat) (f : Pool → Pool) : (s.modPool c f).subs = s.subs := rfl
@[simp] theorem State.modPool_queries (s : State) (c : Nat) (f : Pool → Pool) : (s.modPool c f).queries = s.queries := rfl
@[simp] theorem State.modPool_mctpEid (s : State) (c : Nat) (f : Pool → Pool) : (s.modPool c f).mctpEid = s.mctpEid := rfl
@[simp] theorem State.modPool_heldAap (s : State) (c : Nat) (f : Pool → Pool) : (s.modPool c f).heldAap = s.heldAap := rfl
@[simp] theorem State.modPool_stateSince (s : State) (c : Nat) (f : Pool → Pool) : (s.modPool c f).stateSince = s.stateSince := rfl
@[simp] theorem State.modPool_quietSince (s : State) (c : Nat) (f : Pool → Pool) : (s.modPool c f).quietSince = s.quietSince := rfl
@[simp] theorem State.modPool_feedB (s : State) (c : Nat) (f : Pool → Pool) : (s.modPool c f).feedB = s.feedB := rfl
@[simp] theorem State.modPool_feedTick (s : State) (c : Nat) (f : Pool → Pool) : (s.modPool c f).feedTick = s.feedTick := rfl
@[simp] theorem State.modPool_heldPages (s : State) (c : Nat) (f : Pool → Pool) : (s.modPool c f).heldPages = s.heldPages := rfl
@[simp] theorem State.modPool_doorLatch (s : State) (c : Nat) (f : Pool → Pool) : (s.modPool c f).doorLatch = s.doorLatch := rfl
@[simp] theorem State.modPool_timers (s : State) (c : Nat) (f : Pool → Pool) : (s.modPool c f).timers = s.timers := rfl
@[simp] theorem State.modPool_teleBase (s : State) (c : Nat) (f : Pool → Pool) : (s.modPool c f).teleBase = s.teleBase := rfl
@[simp] theorem State.modPool_saved (s : State) (c : Nat) (f : Pool → Pool) : (s.modPool c f).saved = s.saved := rfl
@[simp] theorem State.modPool_savedAt (s : State) (c : Nat) (f : Pool → Pool) : (s.modPool c f).savedAt = s.savedAt := rfl
@[simp] theorem State.modPool_plans (s : State) (c : Nat) (f : Pool → Pool) : (s.modPool c f).plans = s.plans := rfl
@[simp] theorem State.modPool_layerStates (s : State) (c : Nat) (f : Pool → Pool) : (s.modPool c f).layerStates = s.layerStates := rfl
@[simp] theorem State.modPool_planLoads (s : State) (c : Nat) (f : Pool → Pool) : (s.modPool c f).planLoads = s.planLoads := rfl
@[simp] theorem State.modPool_masks (s : State) (c : Nat) (f : Pool → Pool) : (s.modPool c f).masks = s.masks := rfl
@[simp] theorem State.modPool_disps (s : State) (c : Nat) (f : Pool → Pool) : (s.modPool c f).disps = s.disps := rfl
@[simp] theorem State.modPool_pourQueue (s : State) (c : Nat) (f : Pool → Pool) : (s.modPool c f).pourQueue = s.pourQueue := rfl
@[simp] theorem State.modPool_blocks (s : State) (c : Nat) (f : Pool → Pool) : (s.modPool c f).blocks = s.blocks := rfl
@[simp] theorem State.modPool_sharedPosts (s : State) (c : Nat) (f : Pool → Pool) : (s.modPool c f).sharedPosts = s.sharedPosts := rfl
@[simp] theorem State.modPool_queueSeq (s : State) (c : Nat) (f : Pool → Pool) : (s.modPool c f).queueSeq = s.queueSeq := rfl
@[simp] theorem State.modPool_peers (s : State) (c : Nat) (f : Pool → Pool) : (s.modPool c f).peers = s.peers := rfl
@[simp] theorem State.modPool_atomReqs (s : State) (c : Nat) (f : Pool → Pool) : (s.modPool c f).atomReqs = s.atomReqs := rfl
@[simp] theorem State.modPool_replyCache (s : State) (c : Nat) (f : Pool → Pool) : (s.modPool c f).replyCache = s.replyCache := rfl
@[simp] theorem State.modPool_xfers (s : State) (c : Nat) (f : Pool → Pool) : (s.modPool c f).xfers = s.xfers := rfl
@[simp] theorem State.modPool_versions (s : State) (c : Nat) (f : Pool → Pool) : (s.modPool c f).versions = s.versions := rfl
@[simp] theorem State.modPool_control (s : State) (c : Nat) (f : Pool → Pool) : (s.modPool c f).control = s.control := rfl
@[simp] theorem State.modPool_fetchHeld (s : State) (c : Nat) (f : Pool → Pool) : (s.modPool c f).fetchHeld = s.fetchHeld := rfl
@[simp] theorem State.modPool_ports (s : State) (c : Nat) (f : Pool → Pool) : (s.modPool c f).ports = s.ports := rfl
@[simp] theorem State.modPool_planBuckets (s : State) (c : Nat) (f : Pool → Pool) : (s.modPool c f).planBuckets = s.planBuckets := rfl
@[simp] theorem State.modPool_pathBuckets (s : State) (c : Nat) (f : Pool → Pool) : (s.modPool c f).pathBuckets = s.pathBuckets := rfl
@[simp] theorem State.modPool_firstUp (s : State) (c : Nat) (f : Pool → Pool) : (s.modPool c f).firstUp = s.firstUp := rfl
@[simp] theorem State.modPool_quiet (s : State) (c : Nat) (f : Pool → Pool) : (s.modPool c f).quiet = s.quiet := rfl
@[simp] theorem State.modPool_probesSent (s : State) (c : Nat) (f : Pool → Pool) : (s.modPool c f).probesSent = s.probesSent := rfl
@[simp] theorem State.modPool_surveyTick (s : State) (c : Nat) (f : Pool → Pool) : (s.modPool c f).surveyTick = s.surveyTick := rfl
@[simp] theorem State.modPool_flasks (s : State) (c : Nat) (f : Pool → Pool) : (s.modPool c f).flasks = s.flasks := rfl
@[simp] theorem State.modPool_heldFrames (s : State) (c : Nat) (f : Pool → Pool) : (s.modPool c f).heldFrames = s.heldFrames := rfl
@[simp] theorem State.modPool_pourUses (s : State) (c : Nat) (f : Pool → Pool) : (s.modPool c f).pourUses = s.pourUses := rfl
@[simp] theorem State.modPool_groupQueues (s : State) (c : Nat) (f : Pool → Pool) : (s.modPool c f).groupQueues = s.groupQueues := rfl
@[simp] theorem State.modPool_useNumbers (s : State) (c : Nat) (f : Pool → Pool) : (s.modPool c f).useNumbers = s.useNumbers := rfl
@[simp] theorem State.modPool_groups (s : State) (c : Nat) (f : Pool → Pool) : (s.modPool c f).groups = s.groups := rfl
@[simp] theorem State.modPool_balances (s : State) (c : Nat) (f : Pool → Pool) : (s.modPool c f).balances = s.balances := rfl
@[simp] theorem State.modPool_boundaries (s : State) (c : Nat) (f : Pool → Pool) : (s.modPool c f).boundaries = s.boundaries := rfl
@[simp] theorem State.modPool_pending (s : State) (c : Nat) (f : Pool → Pool) : (s.modPool c f).pending = s.pending := rfl

/-! ## modBuf -/

@[simp] theorem State.modBuf_variant (s : State) (c i : Nat) (f : Buf → Buf) : (s.modBuf c i f).variant = s.variant := rfl
@[simp] theorem State.modBuf_chipId (s : State) (c i : Nat) (f : Buf → Buf) : (s.modBuf c i f).chipId = s.chipId := rfl
@[simp] theorem State.modBuf_mctpPen (s : State) (c i : Nat) (f : Buf → Buf) : (s.modBuf c i f).mctpPen = s.mctpPen := rfl
@[simp] theorem State.modBuf_pageBase (s : State) (c i : Nat) (f : Buf → Buf) : (s.modBuf c i f).pageBase = s.pageBase := rfl
@[simp] theorem State.modBuf_mainReq (s : State) (c i : Nat) (f : Buf → Buf) : (s.modBuf c i f).mainReq = s.mainReq := rfl
@[simp] theorem State.modBuf_mainGood (s : State) (c i : Nat) (f : Buf → Buf) : (s.modBuf c i f).mainGood = s.mainGood := rfl
@[simp] theorem State.modBuf_coldReleased (s : State) (c i : Nat) (f : Buf → Buf) : (s.modBuf c i f).coldReleased = s.coldReleased := rfl
@[simp] theorem State.modBuf_bootTick (s : State) (c i : Nat) (f : Buf → Buf) : (s.modBuf c i f).bootTick = s.bootTick := rfl
@[simp] theorem State.modBuf_clockMhz (s : State) (c i : Nat) (f : Buf → Buf) : (s.modBuf c i f).clockMhz = s.clockMhz := rfl
@[simp] theorem State.modBuf_krdInt (s : State) (c i : Nat) (f : Buf → Buf) : (s.modBuf c i f).krdInt = s.krdInt := rfl
@[simp] theorem State.modBuf_tick (s : State) (c i : Nat) (f : Buf → Buf) : (s.modBuf c i f).tick = s.tick := rfl
@[simp] theorem State.modBuf_objs (s : State) (c i : Nat) (f : Buf → Buf) : (s.modBuf c i f).objs = s.objs := rfl
@[simp] theorem State.modBuf_free (s : State) (c i : Nat) (f : Buf → Buf) : (s.modBuf c i f).free = s.free := rfl
@[simp] theorem State.modBuf_mem (s : State) (c i : Nat) (f : Buf → Buf) : (s.modBuf c i f).mem = s.mem := rfl
@[simp] theorem State.modBuf_memStatus (s : State) (c i : Nat) (f : Buf → Buf) : (s.modBuf c i f).memStatus = s.memStatus := rfl
@[simp] theorem State.modBuf_out (s : State) (c i : Nat) (f : Buf → Buf) : (s.modBuf c i f).out = s.out := rfl
@[simp] theorem State.modBuf_gate (s : State) (c i : Nat) (f : Buf → Buf) : (s.modBuf c i f).gate = s.gate := rfl
@[simp] theorem State.modBuf_landing (s : State) (c i : Nat) (f : Buf → Buf) : (s.modBuf c i f).landing = s.landing := rfl
@[simp] theorem State.modBuf_planCache (s : State) (c i : Nat) (f : Buf → Buf) : (s.modBuf c i f).planCache = s.planCache := rfl
@[simp] theorem State.modBuf_scratch (s : State) (c i : Nat) (f : Buf → Buf) : (s.modBuf c i f).scratch = s.scratch := rfl
@[simp] theorem State.modBuf_checks (s : State) (c i : Nat) (f : Buf → Buf) : (s.modBuf c i f).checks = s.checks := rfl
@[simp] theorem State.modBuf_units (s : State) (c i : Nat) (f : Buf → Buf) : (s.modBuf c i f).units = s.units := rfl
@[simp] theorem State.modBuf_promo (s : State) (c i : Nat) (f : Buf → Buf) : (s.modBuf c i f).promo = s.promo := rfl
@[simp] theorem State.modBuf_summary (s : State) (c i : Nat) (f : Buf → Buf) : (s.modBuf c i f).summary = s.summary := rfl
@[simp] theorem State.modBuf_inject (s : State) (c i : Nat) (f : Buf → Buf) : (s.modBuf c i f).inject = s.inject := rfl
@[simp] theorem State.modBuf_stopDeadline (s : State) (c i : Nat) (f : Buf → Buf) : (s.modBuf c i f).stopDeadline = s.stopDeadline := rfl
@[simp] theorem State.modBuf_rings (s : State) (c i : Nat) (f : Buf → Buf) : (s.modBuf c i f).rings = s.rings := rfl
@[simp] theorem State.modBuf_cmds (s : State) (c i : Nat) (f : Buf → Buf) : (s.modBuf c i f).cmds = s.cmds := rfl
@[simp] theorem State.modBuf_nextUid (s : State) (c i : Nat) (f : Buf → Buf) : (s.modBuf c i f).nextUid = s.nextUid := rfl
@[simp] theorem State.modBuf_ctxs (s : State) (c i : Nat) (f : Buf → Buf) : (s.modBuf c i f).ctxs = s.ctxs := rfl
@[simp] theorem State.modBuf_excs (s : State) (c i : Nat) (f : Buf → Buf) : (s.modBuf c i f).excs = s.excs := rfl
@[simp] theorem State.modBuf_patterns (s : State) (c i : Nat) (f : Buf → Buf) : (s.modBuf c i f).patterns = s.patterns := rfl
@[simp] theorem State.modBuf_patLoads (s : State) (c i : Nat) (f : Buf → Buf) : (s.modBuf c i f).patLoads = s.patLoads := rfl
@[simp] theorem State.modBuf_tallies (s : State) (c i : Nat) (f : Buf → Buf) : (s.modBuf c i f).tallies = s.tallies := rfl
@[simp] theorem State.modBuf_tallyBad (s : State) (c i : Nat) (f : Buf → Buf) : (s.modBuf c i f).tallyBad = s.tallyBad := rfl
@[simp] theorem State.modBuf_tallyFlip (s : State) (c i : Nat) (f : Buf → Buf) : (s.modBuf c i f).tallyFlip = s.tallyFlip := rfl
@[simp] theorem State.modBuf_watchTable (s : State) (c i : Nat) (f : Buf → Buf) : (s.modBuf c i f).watchTable = s.watchTable := rfl
@[simp] theorem State.modBuf_pollList (s : State) (c i : Nat) (f : Buf → Buf) : (s.modBuf c i f).pollList = s.pollList := rfl
@[simp] theorem State.modBuf_pageWatch (s : State) (c i : Nat) (f : Buf → Buf) : (s.modBuf c i f).pageWatch = s.pageWatch := rfl
@[simp] theorem State.modBuf_pools (s : State) (c i : Nat) (f : Buf → Buf) : (s.modBuf c i f).pools = s.pools := rfl
@[simp] theorem State.modBuf_bufs (s : State) (c i : Nat) (f : Buf → Buf) : (s.modBuf c i f).bufs = Tab.set {} s.bufs (bufKey c i) (f (s.buf c i)) := rfl
@[simp] theorem State.modBuf_withdrawnList (s : State) (c i : Nat) (f : Buf → Buf) : (s.modBuf c i f).withdrawnList = s.withdrawnList := rfl
@[simp] theorem State.modBuf_freeStatus (s : State) (c i : Nat) (f : Buf → Buf) : (s.modBuf c i f).freeStatus = s.freeStatus := rfl
@[simp] theorem State.modBuf_heldReads (s : State) (c i : Nat) (f : Buf → Buf) : (s.modBuf c i f).heldReads = s.heldReads := rfl
@[simp] theorem State.modBuf_copies (s : State) (c i : Nat) (f : Buf → Buf) : (s.modBuf c i f).copies = s.copies := rfl
@[simp] theorem State.modBuf_nextCopy (s : State) (c i : Nat) (f : Buf → Buf) : (s.modBuf c i f).nextCopy = s.nextCopy := rfl
@[simp] theorem State.modBuf_mouldUser (s : State) (c i : Nat) (f : Buf → Buf) : (s.modBuf c i f).mouldUser = s.mouldUser := rfl
@[simp] theorem State.modBuf_mouldBufs (s : State) (c i : Nat) (f : Buf → Buf) : (s.modBuf c i f).mouldBufs = s.mouldBufs := rfl
@[simp] theorem State.modBuf_owners (s : State) (c i : Nat) (f : Buf → Buf) : (s.modBuf c i f).owners = s.owners := rfl
@[simp] theorem State.modBuf_checkChans (s : State) (c i : Nat) (f : Buf → Buf) : (s.modBuf c i f).checkChans = s.checkChans := rfl
@[simp] theorem State.modBuf_checkMismatch (s : State) (c i : Nat) (f : Buf → Buf) : (s.modBuf c i f).checkMismatch = s.checkMismatch := rfl
@[simp] theorem State.modBuf_replays (s : State) (c i : Nat) (f : Buf → Buf) : (s.modBuf c i f).replays = s.replays := rfl
@[simp] theorem State.modBuf_subs (s : State) (c i : Nat) (f : Buf → Buf) : (s.modBuf c i f).subs = s.subs := rfl
@[simp] theorem State.modBuf_queries (s : State) (c i : Nat) (f : Buf → Buf) : (s.modBuf c i f).queries = s.queries := rfl
@[simp] theorem State.modBuf_mctpEid (s : State) (c i : Nat) (f : Buf → Buf) : (s.modBuf c i f).mctpEid = s.mctpEid := rfl
@[simp] theorem State.modBuf_heldAap (s : State) (c i : Nat) (f : Buf → Buf) : (s.modBuf c i f).heldAap = s.heldAap := rfl
@[simp] theorem State.modBuf_stateSince (s : State) (c i : Nat) (f : Buf → Buf) : (s.modBuf c i f).stateSince = s.stateSince := rfl
@[simp] theorem State.modBuf_quietSince (s : State) (c i : Nat) (f : Buf → Buf) : (s.modBuf c i f).quietSince = s.quietSince := rfl
@[simp] theorem State.modBuf_feedB (s : State) (c i : Nat) (f : Buf → Buf) : (s.modBuf c i f).feedB = s.feedB := rfl
@[simp] theorem State.modBuf_feedTick (s : State) (c i : Nat) (f : Buf → Buf) : (s.modBuf c i f).feedTick = s.feedTick := rfl
@[simp] theorem State.modBuf_heldPages (s : State) (c i : Nat) (f : Buf → Buf) : (s.modBuf c i f).heldPages = s.heldPages := rfl
@[simp] theorem State.modBuf_doorLatch (s : State) (c i : Nat) (f : Buf → Buf) : (s.modBuf c i f).doorLatch = s.doorLatch := rfl
@[simp] theorem State.modBuf_timers (s : State) (c i : Nat) (f : Buf → Buf) : (s.modBuf c i f).timers = s.timers := rfl
@[simp] theorem State.modBuf_teleBase (s : State) (c i : Nat) (f : Buf → Buf) : (s.modBuf c i f).teleBase = s.teleBase := rfl
@[simp] theorem State.modBuf_saved (s : State) (c i : Nat) (f : Buf → Buf) : (s.modBuf c i f).saved = s.saved := rfl
@[simp] theorem State.modBuf_savedAt (s : State) (c i : Nat) (f : Buf → Buf) : (s.modBuf c i f).savedAt = s.savedAt := rfl
@[simp] theorem State.modBuf_plans (s : State) (c i : Nat) (f : Buf → Buf) : (s.modBuf c i f).plans = s.plans := rfl
@[simp] theorem State.modBuf_layerStates (s : State) (c i : Nat) (f : Buf → Buf) : (s.modBuf c i f).layerStates = s.layerStates := rfl
@[simp] theorem State.modBuf_planLoads (s : State) (c i : Nat) (f : Buf → Buf) : (s.modBuf c i f).planLoads = s.planLoads := rfl
@[simp] theorem State.modBuf_masks (s : State) (c i : Nat) (f : Buf → Buf) : (s.modBuf c i f).masks = s.masks := rfl
@[simp] theorem State.modBuf_disps (s : State) (c i : Nat) (f : Buf → Buf) : (s.modBuf c i f).disps = s.disps := rfl
@[simp] theorem State.modBuf_pourQueue (s : State) (c i : Nat) (f : Buf → Buf) : (s.modBuf c i f).pourQueue = s.pourQueue := rfl
@[simp] theorem State.modBuf_blocks (s : State) (c i : Nat) (f : Buf → Buf) : (s.modBuf c i f).blocks = s.blocks := rfl
@[simp] theorem State.modBuf_sharedPosts (s : State) (c i : Nat) (f : Buf → Buf) : (s.modBuf c i f).sharedPosts = s.sharedPosts := rfl
@[simp] theorem State.modBuf_queueSeq (s : State) (c i : Nat) (f : Buf → Buf) : (s.modBuf c i f).queueSeq = s.queueSeq := rfl
@[simp] theorem State.modBuf_peers (s : State) (c i : Nat) (f : Buf → Buf) : (s.modBuf c i f).peers = s.peers := rfl
@[simp] theorem State.modBuf_atomReqs (s : State) (c i : Nat) (f : Buf → Buf) : (s.modBuf c i f).atomReqs = s.atomReqs := rfl
@[simp] theorem State.modBuf_replyCache (s : State) (c i : Nat) (f : Buf → Buf) : (s.modBuf c i f).replyCache = s.replyCache := rfl
@[simp] theorem State.modBuf_xfers (s : State) (c i : Nat) (f : Buf → Buf) : (s.modBuf c i f).xfers = s.xfers := rfl
@[simp] theorem State.modBuf_versions (s : State) (c i : Nat) (f : Buf → Buf) : (s.modBuf c i f).versions = s.versions := rfl
@[simp] theorem State.modBuf_control (s : State) (c i : Nat) (f : Buf → Buf) : (s.modBuf c i f).control = s.control := rfl
@[simp] theorem State.modBuf_fetchHeld (s : State) (c i : Nat) (f : Buf → Buf) : (s.modBuf c i f).fetchHeld = s.fetchHeld := rfl
@[simp] theorem State.modBuf_ports (s : State) (c i : Nat) (f : Buf → Buf) : (s.modBuf c i f).ports = s.ports := rfl
@[simp] theorem State.modBuf_planBuckets (s : State) (c i : Nat) (f : Buf → Buf) : (s.modBuf c i f).planBuckets = s.planBuckets := rfl
@[simp] theorem State.modBuf_pathBuckets (s : State) (c i : Nat) (f : Buf → Buf) : (s.modBuf c i f).pathBuckets = s.pathBuckets := rfl
@[simp] theorem State.modBuf_firstUp (s : State) (c i : Nat) (f : Buf → Buf) : (s.modBuf c i f).firstUp = s.firstUp := rfl
@[simp] theorem State.modBuf_quiet (s : State) (c i : Nat) (f : Buf → Buf) : (s.modBuf c i f).quiet = s.quiet := rfl
@[simp] theorem State.modBuf_probesSent (s : State) (c i : Nat) (f : Buf → Buf) : (s.modBuf c i f).probesSent = s.probesSent := rfl
@[simp] theorem State.modBuf_surveyTick (s : State) (c i : Nat) (f : Buf → Buf) : (s.modBuf c i f).surveyTick = s.surveyTick := rfl
@[simp] theorem State.modBuf_flasks (s : State) (c i : Nat) (f : Buf → Buf) : (s.modBuf c i f).flasks = s.flasks := rfl
@[simp] theorem State.modBuf_heldFrames (s : State) (c i : Nat) (f : Buf → Buf) : (s.modBuf c i f).heldFrames = s.heldFrames := rfl
@[simp] theorem State.modBuf_pourUses (s : State) (c i : Nat) (f : Buf → Buf) : (s.modBuf c i f).pourUses = s.pourUses := rfl
@[simp] theorem State.modBuf_groupQueues (s : State) (c i : Nat) (f : Buf → Buf) : (s.modBuf c i f).groupQueues = s.groupQueues := rfl
@[simp] theorem State.modBuf_useNumbers (s : State) (c i : Nat) (f : Buf → Buf) : (s.modBuf c i f).useNumbers = s.useNumbers := rfl
@[simp] theorem State.modBuf_groups (s : State) (c i : Nat) (f : Buf → Buf) : (s.modBuf c i f).groups = s.groups := rfl
@[simp] theorem State.modBuf_balances (s : State) (c i : Nat) (f : Buf → Buf) : (s.modBuf c i f).balances = s.balances := rfl
@[simp] theorem State.modBuf_boundaries (s : State) (c i : Nat) (f : Buf → Buf) : (s.modBuf c i f).boundaries = s.boundaries := rfl
@[simp] theorem State.modBuf_pending (s : State) (c i : Nat) (f : Buf → Buf) : (s.modBuf c i f).pending = s.pending := rfl

/-! ## modFlask -/

@[simp] theorem State.modFlask_variant (s : State) (k : Nat) (f : Flask → Flask) : (s.modFlask k f).variant = s.variant := rfl
@[simp] theorem State.modFlask_chipId (s : State) (k : Nat) (f : Flask → Flask) : (s.modFlask k f).chipId = s.chipId := rfl
@[simp] theorem State.modFlask_mctpPen (s : State) (k : Nat) (f : Flask → Flask) : (s.modFlask k f).mctpPen = s.mctpPen := rfl
@[simp] theorem State.modFlask_pageBase (s : State) (k : Nat) (f : Flask → Flask) : (s.modFlask k f).pageBase = s.pageBase := rfl
@[simp] theorem State.modFlask_mainReq (s : State) (k : Nat) (f : Flask → Flask) : (s.modFlask k f).mainReq = s.mainReq := rfl
@[simp] theorem State.modFlask_mainGood (s : State) (k : Nat) (f : Flask → Flask) : (s.modFlask k f).mainGood = s.mainGood := rfl
@[simp] theorem State.modFlask_coldReleased (s : State) (k : Nat) (f : Flask → Flask) : (s.modFlask k f).coldReleased = s.coldReleased := rfl
@[simp] theorem State.modFlask_bootTick (s : State) (k : Nat) (f : Flask → Flask) : (s.modFlask k f).bootTick = s.bootTick := rfl
@[simp] theorem State.modFlask_clockMhz (s : State) (k : Nat) (f : Flask → Flask) : (s.modFlask k f).clockMhz = s.clockMhz := rfl
@[simp] theorem State.modFlask_krdInt (s : State) (k : Nat) (f : Flask → Flask) : (s.modFlask k f).krdInt = s.krdInt := rfl
@[simp] theorem State.modFlask_tick (s : State) (k : Nat) (f : Flask → Flask) : (s.modFlask k f).tick = s.tick := rfl
@[simp] theorem State.modFlask_objs (s : State) (k : Nat) (f : Flask → Flask) : (s.modFlask k f).objs = s.objs := rfl
@[simp] theorem State.modFlask_free (s : State) (k : Nat) (f : Flask → Flask) : (s.modFlask k f).free = s.free := rfl
@[simp] theorem State.modFlask_mem (s : State) (k : Nat) (f : Flask → Flask) : (s.modFlask k f).mem = s.mem := rfl
@[simp] theorem State.modFlask_memStatus (s : State) (k : Nat) (f : Flask → Flask) : (s.modFlask k f).memStatus = s.memStatus := rfl
@[simp] theorem State.modFlask_out (s : State) (k : Nat) (f : Flask → Flask) : (s.modFlask k f).out = s.out := rfl
@[simp] theorem State.modFlask_gate (s : State) (k : Nat) (f : Flask → Flask) : (s.modFlask k f).gate = s.gate := rfl
@[simp] theorem State.modFlask_landing (s : State) (k : Nat) (f : Flask → Flask) : (s.modFlask k f).landing = s.landing := rfl
@[simp] theorem State.modFlask_planCache (s : State) (k : Nat) (f : Flask → Flask) : (s.modFlask k f).planCache = s.planCache := rfl
@[simp] theorem State.modFlask_scratch (s : State) (k : Nat) (f : Flask → Flask) : (s.modFlask k f).scratch = s.scratch := rfl
@[simp] theorem State.modFlask_checks (s : State) (k : Nat) (f : Flask → Flask) : (s.modFlask k f).checks = s.checks := rfl
@[simp] theorem State.modFlask_units (s : State) (k : Nat) (f : Flask → Flask) : (s.modFlask k f).units = s.units := rfl
@[simp] theorem State.modFlask_promo (s : State) (k : Nat) (f : Flask → Flask) : (s.modFlask k f).promo = s.promo := rfl
@[simp] theorem State.modFlask_summary (s : State) (k : Nat) (f : Flask → Flask) : (s.modFlask k f).summary = s.summary := rfl
@[simp] theorem State.modFlask_inject (s : State) (k : Nat) (f : Flask → Flask) : (s.modFlask k f).inject = s.inject := rfl
@[simp] theorem State.modFlask_stopDeadline (s : State) (k : Nat) (f : Flask → Flask) : (s.modFlask k f).stopDeadline = s.stopDeadline := rfl
@[simp] theorem State.modFlask_rings (s : State) (k : Nat) (f : Flask → Flask) : (s.modFlask k f).rings = s.rings := rfl
@[simp] theorem State.modFlask_cmds (s : State) (k : Nat) (f : Flask → Flask) : (s.modFlask k f).cmds = s.cmds := rfl
@[simp] theorem State.modFlask_nextUid (s : State) (k : Nat) (f : Flask → Flask) : (s.modFlask k f).nextUid = s.nextUid := rfl
@[simp] theorem State.modFlask_ctxs (s : State) (k : Nat) (f : Flask → Flask) : (s.modFlask k f).ctxs = s.ctxs := rfl
@[simp] theorem State.modFlask_excs (s : State) (k : Nat) (f : Flask → Flask) : (s.modFlask k f).excs = s.excs := rfl
@[simp] theorem State.modFlask_patterns (s : State) (k : Nat) (f : Flask → Flask) : (s.modFlask k f).patterns = s.patterns := rfl
@[simp] theorem State.modFlask_patLoads (s : State) (k : Nat) (f : Flask → Flask) : (s.modFlask k f).patLoads = s.patLoads := rfl
@[simp] theorem State.modFlask_tallies (s : State) (k : Nat) (f : Flask → Flask) : (s.modFlask k f).tallies = s.tallies := rfl
@[simp] theorem State.modFlask_tallyBad (s : State) (k : Nat) (f : Flask → Flask) : (s.modFlask k f).tallyBad = s.tallyBad := rfl
@[simp] theorem State.modFlask_tallyFlip (s : State) (k : Nat) (f : Flask → Flask) : (s.modFlask k f).tallyFlip = s.tallyFlip := rfl
@[simp] theorem State.modFlask_watchTable (s : State) (k : Nat) (f : Flask → Flask) : (s.modFlask k f).watchTable = s.watchTable := rfl
@[simp] theorem State.modFlask_pollList (s : State) (k : Nat) (f : Flask → Flask) : (s.modFlask k f).pollList = s.pollList := rfl
@[simp] theorem State.modFlask_pageWatch (s : State) (k : Nat) (f : Flask → Flask) : (s.modFlask k f).pageWatch = s.pageWatch := rfl
@[simp] theorem State.modFlask_pools (s : State) (k : Nat) (f : Flask → Flask) : (s.modFlask k f).pools = s.pools := rfl
@[simp] theorem State.modFlask_bufs (s : State) (k : Nat) (f : Flask → Flask) : (s.modFlask k f).bufs = s.bufs := rfl
@[simp] theorem State.modFlask_withdrawnList (s : State) (k : Nat) (f : Flask → Flask) : (s.modFlask k f).withdrawnList = s.withdrawnList := rfl
@[simp] theorem State.modFlask_freeStatus (s : State) (k : Nat) (f : Flask → Flask) : (s.modFlask k f).freeStatus = s.freeStatus := rfl
@[simp] theorem State.modFlask_heldReads (s : State) (k : Nat) (f : Flask → Flask) : (s.modFlask k f).heldReads = s.heldReads := rfl
@[simp] theorem State.modFlask_copies (s : State) (k : Nat) (f : Flask → Flask) : (s.modFlask k f).copies = s.copies := rfl
@[simp] theorem State.modFlask_nextCopy (s : State) (k : Nat) (f : Flask → Flask) : (s.modFlask k f).nextCopy = s.nextCopy := rfl
@[simp] theorem State.modFlask_mouldUser (s : State) (k : Nat) (f : Flask → Flask) : (s.modFlask k f).mouldUser = s.mouldUser := rfl
@[simp] theorem State.modFlask_mouldBufs (s : State) (k : Nat) (f : Flask → Flask) : (s.modFlask k f).mouldBufs = s.mouldBufs := rfl
@[simp] theorem State.modFlask_owners (s : State) (k : Nat) (f : Flask → Flask) : (s.modFlask k f).owners = s.owners := rfl
@[simp] theorem State.modFlask_checkChans (s : State) (k : Nat) (f : Flask → Flask) : (s.modFlask k f).checkChans = s.checkChans := rfl
@[simp] theorem State.modFlask_checkMismatch (s : State) (k : Nat) (f : Flask → Flask) : (s.modFlask k f).checkMismatch = s.checkMismatch := rfl
@[simp] theorem State.modFlask_replays (s : State) (k : Nat) (f : Flask → Flask) : (s.modFlask k f).replays = s.replays := rfl
@[simp] theorem State.modFlask_subs (s : State) (k : Nat) (f : Flask → Flask) : (s.modFlask k f).subs = s.subs := rfl
@[simp] theorem State.modFlask_queries (s : State) (k : Nat) (f : Flask → Flask) : (s.modFlask k f).queries = s.queries := rfl
@[simp] theorem State.modFlask_mctpEid (s : State) (k : Nat) (f : Flask → Flask) : (s.modFlask k f).mctpEid = s.mctpEid := rfl
@[simp] theorem State.modFlask_heldAap (s : State) (k : Nat) (f : Flask → Flask) : (s.modFlask k f).heldAap = s.heldAap := rfl
@[simp] theorem State.modFlask_stateSince (s : State) (k : Nat) (f : Flask → Flask) : (s.modFlask k f).stateSince = s.stateSince := rfl
@[simp] theorem State.modFlask_quietSince (s : State) (k : Nat) (f : Flask → Flask) : (s.modFlask k f).quietSince = s.quietSince := rfl
@[simp] theorem State.modFlask_feedB (s : State) (k : Nat) (f : Flask → Flask) : (s.modFlask k f).feedB = s.feedB := rfl
@[simp] theorem State.modFlask_feedTick (s : State) (k : Nat) (f : Flask → Flask) : (s.modFlask k f).feedTick = s.feedTick := rfl
@[simp] theorem State.modFlask_heldPages (s : State) (k : Nat) (f : Flask → Flask) : (s.modFlask k f).heldPages = s.heldPages := rfl
@[simp] theorem State.modFlask_doorLatch (s : State) (k : Nat) (f : Flask → Flask) : (s.modFlask k f).doorLatch = s.doorLatch := rfl
@[simp] theorem State.modFlask_timers (s : State) (k : Nat) (f : Flask → Flask) : (s.modFlask k f).timers = s.timers := rfl
@[simp] theorem State.modFlask_teleBase (s : State) (k : Nat) (f : Flask → Flask) : (s.modFlask k f).teleBase = s.teleBase := rfl
@[simp] theorem State.modFlask_saved (s : State) (k : Nat) (f : Flask → Flask) : (s.modFlask k f).saved = s.saved := rfl
@[simp] theorem State.modFlask_savedAt (s : State) (k : Nat) (f : Flask → Flask) : (s.modFlask k f).savedAt = s.savedAt := rfl
@[simp] theorem State.modFlask_plans (s : State) (k : Nat) (f : Flask → Flask) : (s.modFlask k f).plans = s.plans := rfl
@[simp] theorem State.modFlask_layerStates (s : State) (k : Nat) (f : Flask → Flask) : (s.modFlask k f).layerStates = s.layerStates := rfl
@[simp] theorem State.modFlask_planLoads (s : State) (k : Nat) (f : Flask → Flask) : (s.modFlask k f).planLoads = s.planLoads := rfl
@[simp] theorem State.modFlask_masks (s : State) (k : Nat) (f : Flask → Flask) : (s.modFlask k f).masks = s.masks := rfl
@[simp] theorem State.modFlask_disps (s : State) (k : Nat) (f : Flask → Flask) : (s.modFlask k f).disps = s.disps := rfl
@[simp] theorem State.modFlask_pourQueue (s : State) (k : Nat) (f : Flask → Flask) : (s.modFlask k f).pourQueue = s.pourQueue := rfl
@[simp] theorem State.modFlask_blocks (s : State) (k : Nat) (f : Flask → Flask) : (s.modFlask k f).blocks = s.blocks := rfl
@[simp] theorem State.modFlask_sharedPosts (s : State) (k : Nat) (f : Flask → Flask) : (s.modFlask k f).sharedPosts = s.sharedPosts := rfl
@[simp] theorem State.modFlask_queueSeq (s : State) (k : Nat) (f : Flask → Flask) : (s.modFlask k f).queueSeq = s.queueSeq := rfl
@[simp] theorem State.modFlask_peers (s : State) (k : Nat) (f : Flask → Flask) : (s.modFlask k f).peers = s.peers := rfl
@[simp] theorem State.modFlask_atomReqs (s : State) (k : Nat) (f : Flask → Flask) : (s.modFlask k f).atomReqs = s.atomReqs := rfl
@[simp] theorem State.modFlask_replyCache (s : State) (k : Nat) (f : Flask → Flask) : (s.modFlask k f).replyCache = s.replyCache := rfl
@[simp] theorem State.modFlask_xfers (s : State) (k : Nat) (f : Flask → Flask) : (s.modFlask k f).xfers = s.xfers := rfl
@[simp] theorem State.modFlask_versions (s : State) (k : Nat) (f : Flask → Flask) : (s.modFlask k f).versions = s.versions := rfl
@[simp] theorem State.modFlask_control (s : State) (k : Nat) (f : Flask → Flask) : (s.modFlask k f).control = s.control := rfl
@[simp] theorem State.modFlask_fetchHeld (s : State) (k : Nat) (f : Flask → Flask) : (s.modFlask k f).fetchHeld = s.fetchHeld := rfl
@[simp] theorem State.modFlask_ports (s : State) (k : Nat) (f : Flask → Flask) : (s.modFlask k f).ports = s.ports := rfl
@[simp] theorem State.modFlask_planBuckets (s : State) (k : Nat) (f : Flask → Flask) : (s.modFlask k f).planBuckets = s.planBuckets := rfl
@[simp] theorem State.modFlask_pathBuckets (s : State) (k : Nat) (f : Flask → Flask) : (s.modFlask k f).pathBuckets = s.pathBuckets := rfl
@[simp] theorem State.modFlask_firstUp (s : State) (k : Nat) (f : Flask → Flask) : (s.modFlask k f).firstUp = s.firstUp := rfl
@[simp] theorem State.modFlask_quiet (s : State) (k : Nat) (f : Flask → Flask) : (s.modFlask k f).quiet = s.quiet := rfl
@[simp] theorem State.modFlask_probesSent (s : State) (k : Nat) (f : Flask → Flask) : (s.modFlask k f).probesSent = s.probesSent := rfl
@[simp] theorem State.modFlask_surveyTick (s : State) (k : Nat) (f : Flask → Flask) : (s.modFlask k f).surveyTick = s.surveyTick := rfl
@[simp] theorem State.modFlask_flasks (s : State) (k : Nat) (f : Flask → Flask) : (s.modFlask k f).flasks = Tab.set {} s.flasks k (f (s.flask k)) := rfl
@[simp] theorem State.modFlask_heldFrames (s : State) (k : Nat) (f : Flask → Flask) : (s.modFlask k f).heldFrames = s.heldFrames := rfl
@[simp] theorem State.modFlask_pourUses (s : State) (k : Nat) (f : Flask → Flask) : (s.modFlask k f).pourUses = s.pourUses := rfl
@[simp] theorem State.modFlask_groupQueues (s : State) (k : Nat) (f : Flask → Flask) : (s.modFlask k f).groupQueues = s.groupQueues := rfl
@[simp] theorem State.modFlask_useNumbers (s : State) (k : Nat) (f : Flask → Flask) : (s.modFlask k f).useNumbers = s.useNumbers := rfl
@[simp] theorem State.modFlask_groups (s : State) (k : Nat) (f : Flask → Flask) : (s.modFlask k f).groups = s.groups := rfl
@[simp] theorem State.modFlask_balances (s : State) (k : Nat) (f : Flask → Flask) : (s.modFlask k f).balances = s.balances := rfl
@[simp] theorem State.modFlask_boundaries (s : State) (k : Nat) (f : Flask → Flask) : (s.modFlask k f).boundaries = s.boundaries := rfl
@[simp] theorem State.modFlask_pending (s : State) (k : Nat) (f : Flask → Flask) : (s.modFlask k f).pending = s.pending := rfl

/-! ## modPeer -/

@[simp] theorem State.modPeer_variant (s : State) (n : Nat) (f : Peer → Peer) : (s.modPeer n f).variant = s.variant := rfl
@[simp] theorem State.modPeer_chipId (s : State) (n : Nat) (f : Peer → Peer) : (s.modPeer n f).chipId = s.chipId := rfl
@[simp] theorem State.modPeer_mctpPen (s : State) (n : Nat) (f : Peer → Peer) : (s.modPeer n f).mctpPen = s.mctpPen := rfl
@[simp] theorem State.modPeer_pageBase (s : State) (n : Nat) (f : Peer → Peer) : (s.modPeer n f).pageBase = s.pageBase := rfl
@[simp] theorem State.modPeer_mainReq (s : State) (n : Nat) (f : Peer → Peer) : (s.modPeer n f).mainReq = s.mainReq := rfl
@[simp] theorem State.modPeer_mainGood (s : State) (n : Nat) (f : Peer → Peer) : (s.modPeer n f).mainGood = s.mainGood := rfl
@[simp] theorem State.modPeer_coldReleased (s : State) (n : Nat) (f : Peer → Peer) : (s.modPeer n f).coldReleased = s.coldReleased := rfl
@[simp] theorem State.modPeer_bootTick (s : State) (n : Nat) (f : Peer → Peer) : (s.modPeer n f).bootTick = s.bootTick := rfl
@[simp] theorem State.modPeer_clockMhz (s : State) (n : Nat) (f : Peer → Peer) : (s.modPeer n f).clockMhz = s.clockMhz := rfl
@[simp] theorem State.modPeer_krdInt (s : State) (n : Nat) (f : Peer → Peer) : (s.modPeer n f).krdInt = s.krdInt := rfl
@[simp] theorem State.modPeer_tick (s : State) (n : Nat) (f : Peer → Peer) : (s.modPeer n f).tick = s.tick := rfl
@[simp] theorem State.modPeer_objs (s : State) (n : Nat) (f : Peer → Peer) : (s.modPeer n f).objs = s.objs := rfl
@[simp] theorem State.modPeer_free (s : State) (n : Nat) (f : Peer → Peer) : (s.modPeer n f).free = s.free := rfl
@[simp] theorem State.modPeer_mem (s : State) (n : Nat) (f : Peer → Peer) : (s.modPeer n f).mem = s.mem := rfl
@[simp] theorem State.modPeer_memStatus (s : State) (n : Nat) (f : Peer → Peer) : (s.modPeer n f).memStatus = s.memStatus := rfl
@[simp] theorem State.modPeer_out (s : State) (n : Nat) (f : Peer → Peer) : (s.modPeer n f).out = s.out := rfl
@[simp] theorem State.modPeer_gate (s : State) (n : Nat) (f : Peer → Peer) : (s.modPeer n f).gate = s.gate := rfl
@[simp] theorem State.modPeer_landing (s : State) (n : Nat) (f : Peer → Peer) : (s.modPeer n f).landing = s.landing := rfl
@[simp] theorem State.modPeer_planCache (s : State) (n : Nat) (f : Peer → Peer) : (s.modPeer n f).planCache = s.planCache := rfl
@[simp] theorem State.modPeer_scratch (s : State) (n : Nat) (f : Peer → Peer) : (s.modPeer n f).scratch = s.scratch := rfl
@[simp] theorem State.modPeer_checks (s : State) (n : Nat) (f : Peer → Peer) : (s.modPeer n f).checks = s.checks := rfl
@[simp] theorem State.modPeer_units (s : State) (n : Nat) (f : Peer → Peer) : (s.modPeer n f).units = s.units := rfl
@[simp] theorem State.modPeer_promo (s : State) (n : Nat) (f : Peer → Peer) : (s.modPeer n f).promo = s.promo := rfl
@[simp] theorem State.modPeer_summary (s : State) (n : Nat) (f : Peer → Peer) : (s.modPeer n f).summary = s.summary := rfl
@[simp] theorem State.modPeer_inject (s : State) (n : Nat) (f : Peer → Peer) : (s.modPeer n f).inject = s.inject := rfl
@[simp] theorem State.modPeer_stopDeadline (s : State) (n : Nat) (f : Peer → Peer) : (s.modPeer n f).stopDeadline = s.stopDeadline := rfl
@[simp] theorem State.modPeer_rings (s : State) (n : Nat) (f : Peer → Peer) : (s.modPeer n f).rings = s.rings := rfl
@[simp] theorem State.modPeer_cmds (s : State) (n : Nat) (f : Peer → Peer) : (s.modPeer n f).cmds = s.cmds := rfl
@[simp] theorem State.modPeer_nextUid (s : State) (n : Nat) (f : Peer → Peer) : (s.modPeer n f).nextUid = s.nextUid := rfl
@[simp] theorem State.modPeer_ctxs (s : State) (n : Nat) (f : Peer → Peer) : (s.modPeer n f).ctxs = s.ctxs := rfl
@[simp] theorem State.modPeer_excs (s : State) (n : Nat) (f : Peer → Peer) : (s.modPeer n f).excs = s.excs := rfl
@[simp] theorem State.modPeer_patterns (s : State) (n : Nat) (f : Peer → Peer) : (s.modPeer n f).patterns = s.patterns := rfl
@[simp] theorem State.modPeer_patLoads (s : State) (n : Nat) (f : Peer → Peer) : (s.modPeer n f).patLoads = s.patLoads := rfl
@[simp] theorem State.modPeer_tallies (s : State) (n : Nat) (f : Peer → Peer) : (s.modPeer n f).tallies = s.tallies := rfl
@[simp] theorem State.modPeer_tallyBad (s : State) (n : Nat) (f : Peer → Peer) : (s.modPeer n f).tallyBad = s.tallyBad := rfl
@[simp] theorem State.modPeer_tallyFlip (s : State) (n : Nat) (f : Peer → Peer) : (s.modPeer n f).tallyFlip = s.tallyFlip := rfl
@[simp] theorem State.modPeer_watchTable (s : State) (n : Nat) (f : Peer → Peer) : (s.modPeer n f).watchTable = s.watchTable := rfl
@[simp] theorem State.modPeer_pollList (s : State) (n : Nat) (f : Peer → Peer) : (s.modPeer n f).pollList = s.pollList := rfl
@[simp] theorem State.modPeer_pageWatch (s : State) (n : Nat) (f : Peer → Peer) : (s.modPeer n f).pageWatch = s.pageWatch := rfl
@[simp] theorem State.modPeer_pools (s : State) (n : Nat) (f : Peer → Peer) : (s.modPeer n f).pools = s.pools := rfl
@[simp] theorem State.modPeer_bufs (s : State) (n : Nat) (f : Peer → Peer) : (s.modPeer n f).bufs = s.bufs := rfl
@[simp] theorem State.modPeer_withdrawnList (s : State) (n : Nat) (f : Peer → Peer) : (s.modPeer n f).withdrawnList = s.withdrawnList := rfl
@[simp] theorem State.modPeer_freeStatus (s : State) (n : Nat) (f : Peer → Peer) : (s.modPeer n f).freeStatus = s.freeStatus := rfl
@[simp] theorem State.modPeer_heldReads (s : State) (n : Nat) (f : Peer → Peer) : (s.modPeer n f).heldReads = s.heldReads := rfl
@[simp] theorem State.modPeer_copies (s : State) (n : Nat) (f : Peer → Peer) : (s.modPeer n f).copies = s.copies := rfl
@[simp] theorem State.modPeer_nextCopy (s : State) (n : Nat) (f : Peer → Peer) : (s.modPeer n f).nextCopy = s.nextCopy := rfl
@[simp] theorem State.modPeer_mouldUser (s : State) (n : Nat) (f : Peer → Peer) : (s.modPeer n f).mouldUser = s.mouldUser := rfl
@[simp] theorem State.modPeer_mouldBufs (s : State) (n : Nat) (f : Peer → Peer) : (s.modPeer n f).mouldBufs = s.mouldBufs := rfl
@[simp] theorem State.modPeer_owners (s : State) (n : Nat) (f : Peer → Peer) : (s.modPeer n f).owners = s.owners := rfl
@[simp] theorem State.modPeer_checkChans (s : State) (n : Nat) (f : Peer → Peer) : (s.modPeer n f).checkChans = s.checkChans := rfl
@[simp] theorem State.modPeer_checkMismatch (s : State) (n : Nat) (f : Peer → Peer) : (s.modPeer n f).checkMismatch = s.checkMismatch := rfl
@[simp] theorem State.modPeer_replays (s : State) (n : Nat) (f : Peer → Peer) : (s.modPeer n f).replays = s.replays := rfl
@[simp] theorem State.modPeer_subs (s : State) (n : Nat) (f : Peer → Peer) : (s.modPeer n f).subs = s.subs := rfl
@[simp] theorem State.modPeer_queries (s : State) (n : Nat) (f : Peer → Peer) : (s.modPeer n f).queries = s.queries := rfl
@[simp] theorem State.modPeer_mctpEid (s : State) (n : Nat) (f : Peer → Peer) : (s.modPeer n f).mctpEid = s.mctpEid := rfl
@[simp] theorem State.modPeer_heldAap (s : State) (n : Nat) (f : Peer → Peer) : (s.modPeer n f).heldAap = s.heldAap := rfl
@[simp] theorem State.modPeer_stateSince (s : State) (n : Nat) (f : Peer → Peer) : (s.modPeer n f).stateSince = s.stateSince := rfl
@[simp] theorem State.modPeer_quietSince (s : State) (n : Nat) (f : Peer → Peer) : (s.modPeer n f).quietSince = s.quietSince := rfl
@[simp] theorem State.modPeer_feedB (s : State) (n : Nat) (f : Peer → Peer) : (s.modPeer n f).feedB = s.feedB := rfl
@[simp] theorem State.modPeer_feedTick (s : State) (n : Nat) (f : Peer → Peer) : (s.modPeer n f).feedTick = s.feedTick := rfl
@[simp] theorem State.modPeer_heldPages (s : State) (n : Nat) (f : Peer → Peer) : (s.modPeer n f).heldPages = s.heldPages := rfl
@[simp] theorem State.modPeer_doorLatch (s : State) (n : Nat) (f : Peer → Peer) : (s.modPeer n f).doorLatch = s.doorLatch := rfl
@[simp] theorem State.modPeer_timers (s : State) (n : Nat) (f : Peer → Peer) : (s.modPeer n f).timers = s.timers := rfl
@[simp] theorem State.modPeer_teleBase (s : State) (n : Nat) (f : Peer → Peer) : (s.modPeer n f).teleBase = s.teleBase := rfl
@[simp] theorem State.modPeer_saved (s : State) (n : Nat) (f : Peer → Peer) : (s.modPeer n f).saved = s.saved := rfl
@[simp] theorem State.modPeer_savedAt (s : State) (n : Nat) (f : Peer → Peer) : (s.modPeer n f).savedAt = s.savedAt := rfl
@[simp] theorem State.modPeer_plans (s : State) (n : Nat) (f : Peer → Peer) : (s.modPeer n f).plans = s.plans := rfl
@[simp] theorem State.modPeer_layerStates (s : State) (n : Nat) (f : Peer → Peer) : (s.modPeer n f).layerStates = s.layerStates := rfl
@[simp] theorem State.modPeer_planLoads (s : State) (n : Nat) (f : Peer → Peer) : (s.modPeer n f).planLoads = s.planLoads := rfl
@[simp] theorem State.modPeer_masks (s : State) (n : Nat) (f : Peer → Peer) : (s.modPeer n f).masks = s.masks := rfl
@[simp] theorem State.modPeer_disps (s : State) (n : Nat) (f : Peer → Peer) : (s.modPeer n f).disps = s.disps := rfl
@[simp] theorem State.modPeer_pourQueue (s : State) (n : Nat) (f : Peer → Peer) : (s.modPeer n f).pourQueue = s.pourQueue := rfl
@[simp] theorem State.modPeer_blocks (s : State) (n : Nat) (f : Peer → Peer) : (s.modPeer n f).blocks = s.blocks := rfl
@[simp] theorem State.modPeer_sharedPosts (s : State) (n : Nat) (f : Peer → Peer) : (s.modPeer n f).sharedPosts = s.sharedPosts := rfl
@[simp] theorem State.modPeer_queueSeq (s : State) (n : Nat) (f : Peer → Peer) : (s.modPeer n f).queueSeq = s.queueSeq := rfl
@[simp] theorem State.modPeer_peers (s : State) (n : Nat) (f : Peer → Peer) : (s.modPeer n f).peers = Tab.set {} s.peers n (f (s.peer n)) := rfl
@[simp] theorem State.modPeer_atomReqs (s : State) (n : Nat) (f : Peer → Peer) : (s.modPeer n f).atomReqs = s.atomReqs := rfl
@[simp] theorem State.modPeer_replyCache (s : State) (n : Nat) (f : Peer → Peer) : (s.modPeer n f).replyCache = s.replyCache := rfl
@[simp] theorem State.modPeer_xfers (s : State) (n : Nat) (f : Peer → Peer) : (s.modPeer n f).xfers = s.xfers := rfl
@[simp] theorem State.modPeer_versions (s : State) (n : Nat) (f : Peer → Peer) : (s.modPeer n f).versions = s.versions := rfl
@[simp] theorem State.modPeer_control (s : State) (n : Nat) (f : Peer → Peer) : (s.modPeer n f).control = s.control := rfl
@[simp] theorem State.modPeer_fetchHeld (s : State) (n : Nat) (f : Peer → Peer) : (s.modPeer n f).fetchHeld = s.fetchHeld := rfl
@[simp] theorem State.modPeer_ports (s : State) (n : Nat) (f : Peer → Peer) : (s.modPeer n f).ports = s.ports := rfl
@[simp] theorem State.modPeer_planBuckets (s : State) (n : Nat) (f : Peer → Peer) : (s.modPeer n f).planBuckets = s.planBuckets := rfl
@[simp] theorem State.modPeer_pathBuckets (s : State) (n : Nat) (f : Peer → Peer) : (s.modPeer n f).pathBuckets = s.pathBuckets := rfl
@[simp] theorem State.modPeer_firstUp (s : State) (n : Nat) (f : Peer → Peer) : (s.modPeer n f).firstUp = s.firstUp := rfl
@[simp] theorem State.modPeer_quiet (s : State) (n : Nat) (f : Peer → Peer) : (s.modPeer n f).quiet = s.quiet := rfl
@[simp] theorem State.modPeer_probesSent (s : State) (n : Nat) (f : Peer → Peer) : (s.modPeer n f).probesSent = s.probesSent := rfl
@[simp] theorem State.modPeer_surveyTick (s : State) (n : Nat) (f : Peer → Peer) : (s.modPeer n f).surveyTick = s.surveyTick := rfl
@[simp] theorem State.modPeer_flasks (s : State) (n : Nat) (f : Peer → Peer) : (s.modPeer n f).flasks = s.flasks := rfl
@[simp] theorem State.modPeer_heldFrames (s : State) (n : Nat) (f : Peer → Peer) : (s.modPeer n f).heldFrames = s.heldFrames := rfl
@[simp] theorem State.modPeer_pourUses (s : State) (n : Nat) (f : Peer → Peer) : (s.modPeer n f).pourUses = s.pourUses := rfl
@[simp] theorem State.modPeer_groupQueues (s : State) (n : Nat) (f : Peer → Peer) : (s.modPeer n f).groupQueues = s.groupQueues := rfl
@[simp] theorem State.modPeer_useNumbers (s : State) (n : Nat) (f : Peer → Peer) : (s.modPeer n f).useNumbers = s.useNumbers := rfl
@[simp] theorem State.modPeer_groups (s : State) (n : Nat) (f : Peer → Peer) : (s.modPeer n f).groups = s.groups := rfl
@[simp] theorem State.modPeer_balances (s : State) (n : Nat) (f : Peer → Peer) : (s.modPeer n f).balances = s.balances := rfl
@[simp] theorem State.modPeer_boundaries (s : State) (n : Nat) (f : Peer → Peer) : (s.modPeer n f).boundaries = s.boundaries := rfl
@[simp] theorem State.modPeer_pending (s : State) (n : Nat) (f : Peer → Peer) : (s.modPeer n f).pending = s.pending := rfl

/-! ## modPort -/

@[simp] theorem State.modPort_variant (s : State) (p : Nat) (f : Port → Port) : (s.modPort p f).variant = s.variant := rfl
@[simp] theorem State.modPort_chipId (s : State) (p : Nat) (f : Port → Port) : (s.modPort p f).chipId = s.chipId := rfl
@[simp] theorem State.modPort_mctpPen (s : State) (p : Nat) (f : Port → Port) : (s.modPort p f).mctpPen = s.mctpPen := rfl
@[simp] theorem State.modPort_pageBase (s : State) (p : Nat) (f : Port → Port) : (s.modPort p f).pageBase = s.pageBase := rfl
@[simp] theorem State.modPort_mainReq (s : State) (p : Nat) (f : Port → Port) : (s.modPort p f).mainReq = s.mainReq := rfl
@[simp] theorem State.modPort_mainGood (s : State) (p : Nat) (f : Port → Port) : (s.modPort p f).mainGood = s.mainGood := rfl
@[simp] theorem State.modPort_coldReleased (s : State) (p : Nat) (f : Port → Port) : (s.modPort p f).coldReleased = s.coldReleased := rfl
@[simp] theorem State.modPort_bootTick (s : State) (p : Nat) (f : Port → Port) : (s.modPort p f).bootTick = s.bootTick := rfl
@[simp] theorem State.modPort_clockMhz (s : State) (p : Nat) (f : Port → Port) : (s.modPort p f).clockMhz = s.clockMhz := rfl
@[simp] theorem State.modPort_krdInt (s : State) (p : Nat) (f : Port → Port) : (s.modPort p f).krdInt = s.krdInt := rfl
@[simp] theorem State.modPort_tick (s : State) (p : Nat) (f : Port → Port) : (s.modPort p f).tick = s.tick := rfl
@[simp] theorem State.modPort_objs (s : State) (p : Nat) (f : Port → Port) : (s.modPort p f).objs = s.objs := rfl
@[simp] theorem State.modPort_free (s : State) (p : Nat) (f : Port → Port) : (s.modPort p f).free = s.free := rfl
@[simp] theorem State.modPort_mem (s : State) (p : Nat) (f : Port → Port) : (s.modPort p f).mem = s.mem := rfl
@[simp] theorem State.modPort_memStatus (s : State) (p : Nat) (f : Port → Port) : (s.modPort p f).memStatus = s.memStatus := rfl
@[simp] theorem State.modPort_out (s : State) (p : Nat) (f : Port → Port) : (s.modPort p f).out = s.out := rfl
@[simp] theorem State.modPort_gate (s : State) (p : Nat) (f : Port → Port) : (s.modPort p f).gate = s.gate := rfl
@[simp] theorem State.modPort_landing (s : State) (p : Nat) (f : Port → Port) : (s.modPort p f).landing = s.landing := rfl
@[simp] theorem State.modPort_planCache (s : State) (p : Nat) (f : Port → Port) : (s.modPort p f).planCache = s.planCache := rfl
@[simp] theorem State.modPort_scratch (s : State) (p : Nat) (f : Port → Port) : (s.modPort p f).scratch = s.scratch := rfl
@[simp] theorem State.modPort_checks (s : State) (p : Nat) (f : Port → Port) : (s.modPort p f).checks = s.checks := rfl
@[simp] theorem State.modPort_units (s : State) (p : Nat) (f : Port → Port) : (s.modPort p f).units = s.units := rfl
@[simp] theorem State.modPort_promo (s : State) (p : Nat) (f : Port → Port) : (s.modPort p f).promo = s.promo := rfl
@[simp] theorem State.modPort_summary (s : State) (p : Nat) (f : Port → Port) : (s.modPort p f).summary = s.summary := rfl
@[simp] theorem State.modPort_inject (s : State) (p : Nat) (f : Port → Port) : (s.modPort p f).inject = s.inject := rfl
@[simp] theorem State.modPort_stopDeadline (s : State) (p : Nat) (f : Port → Port) : (s.modPort p f).stopDeadline = s.stopDeadline := rfl
@[simp] theorem State.modPort_rings (s : State) (p : Nat) (f : Port → Port) : (s.modPort p f).rings = s.rings := rfl
@[simp] theorem State.modPort_cmds (s : State) (p : Nat) (f : Port → Port) : (s.modPort p f).cmds = s.cmds := rfl
@[simp] theorem State.modPort_nextUid (s : State) (p : Nat) (f : Port → Port) : (s.modPort p f).nextUid = s.nextUid := rfl
@[simp] theorem State.modPort_ctxs (s : State) (p : Nat) (f : Port → Port) : (s.modPort p f).ctxs = s.ctxs := rfl
@[simp] theorem State.modPort_excs (s : State) (p : Nat) (f : Port → Port) : (s.modPort p f).excs = s.excs := rfl
@[simp] theorem State.modPort_patterns (s : State) (p : Nat) (f : Port → Port) : (s.modPort p f).patterns = s.patterns := rfl
@[simp] theorem State.modPort_patLoads (s : State) (p : Nat) (f : Port → Port) : (s.modPort p f).patLoads = s.patLoads := rfl
@[simp] theorem State.modPort_tallies (s : State) (p : Nat) (f : Port → Port) : (s.modPort p f).tallies = s.tallies := rfl
@[simp] theorem State.modPort_tallyBad (s : State) (p : Nat) (f : Port → Port) : (s.modPort p f).tallyBad = s.tallyBad := rfl
@[simp] theorem State.modPort_tallyFlip (s : State) (p : Nat) (f : Port → Port) : (s.modPort p f).tallyFlip = s.tallyFlip := rfl
@[simp] theorem State.modPort_watchTable (s : State) (p : Nat) (f : Port → Port) : (s.modPort p f).watchTable = s.watchTable := rfl
@[simp] theorem State.modPort_pollList (s : State) (p : Nat) (f : Port → Port) : (s.modPort p f).pollList = s.pollList := rfl
@[simp] theorem State.modPort_pageWatch (s : State) (p : Nat) (f : Port → Port) : (s.modPort p f).pageWatch = s.pageWatch := rfl
@[simp] theorem State.modPort_pools (s : State) (p : Nat) (f : Port → Port) : (s.modPort p f).pools = s.pools := rfl
@[simp] theorem State.modPort_bufs (s : State) (p : Nat) (f : Port → Port) : (s.modPort p f).bufs = s.bufs := rfl
@[simp] theorem State.modPort_withdrawnList (s : State) (p : Nat) (f : Port → Port) : (s.modPort p f).withdrawnList = s.withdrawnList := rfl
@[simp] theorem State.modPort_freeStatus (s : State) (p : Nat) (f : Port → Port) : (s.modPort p f).freeStatus = s.freeStatus := rfl
@[simp] theorem State.modPort_heldReads (s : State) (p : Nat) (f : Port → Port) : (s.modPort p f).heldReads = s.heldReads := rfl
@[simp] theorem State.modPort_copies (s : State) (p : Nat) (f : Port → Port) : (s.modPort p f).copies = s.copies := rfl
@[simp] theorem State.modPort_nextCopy (s : State) (p : Nat) (f : Port → Port) : (s.modPort p f).nextCopy = s.nextCopy := rfl
@[simp] theorem State.modPort_mouldUser (s : State) (p : Nat) (f : Port → Port) : (s.modPort p f).mouldUser = s.mouldUser := rfl
@[simp] theorem State.modPort_mouldBufs (s : State) (p : Nat) (f : Port → Port) : (s.modPort p f).mouldBufs = s.mouldBufs := rfl
@[simp] theorem State.modPort_owners (s : State) (p : Nat) (f : Port → Port) : (s.modPort p f).owners = s.owners := rfl
@[simp] theorem State.modPort_checkChans (s : State) (p : Nat) (f : Port → Port) : (s.modPort p f).checkChans = s.checkChans := rfl
@[simp] theorem State.modPort_checkMismatch (s : State) (p : Nat) (f : Port → Port) : (s.modPort p f).checkMismatch = s.checkMismatch := rfl
@[simp] theorem State.modPort_replays (s : State) (p : Nat) (f : Port → Port) : (s.modPort p f).replays = s.replays := rfl
@[simp] theorem State.modPort_subs (s : State) (p : Nat) (f : Port → Port) : (s.modPort p f).subs = s.subs := rfl
@[simp] theorem State.modPort_queries (s : State) (p : Nat) (f : Port → Port) : (s.modPort p f).queries = s.queries := rfl
@[simp] theorem State.modPort_mctpEid (s : State) (p : Nat) (f : Port → Port) : (s.modPort p f).mctpEid = s.mctpEid := rfl
@[simp] theorem State.modPort_heldAap (s : State) (p : Nat) (f : Port → Port) : (s.modPort p f).heldAap = s.heldAap := rfl
@[simp] theorem State.modPort_stateSince (s : State) (p : Nat) (f : Port → Port) : (s.modPort p f).stateSince = s.stateSince := rfl
@[simp] theorem State.modPort_quietSince (s : State) (p : Nat) (f : Port → Port) : (s.modPort p f).quietSince = s.quietSince := rfl
@[simp] theorem State.modPort_feedB (s : State) (p : Nat) (f : Port → Port) : (s.modPort p f).feedB = s.feedB := rfl
@[simp] theorem State.modPort_feedTick (s : State) (p : Nat) (f : Port → Port) : (s.modPort p f).feedTick = s.feedTick := rfl
@[simp] theorem State.modPort_heldPages (s : State) (p : Nat) (f : Port → Port) : (s.modPort p f).heldPages = s.heldPages := rfl
@[simp] theorem State.modPort_doorLatch (s : State) (p : Nat) (f : Port → Port) : (s.modPort p f).doorLatch = s.doorLatch := rfl
@[simp] theorem State.modPort_timers (s : State) (p : Nat) (f : Port → Port) : (s.modPort p f).timers = s.timers := rfl
@[simp] theorem State.modPort_teleBase (s : State) (p : Nat) (f : Port → Port) : (s.modPort p f).teleBase = s.teleBase := rfl
@[simp] theorem State.modPort_saved (s : State) (p : Nat) (f : Port → Port) : (s.modPort p f).saved = s.saved := rfl
@[simp] theorem State.modPort_savedAt (s : State) (p : Nat) (f : Port → Port) : (s.modPort p f).savedAt = s.savedAt := rfl
@[simp] theorem State.modPort_plans (s : State) (p : Nat) (f : Port → Port) : (s.modPort p f).plans = s.plans := rfl
@[simp] theorem State.modPort_layerStates (s : State) (p : Nat) (f : Port → Port) : (s.modPort p f).layerStates = s.layerStates := rfl
@[simp] theorem State.modPort_planLoads (s : State) (p : Nat) (f : Port → Port) : (s.modPort p f).planLoads = s.planLoads := rfl
@[simp] theorem State.modPort_masks (s : State) (p : Nat) (f : Port → Port) : (s.modPort p f).masks = s.masks := rfl
@[simp] theorem State.modPort_disps (s : State) (p : Nat) (f : Port → Port) : (s.modPort p f).disps = s.disps := rfl
@[simp] theorem State.modPort_pourQueue (s : State) (p : Nat) (f : Port → Port) : (s.modPort p f).pourQueue = s.pourQueue := rfl
@[simp] theorem State.modPort_blocks (s : State) (p : Nat) (f : Port → Port) : (s.modPort p f).blocks = s.blocks := rfl
@[simp] theorem State.modPort_sharedPosts (s : State) (p : Nat) (f : Port → Port) : (s.modPort p f).sharedPosts = s.sharedPosts := rfl
@[simp] theorem State.modPort_queueSeq (s : State) (p : Nat) (f : Port → Port) : (s.modPort p f).queueSeq = s.queueSeq := rfl
@[simp] theorem State.modPort_peers (s : State) (p : Nat) (f : Port → Port) : (s.modPort p f).peers = s.peers := rfl
@[simp] theorem State.modPort_atomReqs (s : State) (p : Nat) (f : Port → Port) : (s.modPort p f).atomReqs = s.atomReqs := rfl
@[simp] theorem State.modPort_replyCache (s : State) (p : Nat) (f : Port → Port) : (s.modPort p f).replyCache = s.replyCache := rfl
@[simp] theorem State.modPort_xfers (s : State) (p : Nat) (f : Port → Port) : (s.modPort p f).xfers = s.xfers := rfl
@[simp] theorem State.modPort_versions (s : State) (p : Nat) (f : Port → Port) : (s.modPort p f).versions = s.versions := rfl
@[simp] theorem State.modPort_control (s : State) (p : Nat) (f : Port → Port) : (s.modPort p f).control = s.control := rfl
@[simp] theorem State.modPort_fetchHeld (s : State) (p : Nat) (f : Port → Port) : (s.modPort p f).fetchHeld = s.fetchHeld := rfl
@[simp] theorem State.modPort_ports (s : State) (p : Nat) (f : Port → Port) : (s.modPort p f).ports = Tab.set {} s.ports p (f (s.portRec p)) := rfl
@[simp] theorem State.modPort_planBuckets (s : State) (p : Nat) (f : Port → Port) : (s.modPort p f).planBuckets = s.planBuckets := rfl
@[simp] theorem State.modPort_pathBuckets (s : State) (p : Nat) (f : Port → Port) : (s.modPort p f).pathBuckets = s.pathBuckets := rfl
@[simp] theorem State.modPort_firstUp (s : State) (p : Nat) (f : Port → Port) : (s.modPort p f).firstUp = s.firstUp := rfl
@[simp] theorem State.modPort_quiet (s : State) (p : Nat) (f : Port → Port) : (s.modPort p f).quiet = s.quiet := rfl
@[simp] theorem State.modPort_probesSent (s : State) (p : Nat) (f : Port → Port) : (s.modPort p f).probesSent = s.probesSent := rfl
@[simp] theorem State.modPort_surveyTick (s : State) (p : Nat) (f : Port → Port) : (s.modPort p f).surveyTick = s.surveyTick := rfl
@[simp] theorem State.modPort_flasks (s : State) (p : Nat) (f : Port → Port) : (s.modPort p f).flasks = s.flasks := rfl
@[simp] theorem State.modPort_heldFrames (s : State) (p : Nat) (f : Port → Port) : (s.modPort p f).heldFrames = s.heldFrames := rfl
@[simp] theorem State.modPort_pourUses (s : State) (p : Nat) (f : Port → Port) : (s.modPort p f).pourUses = s.pourUses := rfl
@[simp] theorem State.modPort_groupQueues (s : State) (p : Nat) (f : Port → Port) : (s.modPort p f).groupQueues = s.groupQueues := rfl
@[simp] theorem State.modPort_useNumbers (s : State) (p : Nat) (f : Port → Port) : (s.modPort p f).useNumbers = s.useNumbers := rfl
@[simp] theorem State.modPort_groups (s : State) (p : Nat) (f : Port → Port) : (s.modPort p f).groups = s.groups := rfl
@[simp] theorem State.modPort_balances (s : State) (p : Nat) (f : Port → Port) : (s.modPort p f).balances = s.balances := rfl
@[simp] theorem State.modPort_boundaries (s : State) (p : Nat) (f : Port → Port) : (s.modPort p f).boundaries = s.boundaries := rfl
@[simp] theorem State.modPort_pending (s : State) (p : Nat) (f : Port → Port) : (s.modPort p f).pending = s.pending := rfl

/-! ## modBalance -/

@[simp] theorem State.modBalance_variant (s : State) (b : Nat) (f : Balance → Balance) : (s.modBalance b f).variant = s.variant := rfl
@[simp] theorem State.modBalance_chipId (s : State) (b : Nat) (f : Balance → Balance) : (s.modBalance b f).chipId = s.chipId := rfl
@[simp] theorem State.modBalance_mctpPen (s : State) (b : Nat) (f : Balance → Balance) : (s.modBalance b f).mctpPen = s.mctpPen := rfl
@[simp] theorem State.modBalance_pageBase (s : State) (b : Nat) (f : Balance → Balance) : (s.modBalance b f).pageBase = s.pageBase := rfl
@[simp] theorem State.modBalance_mainReq (s : State) (b : Nat) (f : Balance → Balance) : (s.modBalance b f).mainReq = s.mainReq := rfl
@[simp] theorem State.modBalance_mainGood (s : State) (b : Nat) (f : Balance → Balance) : (s.modBalance b f).mainGood = s.mainGood := rfl
@[simp] theorem State.modBalance_coldReleased (s : State) (b : Nat) (f : Balance → Balance) : (s.modBalance b f).coldReleased = s.coldReleased := rfl
@[simp] theorem State.modBalance_bootTick (s : State) (b : Nat) (f : Balance → Balance) : (s.modBalance b f).bootTick = s.bootTick := rfl
@[simp] theorem State.modBalance_clockMhz (s : State) (b : Nat) (f : Balance → Balance) : (s.modBalance b f).clockMhz = s.clockMhz := rfl
@[simp] theorem State.modBalance_krdInt (s : State) (b : Nat) (f : Balance → Balance) : (s.modBalance b f).krdInt = s.krdInt := rfl
@[simp] theorem State.modBalance_tick (s : State) (b : Nat) (f : Balance → Balance) : (s.modBalance b f).tick = s.tick := rfl
@[simp] theorem State.modBalance_objs (s : State) (b : Nat) (f : Balance → Balance) : (s.modBalance b f).objs = s.objs := rfl
@[simp] theorem State.modBalance_free (s : State) (b : Nat) (f : Balance → Balance) : (s.modBalance b f).free = s.free := rfl
@[simp] theorem State.modBalance_mem (s : State) (b : Nat) (f : Balance → Balance) : (s.modBalance b f).mem = s.mem := rfl
@[simp] theorem State.modBalance_memStatus (s : State) (b : Nat) (f : Balance → Balance) : (s.modBalance b f).memStatus = s.memStatus := rfl
@[simp] theorem State.modBalance_out (s : State) (b : Nat) (f : Balance → Balance) : (s.modBalance b f).out = s.out := rfl
@[simp] theorem State.modBalance_gate (s : State) (b : Nat) (f : Balance → Balance) : (s.modBalance b f).gate = s.gate := rfl
@[simp] theorem State.modBalance_landing (s : State) (b : Nat) (f : Balance → Balance) : (s.modBalance b f).landing = s.landing := rfl
@[simp] theorem State.modBalance_planCache (s : State) (b : Nat) (f : Balance → Balance) : (s.modBalance b f).planCache = s.planCache := rfl
@[simp] theorem State.modBalance_scratch (s : State) (b : Nat) (f : Balance → Balance) : (s.modBalance b f).scratch = s.scratch := rfl
@[simp] theorem State.modBalance_checks (s : State) (b : Nat) (f : Balance → Balance) : (s.modBalance b f).checks = s.checks := rfl
@[simp] theorem State.modBalance_units (s : State) (b : Nat) (f : Balance → Balance) : (s.modBalance b f).units = s.units := rfl
@[simp] theorem State.modBalance_promo (s : State) (b : Nat) (f : Balance → Balance) : (s.modBalance b f).promo = s.promo := rfl
@[simp] theorem State.modBalance_summary (s : State) (b : Nat) (f : Balance → Balance) : (s.modBalance b f).summary = s.summary := rfl
@[simp] theorem State.modBalance_inject (s : State) (b : Nat) (f : Balance → Balance) : (s.modBalance b f).inject = s.inject := rfl
@[simp] theorem State.modBalance_stopDeadline (s : State) (b : Nat) (f : Balance → Balance) : (s.modBalance b f).stopDeadline = s.stopDeadline := rfl
@[simp] theorem State.modBalance_rings (s : State) (b : Nat) (f : Balance → Balance) : (s.modBalance b f).rings = s.rings := rfl
@[simp] theorem State.modBalance_cmds (s : State) (b : Nat) (f : Balance → Balance) : (s.modBalance b f).cmds = s.cmds := rfl
@[simp] theorem State.modBalance_nextUid (s : State) (b : Nat) (f : Balance → Balance) : (s.modBalance b f).nextUid = s.nextUid := rfl
@[simp] theorem State.modBalance_ctxs (s : State) (b : Nat) (f : Balance → Balance) : (s.modBalance b f).ctxs = s.ctxs := rfl
@[simp] theorem State.modBalance_excs (s : State) (b : Nat) (f : Balance → Balance) : (s.modBalance b f).excs = s.excs := rfl
@[simp] theorem State.modBalance_patterns (s : State) (b : Nat) (f : Balance → Balance) : (s.modBalance b f).patterns = s.patterns := rfl
@[simp] theorem State.modBalance_patLoads (s : State) (b : Nat) (f : Balance → Balance) : (s.modBalance b f).patLoads = s.patLoads := rfl
@[simp] theorem State.modBalance_tallies (s : State) (b : Nat) (f : Balance → Balance) : (s.modBalance b f).tallies = s.tallies := rfl
@[simp] theorem State.modBalance_tallyBad (s : State) (b : Nat) (f : Balance → Balance) : (s.modBalance b f).tallyBad = s.tallyBad := rfl
@[simp] theorem State.modBalance_tallyFlip (s : State) (b : Nat) (f : Balance → Balance) : (s.modBalance b f).tallyFlip = s.tallyFlip := rfl
@[simp] theorem State.modBalance_watchTable (s : State) (b : Nat) (f : Balance → Balance) : (s.modBalance b f).watchTable = s.watchTable := rfl
@[simp] theorem State.modBalance_pollList (s : State) (b : Nat) (f : Balance → Balance) : (s.modBalance b f).pollList = s.pollList := rfl
@[simp] theorem State.modBalance_pageWatch (s : State) (b : Nat) (f : Balance → Balance) : (s.modBalance b f).pageWatch = s.pageWatch := rfl
@[simp] theorem State.modBalance_pools (s : State) (b : Nat) (f : Balance → Balance) : (s.modBalance b f).pools = s.pools := rfl
@[simp] theorem State.modBalance_bufs (s : State) (b : Nat) (f : Balance → Balance) : (s.modBalance b f).bufs = s.bufs := rfl
@[simp] theorem State.modBalance_withdrawnList (s : State) (b : Nat) (f : Balance → Balance) : (s.modBalance b f).withdrawnList = s.withdrawnList := rfl
@[simp] theorem State.modBalance_freeStatus (s : State) (b : Nat) (f : Balance → Balance) : (s.modBalance b f).freeStatus = s.freeStatus := rfl
@[simp] theorem State.modBalance_heldReads (s : State) (b : Nat) (f : Balance → Balance) : (s.modBalance b f).heldReads = s.heldReads := rfl
@[simp] theorem State.modBalance_copies (s : State) (b : Nat) (f : Balance → Balance) : (s.modBalance b f).copies = s.copies := rfl
@[simp] theorem State.modBalance_nextCopy (s : State) (b : Nat) (f : Balance → Balance) : (s.modBalance b f).nextCopy = s.nextCopy := rfl
@[simp] theorem State.modBalance_mouldUser (s : State) (b : Nat) (f : Balance → Balance) : (s.modBalance b f).mouldUser = s.mouldUser := rfl
@[simp] theorem State.modBalance_mouldBufs (s : State) (b : Nat) (f : Balance → Balance) : (s.modBalance b f).mouldBufs = s.mouldBufs := rfl
@[simp] theorem State.modBalance_owners (s : State) (b : Nat) (f : Balance → Balance) : (s.modBalance b f).owners = s.owners := rfl
@[simp] theorem State.modBalance_checkChans (s : State) (b : Nat) (f : Balance → Balance) : (s.modBalance b f).checkChans = s.checkChans := rfl
@[simp] theorem State.modBalance_checkMismatch (s : State) (b : Nat) (f : Balance → Balance) : (s.modBalance b f).checkMismatch = s.checkMismatch := rfl
@[simp] theorem State.modBalance_replays (s : State) (b : Nat) (f : Balance → Balance) : (s.modBalance b f).replays = s.replays := rfl
@[simp] theorem State.modBalance_subs (s : State) (b : Nat) (f : Balance → Balance) : (s.modBalance b f).subs = s.subs := rfl
@[simp] theorem State.modBalance_queries (s : State) (b : Nat) (f : Balance → Balance) : (s.modBalance b f).queries = s.queries := rfl
@[simp] theorem State.modBalance_mctpEid (s : State) (b : Nat) (f : Balance → Balance) : (s.modBalance b f).mctpEid = s.mctpEid := rfl
@[simp] theorem State.modBalance_heldAap (s : State) (b : Nat) (f : Balance → Balance) : (s.modBalance b f).heldAap = s.heldAap := rfl
@[simp] theorem State.modBalance_stateSince (s : State) (b : Nat) (f : Balance → Balance) : (s.modBalance b f).stateSince = s.stateSince := rfl
@[simp] theorem State.modBalance_quietSince (s : State) (b : Nat) (f : Balance → Balance) : (s.modBalance b f).quietSince = s.quietSince := rfl
@[simp] theorem State.modBalance_feedB (s : State) (b : Nat) (f : Balance → Balance) : (s.modBalance b f).feedB = s.feedB := rfl
@[simp] theorem State.modBalance_feedTick (s : State) (b : Nat) (f : Balance → Balance) : (s.modBalance b f).feedTick = s.feedTick := rfl
@[simp] theorem State.modBalance_heldPages (s : State) (b : Nat) (f : Balance → Balance) : (s.modBalance b f).heldPages = s.heldPages := rfl
@[simp] theorem State.modBalance_doorLatch (s : State) (b : Nat) (f : Balance → Balance) : (s.modBalance b f).doorLatch = s.doorLatch := rfl
@[simp] theorem State.modBalance_timers (s : State) (b : Nat) (f : Balance → Balance) : (s.modBalance b f).timers = s.timers := rfl
@[simp] theorem State.modBalance_teleBase (s : State) (b : Nat) (f : Balance → Balance) : (s.modBalance b f).teleBase = s.teleBase := rfl
@[simp] theorem State.modBalance_saved (s : State) (b : Nat) (f : Balance → Balance) : (s.modBalance b f).saved = s.saved := rfl
@[simp] theorem State.modBalance_savedAt (s : State) (b : Nat) (f : Balance → Balance) : (s.modBalance b f).savedAt = s.savedAt := rfl
@[simp] theorem State.modBalance_plans (s : State) (b : Nat) (f : Balance → Balance) : (s.modBalance b f).plans = s.plans := rfl
@[simp] theorem State.modBalance_layerStates (s : State) (b : Nat) (f : Balance → Balance) : (s.modBalance b f).layerStates = s.layerStates := rfl
@[simp] theorem State.modBalance_planLoads (s : State) (b : Nat) (f : Balance → Balance) : (s.modBalance b f).planLoads = s.planLoads := rfl
@[simp] theorem State.modBalance_masks (s : State) (b : Nat) (f : Balance → Balance) : (s.modBalance b f).masks = s.masks := rfl
@[simp] theorem State.modBalance_disps (s : State) (b : Nat) (f : Balance → Balance) : (s.modBalance b f).disps = s.disps := rfl
@[simp] theorem State.modBalance_pourQueue (s : State) (b : Nat) (f : Balance → Balance) : (s.modBalance b f).pourQueue = s.pourQueue := rfl
@[simp] theorem State.modBalance_blocks (s : State) (b : Nat) (f : Balance → Balance) : (s.modBalance b f).blocks = s.blocks := rfl
@[simp] theorem State.modBalance_sharedPosts (s : State) (b : Nat) (f : Balance → Balance) : (s.modBalance b f).sharedPosts = s.sharedPosts := rfl
@[simp] theorem State.modBalance_queueSeq (s : State) (b : Nat) (f : Balance → Balance) : (s.modBalance b f).queueSeq = s.queueSeq := rfl
@[simp] theorem State.modBalance_peers (s : State) (b : Nat) (f : Balance → Balance) : (s.modBalance b f).peers = s.peers := rfl
@[simp] theorem State.modBalance_atomReqs (s : State) (b : Nat) (f : Balance → Balance) : (s.modBalance b f).atomReqs = s.atomReqs := rfl
@[simp] theorem State.modBalance_replyCache (s : State) (b : Nat) (f : Balance → Balance) : (s.modBalance b f).replyCache = s.replyCache := rfl
@[simp] theorem State.modBalance_xfers (s : State) (b : Nat) (f : Balance → Balance) : (s.modBalance b f).xfers = s.xfers := rfl
@[simp] theorem State.modBalance_versions (s : State) (b : Nat) (f : Balance → Balance) : (s.modBalance b f).versions = s.versions := rfl
@[simp] theorem State.modBalance_control (s : State) (b : Nat) (f : Balance → Balance) : (s.modBalance b f).control = s.control := rfl
@[simp] theorem State.modBalance_fetchHeld (s : State) (b : Nat) (f : Balance → Balance) : (s.modBalance b f).fetchHeld = s.fetchHeld := rfl
@[simp] theorem State.modBalance_ports (s : State) (b : Nat) (f : Balance → Balance) : (s.modBalance b f).ports = s.ports := rfl
@[simp] theorem State.modBalance_planBuckets (s : State) (b : Nat) (f : Balance → Balance) : (s.modBalance b f).planBuckets = s.planBuckets := rfl
@[simp] theorem State.modBalance_pathBuckets (s : State) (b : Nat) (f : Balance → Balance) : (s.modBalance b f).pathBuckets = s.pathBuckets := rfl
@[simp] theorem State.modBalance_firstUp (s : State) (b : Nat) (f : Balance → Balance) : (s.modBalance b f).firstUp = s.firstUp := rfl
@[simp] theorem State.modBalance_quiet (s : State) (b : Nat) (f : Balance → Balance) : (s.modBalance b f).quiet = s.quiet := rfl
@[simp] theorem State.modBalance_probesSent (s : State) (b : Nat) (f : Balance → Balance) : (s.modBalance b f).probesSent = s.probesSent := rfl
@[simp] theorem State.modBalance_surveyTick (s : State) (b : Nat) (f : Balance → Balance) : (s.modBalance b f).surveyTick = s.surveyTick := rfl
@[simp] theorem State.modBalance_flasks (s : State) (b : Nat) (f : Balance → Balance) : (s.modBalance b f).flasks = s.flasks := rfl
@[simp] theorem State.modBalance_heldFrames (s : State) (b : Nat) (f : Balance → Balance) : (s.modBalance b f).heldFrames = s.heldFrames := rfl
@[simp] theorem State.modBalance_pourUses (s : State) (b : Nat) (f : Balance → Balance) : (s.modBalance b f).pourUses = s.pourUses := rfl
@[simp] theorem State.modBalance_groupQueues (s : State) (b : Nat) (f : Balance → Balance) : (s.modBalance b f).groupQueues = s.groupQueues := rfl
@[simp] theorem State.modBalance_useNumbers (s : State) (b : Nat) (f : Balance → Balance) : (s.modBalance b f).useNumbers = s.useNumbers := rfl
@[simp] theorem State.modBalance_groups (s : State) (b : Nat) (f : Balance → Balance) : (s.modBalance b f).groups = s.groups := rfl
@[simp] theorem State.modBalance_balances (s : State) (b : Nat) (f : Balance → Balance) : (s.modBalance b f).balances = Tab.set {} s.balances b (f (s.balance b)) := rfl
@[simp] theorem State.modBalance_boundaries (s : State) (b : Nat) (f : Balance → Balance) : (s.modBalance b f).boundaries = s.boundaries := rfl
@[simp] theorem State.modBalance_pending (s : State) (b : Nat) (f : Balance → Balance) : (s.modBalance b f).pending = s.pending := rfl

/-! ## modColl -/

@[simp] theorem State.modColl_variant (s : State) (g : Nat) (f : Group → Group) : (s.modColl g f).variant = s.variant := rfl
@[simp] theorem State.modColl_chipId (s : State) (g : Nat) (f : Group → Group) : (s.modColl g f).chipId = s.chipId := rfl
@[simp] theorem State.modColl_mctpPen (s : State) (g : Nat) (f : Group → Group) : (s.modColl g f).mctpPen = s.mctpPen := rfl
@[simp] theorem State.modColl_pageBase (s : State) (g : Nat) (f : Group → Group) : (s.modColl g f).pageBase = s.pageBase := rfl
@[simp] theorem State.modColl_mainReq (s : State) (g : Nat) (f : Group → Group) : (s.modColl g f).mainReq = s.mainReq := rfl
@[simp] theorem State.modColl_mainGood (s : State) (g : Nat) (f : Group → Group) : (s.modColl g f).mainGood = s.mainGood := rfl
@[simp] theorem State.modColl_coldReleased (s : State) (g : Nat) (f : Group → Group) : (s.modColl g f).coldReleased = s.coldReleased := rfl
@[simp] theorem State.modColl_bootTick (s : State) (g : Nat) (f : Group → Group) : (s.modColl g f).bootTick = s.bootTick := rfl
@[simp] theorem State.modColl_clockMhz (s : State) (g : Nat) (f : Group → Group) : (s.modColl g f).clockMhz = s.clockMhz := rfl
@[simp] theorem State.modColl_krdInt (s : State) (g : Nat) (f : Group → Group) : (s.modColl g f).krdInt = s.krdInt := rfl
@[simp] theorem State.modColl_tick (s : State) (g : Nat) (f : Group → Group) : (s.modColl g f).tick = s.tick := rfl
@[simp] theorem State.modColl_objs (s : State) (g : Nat) (f : Group → Group) : (s.modColl g f).objs = s.objs := rfl
@[simp] theorem State.modColl_free (s : State) (g : Nat) (f : Group → Group) : (s.modColl g f).free = s.free := rfl
@[simp] theorem State.modColl_mem (s : State) (g : Nat) (f : Group → Group) : (s.modColl g f).mem = s.mem := rfl
@[simp] theorem State.modColl_memStatus (s : State) (g : Nat) (f : Group → Group) : (s.modColl g f).memStatus = s.memStatus := rfl
@[simp] theorem State.modColl_out (s : State) (g : Nat) (f : Group → Group) : (s.modColl g f).out = s.out := rfl
@[simp] theorem State.modColl_gate (s : State) (g : Nat) (f : Group → Group) : (s.modColl g f).gate = s.gate := rfl
@[simp] theorem State.modColl_landing (s : State) (g : Nat) (f : Group → Group) : (s.modColl g f).landing = s.landing := rfl
@[simp] theorem State.modColl_planCache (s : State) (g : Nat) (f : Group → Group) : (s.modColl g f).planCache = s.planCache := rfl
@[simp] theorem State.modColl_scratch (s : State) (g : Nat) (f : Group → Group) : (s.modColl g f).scratch = s.scratch := rfl
@[simp] theorem State.modColl_checks (s : State) (g : Nat) (f : Group → Group) : (s.modColl g f).checks = s.checks := rfl
@[simp] theorem State.modColl_units (s : State) (g : Nat) (f : Group → Group) : (s.modColl g f).units = s.units := rfl
@[simp] theorem State.modColl_promo (s : State) (g : Nat) (f : Group → Group) : (s.modColl g f).promo = s.promo := rfl
@[simp] theorem State.modColl_summary (s : State) (g : Nat) (f : Group → Group) : (s.modColl g f).summary = s.summary := rfl
@[simp] theorem State.modColl_inject (s : State) (g : Nat) (f : Group → Group) : (s.modColl g f).inject = s.inject := rfl
@[simp] theorem State.modColl_stopDeadline (s : State) (g : Nat) (f : Group → Group) : (s.modColl g f).stopDeadline = s.stopDeadline := rfl
@[simp] theorem State.modColl_rings (s : State) (g : Nat) (f : Group → Group) : (s.modColl g f).rings = s.rings := rfl
@[simp] theorem State.modColl_cmds (s : State) (g : Nat) (f : Group → Group) : (s.modColl g f).cmds = s.cmds := rfl
@[simp] theorem State.modColl_nextUid (s : State) (g : Nat) (f : Group → Group) : (s.modColl g f).nextUid = s.nextUid := rfl
@[simp] theorem State.modColl_ctxs (s : State) (g : Nat) (f : Group → Group) : (s.modColl g f).ctxs = s.ctxs := rfl
@[simp] theorem State.modColl_excs (s : State) (g : Nat) (f : Group → Group) : (s.modColl g f).excs = s.excs := rfl
@[simp] theorem State.modColl_patterns (s : State) (g : Nat) (f : Group → Group) : (s.modColl g f).patterns = s.patterns := rfl
@[simp] theorem State.modColl_patLoads (s : State) (g : Nat) (f : Group → Group) : (s.modColl g f).patLoads = s.patLoads := rfl
@[simp] theorem State.modColl_tallies (s : State) (g : Nat) (f : Group → Group) : (s.modColl g f).tallies = s.tallies := rfl
@[simp] theorem State.modColl_tallyBad (s : State) (g : Nat) (f : Group → Group) : (s.modColl g f).tallyBad = s.tallyBad := rfl
@[simp] theorem State.modColl_tallyFlip (s : State) (g : Nat) (f : Group → Group) : (s.modColl g f).tallyFlip = s.tallyFlip := rfl
@[simp] theorem State.modColl_watchTable (s : State) (g : Nat) (f : Group → Group) : (s.modColl g f).watchTable = s.watchTable := rfl
@[simp] theorem State.modColl_pollList (s : State) (g : Nat) (f : Group → Group) : (s.modColl g f).pollList = s.pollList := rfl
@[simp] theorem State.modColl_pageWatch (s : State) (g : Nat) (f : Group → Group) : (s.modColl g f).pageWatch = s.pageWatch := rfl
@[simp] theorem State.modColl_pools (s : State) (g : Nat) (f : Group → Group) : (s.modColl g f).pools = s.pools := rfl
@[simp] theorem State.modColl_bufs (s : State) (g : Nat) (f : Group → Group) : (s.modColl g f).bufs = s.bufs := rfl
@[simp] theorem State.modColl_withdrawnList (s : State) (g : Nat) (f : Group → Group) : (s.modColl g f).withdrawnList = s.withdrawnList := rfl
@[simp] theorem State.modColl_freeStatus (s : State) (g : Nat) (f : Group → Group) : (s.modColl g f).freeStatus = s.freeStatus := rfl
@[simp] theorem State.modColl_heldReads (s : State) (g : Nat) (f : Group → Group) : (s.modColl g f).heldReads = s.heldReads := rfl
@[simp] theorem State.modColl_copies (s : State) (g : Nat) (f : Group → Group) : (s.modColl g f).copies = s.copies := rfl
@[simp] theorem State.modColl_nextCopy (s : State) (g : Nat) (f : Group → Group) : (s.modColl g f).nextCopy = s.nextCopy := rfl
@[simp] theorem State.modColl_mouldUser (s : State) (g : Nat) (f : Group → Group) : (s.modColl g f).mouldUser = s.mouldUser := rfl
@[simp] theorem State.modColl_mouldBufs (s : State) (g : Nat) (f : Group → Group) : (s.modColl g f).mouldBufs = s.mouldBufs := rfl
@[simp] theorem State.modColl_owners (s : State) (g : Nat) (f : Group → Group) : (s.modColl g f).owners = s.owners := rfl
@[simp] theorem State.modColl_checkChans (s : State) (g : Nat) (f : Group → Group) : (s.modColl g f).checkChans = s.checkChans := rfl
@[simp] theorem State.modColl_checkMismatch (s : State) (g : Nat) (f : Group → Group) : (s.modColl g f).checkMismatch = s.checkMismatch := rfl
@[simp] theorem State.modColl_replays (s : State) (g : Nat) (f : Group → Group) : (s.modColl g f).replays = s.replays := rfl
@[simp] theorem State.modColl_subs (s : State) (g : Nat) (f : Group → Group) : (s.modColl g f).subs = s.subs := rfl
@[simp] theorem State.modColl_queries (s : State) (g : Nat) (f : Group → Group) : (s.modColl g f).queries = s.queries := rfl
@[simp] theorem State.modColl_mctpEid (s : State) (g : Nat) (f : Group → Group) : (s.modColl g f).mctpEid = s.mctpEid := rfl
@[simp] theorem State.modColl_heldAap (s : State) (g : Nat) (f : Group → Group) : (s.modColl g f).heldAap = s.heldAap := rfl
@[simp] theorem State.modColl_stateSince (s : State) (g : Nat) (f : Group → Group) : (s.modColl g f).stateSince = s.stateSince := rfl
@[simp] theorem State.modColl_quietSince (s : State) (g : Nat) (f : Group → Group) : (s.modColl g f).quietSince = s.quietSince := rfl
@[simp] theorem State.modColl_feedB (s : State) (g : Nat) (f : Group → Group) : (s.modColl g f).feedB = s.feedB := rfl
@[simp] theorem State.modColl_feedTick (s : State) (g : Nat) (f : Group → Group) : (s.modColl g f).feedTick = s.feedTick := rfl
@[simp] theorem State.modColl_heldPages (s : State) (g : Nat) (f : Group → Group) : (s.modColl g f).heldPages = s.heldPages := rfl
@[simp] theorem State.modColl_doorLatch (s : State) (g : Nat) (f : Group → Group) : (s.modColl g f).doorLatch = s.doorLatch := rfl
@[simp] theorem State.modColl_timers (s : State) (g : Nat) (f : Group → Group) : (s.modColl g f).timers = s.timers := rfl
@[simp] theorem State.modColl_teleBase (s : State) (g : Nat) (f : Group → Group) : (s.modColl g f).teleBase = s.teleBase := rfl
@[simp] theorem State.modColl_saved (s : State) (g : Nat) (f : Group → Group) : (s.modColl g f).saved = s.saved := rfl
@[simp] theorem State.modColl_savedAt (s : State) (g : Nat) (f : Group → Group) : (s.modColl g f).savedAt = s.savedAt := rfl
@[simp] theorem State.modColl_plans (s : State) (g : Nat) (f : Group → Group) : (s.modColl g f).plans = s.plans := rfl
@[simp] theorem State.modColl_layerStates (s : State) (g : Nat) (f : Group → Group) : (s.modColl g f).layerStates = s.layerStates := rfl
@[simp] theorem State.modColl_planLoads (s : State) (g : Nat) (f : Group → Group) : (s.modColl g f).planLoads = s.planLoads := rfl
@[simp] theorem State.modColl_masks (s : State) (g : Nat) (f : Group → Group) : (s.modColl g f).masks = s.masks := rfl
@[simp] theorem State.modColl_disps (s : State) (g : Nat) (f : Group → Group) : (s.modColl g f).disps = s.disps := rfl
@[simp] theorem State.modColl_pourQueue (s : State) (g : Nat) (f : Group → Group) : (s.modColl g f).pourQueue = s.pourQueue := rfl
@[simp] theorem State.modColl_blocks (s : State) (g : Nat) (f : Group → Group) : (s.modColl g f).blocks = s.blocks := rfl
@[simp] theorem State.modColl_sharedPosts (s : State) (g : Nat) (f : Group → Group) : (s.modColl g f).sharedPosts = s.sharedPosts := rfl
@[simp] theorem State.modColl_queueSeq (s : State) (g : Nat) (f : Group → Group) : (s.modColl g f).queueSeq = s.queueSeq := rfl
@[simp] theorem State.modColl_peers (s : State) (g : Nat) (f : Group → Group) : (s.modColl g f).peers = s.peers := rfl
@[simp] theorem State.modColl_atomReqs (s : State) (g : Nat) (f : Group → Group) : (s.modColl g f).atomReqs = s.atomReqs := rfl
@[simp] theorem State.modColl_replyCache (s : State) (g : Nat) (f : Group → Group) : (s.modColl g f).replyCache = s.replyCache := rfl
@[simp] theorem State.modColl_xfers (s : State) (g : Nat) (f : Group → Group) : (s.modColl g f).xfers = s.xfers := rfl
@[simp] theorem State.modColl_versions (s : State) (g : Nat) (f : Group → Group) : (s.modColl g f).versions = s.versions := rfl
@[simp] theorem State.modColl_control (s : State) (g : Nat) (f : Group → Group) : (s.modColl g f).control = s.control := rfl
@[simp] theorem State.modColl_fetchHeld (s : State) (g : Nat) (f : Group → Group) : (s.modColl g f).fetchHeld = s.fetchHeld := rfl
@[simp] theorem State.modColl_ports (s : State) (g : Nat) (f : Group → Group) : (s.modColl g f).ports = s.ports := rfl
@[simp] theorem State.modColl_planBuckets (s : State) (g : Nat) (f : Group → Group) : (s.modColl g f).planBuckets = s.planBuckets := rfl
@[simp] theorem State.modColl_pathBuckets (s : State) (g : Nat) (f : Group → Group) : (s.modColl g f).pathBuckets = s.pathBuckets := rfl
@[simp] theorem State.modColl_firstUp (s : State) (g : Nat) (f : Group → Group) : (s.modColl g f).firstUp = s.firstUp := rfl
@[simp] theorem State.modColl_quiet (s : State) (g : Nat) (f : Group → Group) : (s.modColl g f).quiet = s.quiet := rfl
@[simp] theorem State.modColl_probesSent (s : State) (g : Nat) (f : Group → Group) : (s.modColl g f).probesSent = s.probesSent := rfl
@[simp] theorem State.modColl_surveyTick (s : State) (g : Nat) (f : Group → Group) : (s.modColl g f).surveyTick = s.surveyTick := rfl
@[simp] theorem State.modColl_flasks (s : State) (g : Nat) (f : Group → Group) : (s.modColl g f).flasks = s.flasks := rfl
@[simp] theorem State.modColl_heldFrames (s : State) (g : Nat) (f : Group → Group) : (s.modColl g f).heldFrames = s.heldFrames := rfl
@[simp] theorem State.modColl_pourUses (s : State) (g : Nat) (f : Group → Group) : (s.modColl g f).pourUses = s.pourUses := rfl
@[simp] theorem State.modColl_groupQueues (s : State) (g : Nat) (f : Group → Group) : (s.modColl g f).groupQueues = s.groupQueues := rfl
@[simp] theorem State.modColl_useNumbers (s : State) (g : Nat) (f : Group → Group) : (s.modColl g f).useNumbers = s.useNumbers := rfl
@[simp] theorem State.modColl_groups (s : State) (g : Nat) (f : Group → Group) : (s.modColl g f).groups = Tab.set {} s.groups g (f (s.group g)) := rfl
@[simp] theorem State.modColl_balances (s : State) (g : Nat) (f : Group → Group) : (s.modColl g f).balances = s.balances := rfl
@[simp] theorem State.modColl_boundaries (s : State) (g : Nat) (f : Group → Group) : (s.modColl g f).boundaries = s.boundaries := rfl
@[simp] theorem State.modColl_pending (s : State) (g : Nat) (f : Group → Group) : (s.modColl g f).pending = s.pending := rfl

/-! ## seen -/

@[simp] theorem State.seen_variant (s : State) (q : Nat) : (s.seen q).variant = s.variant := rfl
@[simp] theorem State.seen_chipId (s : State) (q : Nat) : (s.seen q).chipId = s.chipId := rfl
@[simp] theorem State.seen_mctpPen (s : State) (q : Nat) : (s.seen q).mctpPen = s.mctpPen := rfl
@[simp] theorem State.seen_pageBase (s : State) (q : Nat) : (s.seen q).pageBase = s.pageBase := rfl
@[simp] theorem State.seen_mainReq (s : State) (q : Nat) : (s.seen q).mainReq = s.mainReq := rfl
@[simp] theorem State.seen_mainGood (s : State) (q : Nat) : (s.seen q).mainGood = s.mainGood := rfl
@[simp] theorem State.seen_coldReleased (s : State) (q : Nat) : (s.seen q).coldReleased = s.coldReleased := rfl
@[simp] theorem State.seen_bootTick (s : State) (q : Nat) : (s.seen q).bootTick = s.bootTick := rfl
@[simp] theorem State.seen_clockMhz (s : State) (q : Nat) : (s.seen q).clockMhz = s.clockMhz := rfl
@[simp] theorem State.seen_krdInt (s : State) (q : Nat) : (s.seen q).krdInt = s.krdInt := rfl
@[simp] theorem State.seen_tick (s : State) (q : Nat) : (s.seen q).tick = s.tick := rfl
@[simp] theorem State.seen_objs (s : State) (q : Nat) : (s.seen q).objs = s.objs := rfl
@[simp] theorem State.seen_free (s : State) (q : Nat) : (s.seen q).free = s.free := rfl
@[simp] theorem State.seen_mem (s : State) (q : Nat) : (s.seen q).mem = s.mem := rfl
@[simp] theorem State.seen_memStatus (s : State) (q : Nat) : (s.seen q).memStatus = s.memStatus := rfl
@[simp] theorem State.seen_out (s : State) (q : Nat) : (s.seen q).out = s.out := rfl
@[simp] theorem State.seen_gate (s : State) (q : Nat) : (s.seen q).gate = s.gate := rfl
@[simp] theorem State.seen_landing (s : State) (q : Nat) : (s.seen q).landing = s.landing := rfl
@[simp] theorem State.seen_planCache (s : State) (q : Nat) : (s.seen q).planCache = s.planCache := rfl
@[simp] theorem State.seen_scratch (s : State) (q : Nat) : (s.seen q).scratch = s.scratch := rfl
@[simp] theorem State.seen_checks (s : State) (q : Nat) : (s.seen q).checks = s.checks := rfl
@[simp] theorem State.seen_units (s : State) (q : Nat) : (s.seen q).units = s.units := rfl
@[simp] theorem State.seen_promo (s : State) (q : Nat) : (s.seen q).promo = s.promo := rfl
@[simp] theorem State.seen_summary (s : State) (q : Nat) : (s.seen q).summary = s.summary := rfl
@[simp] theorem State.seen_inject (s : State) (q : Nat) : (s.seen q).inject = s.inject := rfl
@[simp] theorem State.seen_stopDeadline (s : State) (q : Nat) : (s.seen q).stopDeadline = s.stopDeadline := rfl
@[simp] theorem State.seen_rings (s : State) (q : Nat) : (s.seen q).rings = s.rings := rfl
@[simp] theorem State.seen_cmds (s : State) (q : Nat) : (s.seen q).cmds = s.cmds := rfl
@[simp] theorem State.seen_nextUid (s : State) (q : Nat) : (s.seen q).nextUid = s.nextUid := rfl
@[simp] theorem State.seen_ctxs (s : State) (q : Nat) : (s.seen q).ctxs = s.ctxs := rfl
@[simp] theorem State.seen_excs (s : State) (q : Nat) : (s.seen q).excs = s.excs := rfl
@[simp] theorem State.seen_patterns (s : State) (q : Nat) : (s.seen q).patterns = s.patterns := rfl
@[simp] theorem State.seen_patLoads (s : State) (q : Nat) : (s.seen q).patLoads = s.patLoads := rfl
@[simp] theorem State.seen_tallies (s : State) (q : Nat) : (s.seen q).tallies = s.tallies := rfl
@[simp] theorem State.seen_tallyBad (s : State) (q : Nat) : (s.seen q).tallyBad = s.tallyBad := rfl
@[simp] theorem State.seen_tallyFlip (s : State) (q : Nat) : (s.seen q).tallyFlip = s.tallyFlip := rfl
@[simp] theorem State.seen_watchTable (s : State) (q : Nat) : (s.seen q).watchTable = s.watchTable := rfl
@[simp] theorem State.seen_pollList (s : State) (q : Nat) : (s.seen q).pollList = s.pollList := rfl
@[simp] theorem State.seen_pageWatch (s : State) (q : Nat) : (s.seen q).pageWatch = s.pageWatch := rfl
@[simp] theorem State.seen_pools (s : State) (q : Nat) : (s.seen q).pools = s.pools := rfl
@[simp] theorem State.seen_bufs (s : State) (q : Nat) : (s.seen q).bufs = s.bufs := rfl
@[simp] theorem State.seen_withdrawnList (s : State) (q : Nat) : (s.seen q).withdrawnList = s.withdrawnList := rfl
@[simp] theorem State.seen_freeStatus (s : State) (q : Nat) : (s.seen q).freeStatus = s.freeStatus := rfl
@[simp] theorem State.seen_heldReads (s : State) (q : Nat) : (s.seen q).heldReads = s.heldReads := rfl
@[simp] theorem State.seen_copies (s : State) (q : Nat) : (s.seen q).copies = s.copies := rfl
@[simp] theorem State.seen_nextCopy (s : State) (q : Nat) : (s.seen q).nextCopy = s.nextCopy := rfl
@[simp] theorem State.seen_mouldUser (s : State) (q : Nat) : (s.seen q).mouldUser = s.mouldUser := rfl
@[simp] theorem State.seen_mouldBufs (s : State) (q : Nat) : (s.seen q).mouldBufs = s.mouldBufs := rfl
@[simp] theorem State.seen_owners (s : State) (q : Nat) : (s.seen q).owners = s.owners := rfl
@[simp] theorem State.seen_checkChans (s : State) (q : Nat) : (s.seen q).checkChans = s.checkChans := rfl
@[simp] theorem State.seen_checkMismatch (s : State) (q : Nat) : (s.seen q).checkMismatch = s.checkMismatch := rfl
@[simp] theorem State.seen_replays (s : State) (q : Nat) : (s.seen q).replays = s.replays := rfl
@[simp] theorem State.seen_subs (s : State) (q : Nat) : (s.seen q).subs = s.subs := rfl
@[simp] theorem State.seen_queries (s : State) (q : Nat) : (s.seen q).queries = s.queries := rfl
@[simp] theorem State.seen_mctpEid (s : State) (q : Nat) : (s.seen q).mctpEid = s.mctpEid := rfl
@[simp] theorem State.seen_heldAap (s : State) (q : Nat) : (s.seen q).heldAap = s.heldAap := rfl
@[simp] theorem State.seen_stateSince (s : State) (q : Nat) : (s.seen q).stateSince = s.stateSince := rfl
@[simp] theorem State.seen_quietSince (s : State) (q : Nat) : (s.seen q).quietSince = q := rfl
@[simp] theorem State.seen_feedB (s : State) (q : Nat) : (s.seen q).feedB = s.feedB := rfl
@[simp] theorem State.seen_feedTick (s : State) (q : Nat) : (s.seen q).feedTick = s.feedTick := rfl
@[simp] theorem State.seen_heldPages (s : State) (q : Nat) : (s.seen q).heldPages = s.heldPages := rfl
@[simp] theorem State.seen_doorLatch (s : State) (q : Nat) : (s.seen q).doorLatch = s.doorLatch := rfl
@[simp] theorem State.seen_timers (s : State) (q : Nat) : (s.seen q).timers = s.timers := rfl
@[simp] theorem State.seen_teleBase (s : State) (q : Nat) : (s.seen q).teleBase = s.teleBase := rfl
@[simp] theorem State.seen_saved (s : State) (q : Nat) : (s.seen q).saved = s.saved := rfl
@[simp] theorem State.seen_savedAt (s : State) (q : Nat) : (s.seen q).savedAt = s.savedAt := rfl
@[simp] theorem State.seen_plans (s : State) (q : Nat) : (s.seen q).plans = s.plans := rfl
@[simp] theorem State.seen_layerStates (s : State) (q : Nat) : (s.seen q).layerStates = s.layerStates := rfl
@[simp] theorem State.seen_planLoads (s : State) (q : Nat) : (s.seen q).planLoads = s.planLoads := rfl
@[simp] theorem State.seen_masks (s : State) (q : Nat) : (s.seen q).masks = s.masks := rfl
@[simp] theorem State.seen_disps (s : State) (q : Nat) : (s.seen q).disps = s.disps := rfl
@[simp] theorem State.seen_pourQueue (s : State) (q : Nat) : (s.seen q).pourQueue = s.pourQueue := rfl
@[simp] theorem State.seen_blocks (s : State) (q : Nat) : (s.seen q).blocks = s.blocks := rfl
@[simp] theorem State.seen_sharedPosts (s : State) (q : Nat) : (s.seen q).sharedPosts = s.sharedPosts := rfl
@[simp] theorem State.seen_queueSeq (s : State) (q : Nat) : (s.seen q).queueSeq = s.queueSeq := rfl
@[simp] theorem State.seen_peers (s : State) (q : Nat) : (s.seen q).peers = s.peers := rfl
@[simp] theorem State.seen_atomReqs (s : State) (q : Nat) : (s.seen q).atomReqs = s.atomReqs := rfl
@[simp] theorem State.seen_replyCache (s : State) (q : Nat) : (s.seen q).replyCache = s.replyCache := rfl
@[simp] theorem State.seen_xfers (s : State) (q : Nat) : (s.seen q).xfers = s.xfers := rfl
@[simp] theorem State.seen_versions (s : State) (q : Nat) : (s.seen q).versions = s.versions := rfl
@[simp] theorem State.seen_control (s : State) (q : Nat) : (s.seen q).control = s.control := rfl
@[simp] theorem State.seen_fetchHeld (s : State) (q : Nat) : (s.seen q).fetchHeld = s.fetchHeld := rfl
@[simp] theorem State.seen_ports (s : State) (q : Nat) : (s.seen q).ports = s.ports := rfl
@[simp] theorem State.seen_planBuckets (s : State) (q : Nat) : (s.seen q).planBuckets = s.planBuckets := rfl
@[simp] theorem State.seen_pathBuckets (s : State) (q : Nat) : (s.seen q).pathBuckets = s.pathBuckets := rfl
@[simp] theorem State.seen_firstUp (s : State) (q : Nat) : (s.seen q).firstUp = s.firstUp := rfl
@[simp] theorem State.seen_quiet (s : State) (q : Nat) : (s.seen q).quiet = s.quiet := rfl
@[simp] theorem State.seen_probesSent (s : State) (q : Nat) : (s.seen q).probesSent = s.probesSent := rfl
@[simp] theorem State.seen_surveyTick (s : State) (q : Nat) : (s.seen q).surveyTick = s.surveyTick := rfl
@[simp] theorem State.seen_flasks (s : State) (q : Nat) : (s.seen q).flasks = s.flasks := rfl
@[simp] theorem State.seen_heldFrames (s : State) (q : Nat) : (s.seen q).heldFrames = s.heldFrames := rfl
@[simp] theorem State.seen_pourUses (s : State) (q : Nat) : (s.seen q).pourUses = s.pourUses := rfl
@[simp] theorem State.seen_groupQueues (s : State) (q : Nat) : (s.seen q).groupQueues = s.groupQueues := rfl
@[simp] theorem State.seen_useNumbers (s : State) (q : Nat) : (s.seen q).useNumbers = s.useNumbers := rfl
@[simp] theorem State.seen_groups (s : State) (q : Nat) : (s.seen q).groups = s.groups := rfl
@[simp] theorem State.seen_balances (s : State) (q : Nat) : (s.seen q).balances = s.balances := rfl
@[simp] theorem State.seen_boundaries (s : State) (q : Nat) : (s.seen q).boundaries = s.boundaries := rfl
@[simp] theorem State.seen_pending (s : State) (q : Nat) : (s.seen q).pending = s.pending := rfl

/-! ## pinned -/

@[simp] theorem State.pinned_variant (s : State)  : (s.pinned ).variant = s.variant := rfl
@[simp] theorem State.pinned_chipId (s : State)  : (s.pinned ).chipId = s.chipId := rfl
@[simp] theorem State.pinned_mctpPen (s : State)  : (s.pinned ).mctpPen = s.mctpPen := rfl
@[simp] theorem State.pinned_pageBase (s : State)  : (s.pinned ).pageBase = s.pageBase := rfl
@[simp] theorem State.pinned_mainReq (s : State)  : (s.pinned ).mainReq = s.mainReq := rfl
@[simp] theorem State.pinned_mainGood (s : State)  : (s.pinned ).mainGood = s.mainGood := rfl
@[simp] theorem State.pinned_coldReleased (s : State)  : (s.pinned ).coldReleased = s.coldReleased := rfl
@[simp] theorem State.pinned_bootTick (s : State)  : (s.pinned ).bootTick = s.bootTick := rfl
@[simp] theorem State.pinned_clockMhz (s : State)  : (s.pinned ).clockMhz = s.clockMhz := rfl
@[simp] theorem State.pinned_krdInt (s : State)  : (s.pinned ).krdInt = s.intPins := rfl
@[simp] theorem State.pinned_tick (s : State)  : (s.pinned ).tick = s.tick := rfl
@[simp] theorem State.pinned_objs (s : State)  : (s.pinned ).objs = s.objs := rfl
@[simp] theorem State.pinned_free (s : State)  : (s.pinned ).free = s.free := rfl
@[simp] theorem State.pinned_mem (s : State)  : (s.pinned ).mem = s.mem := rfl
@[simp] theorem State.pinned_memStatus (s : State)  : (s.pinned ).memStatus = s.memStatus := rfl
@[simp] theorem State.pinned_out (s : State)  : (s.pinned ).out = s.out := rfl
@[simp] theorem State.pinned_gate (s : State)  : (s.pinned ).gate = s.gate := rfl
@[simp] theorem State.pinned_landing (s : State)  : (s.pinned ).landing = s.landing := rfl
@[simp] theorem State.pinned_planCache (s : State)  : (s.pinned ).planCache = s.planCache := rfl
@[simp] theorem State.pinned_scratch (s : State)  : (s.pinned ).scratch = s.scratch := rfl
@[simp] theorem State.pinned_checks (s : State)  : (s.pinned ).checks = s.checks := rfl
@[simp] theorem State.pinned_units (s : State)  : (s.pinned ).units = s.units := rfl
@[simp] theorem State.pinned_promo (s : State)  : (s.pinned ).promo = s.promo := rfl
@[simp] theorem State.pinned_summary (s : State)  : (s.pinned ).summary = s.summary := rfl
@[simp] theorem State.pinned_inject (s : State)  : (s.pinned ).inject = s.inject := rfl
@[simp] theorem State.pinned_stopDeadline (s : State)  : (s.pinned ).stopDeadline = s.stopDeadline := rfl
@[simp] theorem State.pinned_rings (s : State)  : (s.pinned ).rings = s.rings := rfl
@[simp] theorem State.pinned_cmds (s : State)  : (s.pinned ).cmds = s.cmds := rfl
@[simp] theorem State.pinned_nextUid (s : State)  : (s.pinned ).nextUid = s.nextUid := rfl
@[simp] theorem State.pinned_ctxs (s : State)  : (s.pinned ).ctxs = s.ctxs := rfl
@[simp] theorem State.pinned_excs (s : State)  : (s.pinned ).excs = s.excs := rfl
@[simp] theorem State.pinned_patterns (s : State)  : (s.pinned ).patterns = s.patterns := rfl
@[simp] theorem State.pinned_patLoads (s : State)  : (s.pinned ).patLoads = s.patLoads := rfl
@[simp] theorem State.pinned_tallies (s : State)  : (s.pinned ).tallies = s.tallies := rfl
@[simp] theorem State.pinned_tallyBad (s : State)  : (s.pinned ).tallyBad = s.tallyBad := rfl
@[simp] theorem State.pinned_tallyFlip (s : State)  : (s.pinned ).tallyFlip = s.tallyFlip := rfl
@[simp] theorem State.pinned_watchTable (s : State)  : (s.pinned ).watchTable = s.watchTable := rfl
@[simp] theorem State.pinned_pollList (s : State)  : (s.pinned ).pollList = s.pollList := rfl
@[simp] theorem State.pinned_pageWatch (s : State)  : (s.pinned ).pageWatch = s.pageWatch := rfl
@[simp] theorem State.pinned_pools (s : State)  : (s.pinned ).pools = s.pools := rfl
@[simp] theorem State.pinned_bufs (s : State)  : (s.pinned ).bufs = s.bufs := rfl
@[simp] theorem State.pinned_withdrawnList (s : State)  : (s.pinned ).withdrawnList = s.withdrawnList := rfl
@[simp] theorem State.pinned_freeStatus (s : State)  : (s.pinned ).freeStatus = s.freeStatus := rfl
@[simp] theorem State.pinned_heldReads (s : State)  : (s.pinned ).heldReads = s.heldReads := rfl
@[simp] theorem State.pinned_copies (s : State)  : (s.pinned ).copies = s.copies := rfl
@[simp] theorem State.pinned_nextCopy (s : State)  : (s.pinned ).nextCopy = s.nextCopy := rfl
@[simp] theorem State.pinned_mouldUser (s : State)  : (s.pinned ).mouldUser = s.mouldUser := rfl
@[simp] theorem State.pinned_mouldBufs (s : State)  : (s.pinned ).mouldBufs = s.mouldBufs := rfl
@[simp] theorem State.pinned_owners (s : State)  : (s.pinned ).owners = s.owners := rfl
@[simp] theorem State.pinned_checkChans (s : State)  : (s.pinned ).checkChans = s.checkChans := rfl
@[simp] theorem State.pinned_checkMismatch (s : State)  : (s.pinned ).checkMismatch = s.checkMismatch := rfl
@[simp] theorem State.pinned_replays (s : State)  : (s.pinned ).replays = s.replays := rfl
@[simp] theorem State.pinned_subs (s : State)  : (s.pinned ).subs = s.subs := rfl
@[simp] theorem State.pinned_queries (s : State)  : (s.pinned ).queries = s.queries := rfl
@[simp] theorem State.pinned_mctpEid (s : State)  : (s.pinned ).mctpEid = s.mctpEid := rfl
@[simp] theorem State.pinned_heldAap (s : State)  : (s.pinned ).heldAap = s.heldAap := rfl
@[simp] theorem State.pinned_stateSince (s : State)  : (s.pinned ).stateSince = s.stateSince := rfl
@[simp] theorem State.pinned_quietSince (s : State)  : (s.pinned ).quietSince = s.quietSince := rfl
@[simp] theorem State.pinned_feedB (s : State)  : (s.pinned ).feedB = s.feedB := rfl
@[simp] theorem State.pinned_feedTick (s : State)  : (s.pinned ).feedTick = s.feedTick := rfl
@[simp] theorem State.pinned_heldPages (s : State)  : (s.pinned ).heldPages = s.heldPages := rfl
@[simp] theorem State.pinned_doorLatch (s : State)  : (s.pinned ).doorLatch = s.doorLatch := rfl
@[simp] theorem State.pinned_timers (s : State)  : (s.pinned ).timers = s.timers := rfl
@[simp] theorem State.pinned_teleBase (s : State)  : (s.pinned ).teleBase = s.teleBase := rfl
@[simp] theorem State.pinned_saved (s : State)  : (s.pinned ).saved = s.saved := rfl
@[simp] theorem State.pinned_savedAt (s : State)  : (s.pinned ).savedAt = s.savedAt := rfl
@[simp] theorem State.pinned_plans (s : State)  : (s.pinned ).plans = s.plans := rfl
@[simp] theorem State.pinned_layerStates (s : State)  : (s.pinned ).layerStates = s.layerStates := rfl
@[simp] theorem State.pinned_planLoads (s : State)  : (s.pinned ).planLoads = s.planLoads := rfl
@[simp] theorem State.pinned_masks (s : State)  : (s.pinned ).masks = s.masks := rfl
@[simp] theorem State.pinned_disps (s : State)  : (s.pinned ).disps = s.disps := rfl
@[simp] theorem State.pinned_pourQueue (s : State)  : (s.pinned ).pourQueue = s.pourQueue := rfl
@[simp] theorem State.pinned_blocks (s : State)  : (s.pinned ).blocks = s.blocks := rfl
@[simp] theorem State.pinned_sharedPosts (s : State)  : (s.pinned ).sharedPosts = s.sharedPosts := rfl
@[simp] theorem State.pinned_queueSeq (s : State)  : (s.pinned ).queueSeq = s.queueSeq := rfl
@[simp] theorem State.pinned_peers (s : State)  : (s.pinned ).peers = s.peers := rfl
@[simp] theorem State.pinned_atomReqs (s : State)  : (s.pinned ).atomReqs = s.atomReqs := rfl
@[simp] theorem State.pinned_replyCache (s : State)  : (s.pinned ).replyCache = s.replyCache := rfl
@[simp] theorem State.pinned_xfers (s : State)  : (s.pinned ).xfers = s.xfers := rfl
@[simp] theorem State.pinned_versions (s : State)  : (s.pinned ).versions = s.versions := rfl
@[simp] theorem State.pinned_control (s : State)  : (s.pinned ).control = s.control := rfl
@[simp] theorem State.pinned_fetchHeld (s : State)  : (s.pinned ).fetchHeld = s.fetchHeld := rfl
@[simp] theorem State.pinned_ports (s : State)  : (s.pinned ).ports = s.ports := rfl
@[simp] theorem State.pinned_planBuckets (s : State)  : (s.pinned ).planBuckets = s.planBuckets := rfl
@[simp] theorem State.pinned_pathBuckets (s : State)  : (s.pinned ).pathBuckets = s.pathBuckets := rfl
@[simp] theorem State.pinned_firstUp (s : State)  : (s.pinned ).firstUp = s.firstUp := rfl
@[simp] theorem State.pinned_quiet (s : State)  : (s.pinned ).quiet = s.quiet := rfl
@[simp] theorem State.pinned_probesSent (s : State)  : (s.pinned ).probesSent = s.probesSent := rfl
@[simp] theorem State.pinned_surveyTick (s : State)  : (s.pinned ).surveyTick = s.surveyTick := rfl
@[simp] theorem State.pinned_flasks (s : State)  : (s.pinned ).flasks = s.flasks := rfl
@[simp] theorem State.pinned_heldFrames (s : State)  : (s.pinned ).heldFrames = s.heldFrames := rfl
@[simp] theorem State.pinned_pourUses (s : State)  : (s.pinned ).pourUses = s.pourUses := rfl
@[simp] theorem State.pinned_groupQueues (s : State)  : (s.pinned ).groupQueues = s.groupQueues := rfl
@[simp] theorem State.pinned_useNumbers (s : State)  : (s.pinned ).useNumbers = s.useNumbers := rfl
@[simp] theorem State.pinned_groups (s : State)  : (s.pinned ).groups = s.groups := rfl
@[simp] theorem State.pinned_balances (s : State)  : (s.pinned ).balances = s.balances := rfl
@[simp] theorem State.pinned_boundaries (s : State)  : (s.pinned ).boundaries = [] := rfl
@[simp] theorem State.pinned_pending (s : State)  : (s.pinned ).pending = s.pending := rfl

/-! ## modMask -/

@[simp] theorem State.modMask_variant (s : State) (p : Nat) (f : MaskState → MaskState) : (s.modMask p f).variant = s.variant := rfl
@[simp] theorem State.modMask_chipId (s : State) (p : Nat) (f : MaskState → MaskState) : (s.modMask p f).chipId = s.chipId := rfl
@[simp] theorem State.modMask_mctpPen (s : State) (p : Nat) (f : MaskState → MaskState) : (s.modMask p f).mctpPen = s.mctpPen := rfl
@[simp] theorem State.modMask_pageBase (s : State) (p : Nat) (f : MaskState → MaskState) : (s.modMask p f).pageBase = s.pageBase := rfl
@[simp] theorem State.modMask_mainReq (s : State) (p : Nat) (f : MaskState → MaskState) : (s.modMask p f).mainReq = s.mainReq := rfl
@[simp] theorem State.modMask_mainGood (s : State) (p : Nat) (f : MaskState → MaskState) : (s.modMask p f).mainGood = s.mainGood := rfl
@[simp] theorem State.modMask_coldReleased (s : State) (p : Nat) (f : MaskState → MaskState) : (s.modMask p f).coldReleased = s.coldReleased := rfl
@[simp] theorem State.modMask_bootTick (s : State) (p : Nat) (f : MaskState → MaskState) : (s.modMask p f).bootTick = s.bootTick := rfl
@[simp] theorem State.modMask_clockMhz (s : State) (p : Nat) (f : MaskState → MaskState) : (s.modMask p f).clockMhz = s.clockMhz := rfl
@[simp] theorem State.modMask_krdInt (s : State) (p : Nat) (f : MaskState → MaskState) : (s.modMask p f).krdInt = s.krdInt := rfl
@[simp] theorem State.modMask_tick (s : State) (p : Nat) (f : MaskState → MaskState) : (s.modMask p f).tick = s.tick := rfl
@[simp] theorem State.modMask_objs (s : State) (p : Nat) (f : MaskState → MaskState) : (s.modMask p f).objs = s.objs := rfl
@[simp] theorem State.modMask_free (s : State) (p : Nat) (f : MaskState → MaskState) : (s.modMask p f).free = s.free := rfl
@[simp] theorem State.modMask_mem (s : State) (p : Nat) (f : MaskState → MaskState) : (s.modMask p f).mem = s.mem := rfl
@[simp] theorem State.modMask_memStatus (s : State) (p : Nat) (f : MaskState → MaskState) : (s.modMask p f).memStatus = s.memStatus := rfl
@[simp] theorem State.modMask_out (s : State) (p : Nat) (f : MaskState → MaskState) : (s.modMask p f).out = s.out := rfl
@[simp] theorem State.modMask_gate (s : State) (p : Nat) (f : MaskState → MaskState) : (s.modMask p f).gate = s.gate := rfl
@[simp] theorem State.modMask_landing (s : State) (p : Nat) (f : MaskState → MaskState) : (s.modMask p f).landing = s.landing := rfl
@[simp] theorem State.modMask_planCache (s : State) (p : Nat) (f : MaskState → MaskState) : (s.modMask p f).planCache = s.planCache := rfl
@[simp] theorem State.modMask_scratch (s : State) (p : Nat) (f : MaskState → MaskState) : (s.modMask p f).scratch = s.scratch := rfl
@[simp] theorem State.modMask_checks (s : State) (p : Nat) (f : MaskState → MaskState) : (s.modMask p f).checks = s.checks := rfl
@[simp] theorem State.modMask_units (s : State) (p : Nat) (f : MaskState → MaskState) : (s.modMask p f).units = s.units := rfl
@[simp] theorem State.modMask_promo (s : State) (p : Nat) (f : MaskState → MaskState) : (s.modMask p f).promo = s.promo := rfl
@[simp] theorem State.modMask_summary (s : State) (p : Nat) (f : MaskState → MaskState) : (s.modMask p f).summary = s.summary := rfl
@[simp] theorem State.modMask_inject (s : State) (p : Nat) (f : MaskState → MaskState) : (s.modMask p f).inject = s.inject := rfl
@[simp] theorem State.modMask_stopDeadline (s : State) (p : Nat) (f : MaskState → MaskState) : (s.modMask p f).stopDeadline = s.stopDeadline := rfl
@[simp] theorem State.modMask_rings (s : State) (p : Nat) (f : MaskState → MaskState) : (s.modMask p f).rings = s.rings := rfl
@[simp] theorem State.modMask_cmds (s : State) (p : Nat) (f : MaskState → MaskState) : (s.modMask p f).cmds = s.cmds := rfl
@[simp] theorem State.modMask_nextUid (s : State) (p : Nat) (f : MaskState → MaskState) : (s.modMask p f).nextUid = s.nextUid := rfl
@[simp] theorem State.modMask_ctxs (s : State) (p : Nat) (f : MaskState → MaskState) : (s.modMask p f).ctxs = s.ctxs := rfl
@[simp] theorem State.modMask_excs (s : State) (p : Nat) (f : MaskState → MaskState) : (s.modMask p f).excs = s.excs := rfl
@[simp] theorem State.modMask_patterns (s : State) (p : Nat) (f : MaskState → MaskState) : (s.modMask p f).patterns = s.patterns := rfl
@[simp] theorem State.modMask_patLoads (s : State) (p : Nat) (f : MaskState → MaskState) : (s.modMask p f).patLoads = s.patLoads := rfl
@[simp] theorem State.modMask_tallies (s : State) (p : Nat) (f : MaskState → MaskState) : (s.modMask p f).tallies = s.tallies := rfl
@[simp] theorem State.modMask_tallyBad (s : State) (p : Nat) (f : MaskState → MaskState) : (s.modMask p f).tallyBad = s.tallyBad := rfl
@[simp] theorem State.modMask_tallyFlip (s : State) (p : Nat) (f : MaskState → MaskState) : (s.modMask p f).tallyFlip = s.tallyFlip := rfl
@[simp] theorem State.modMask_watchTable (s : State) (p : Nat) (f : MaskState → MaskState) : (s.modMask p f).watchTable = s.watchTable := rfl
@[simp] theorem State.modMask_pollList (s : State) (p : Nat) (f : MaskState → MaskState) : (s.modMask p f).pollList = s.pollList := rfl
@[simp] theorem State.modMask_pageWatch (s : State) (p : Nat) (f : MaskState → MaskState) : (s.modMask p f).pageWatch = s.pageWatch := rfl
@[simp] theorem State.modMask_pools (s : State) (p : Nat) (f : MaskState → MaskState) : (s.modMask p f).pools = s.pools := rfl
@[simp] theorem State.modMask_bufs (s : State) (p : Nat) (f : MaskState → MaskState) : (s.modMask p f).bufs = s.bufs := rfl
@[simp] theorem State.modMask_withdrawnList (s : State) (p : Nat) (f : MaskState → MaskState) : (s.modMask p f).withdrawnList = s.withdrawnList := rfl
@[simp] theorem State.modMask_freeStatus (s : State) (p : Nat) (f : MaskState → MaskState) : (s.modMask p f).freeStatus = s.freeStatus := rfl
@[simp] theorem State.modMask_heldReads (s : State) (p : Nat) (f : MaskState → MaskState) : (s.modMask p f).heldReads = s.heldReads := rfl
@[simp] theorem State.modMask_copies (s : State) (p : Nat) (f : MaskState → MaskState) : (s.modMask p f).copies = s.copies := rfl
@[simp] theorem State.modMask_nextCopy (s : State) (p : Nat) (f : MaskState → MaskState) : (s.modMask p f).nextCopy = s.nextCopy := rfl
@[simp] theorem State.modMask_mouldUser (s : State) (p : Nat) (f : MaskState → MaskState) : (s.modMask p f).mouldUser = s.mouldUser := rfl
@[simp] theorem State.modMask_mouldBufs (s : State) (p : Nat) (f : MaskState → MaskState) : (s.modMask p f).mouldBufs = s.mouldBufs := rfl
@[simp] theorem State.modMask_owners (s : State) (p : Nat) (f : MaskState → MaskState) : (s.modMask p f).owners = s.owners := rfl
@[simp] theorem State.modMask_checkChans (s : State) (p : Nat) (f : MaskState → MaskState) : (s.modMask p f).checkChans = s.checkChans := rfl
@[simp] theorem State.modMask_checkMismatch (s : State) (p : Nat) (f : MaskState → MaskState) : (s.modMask p f).checkMismatch = s.checkMismatch := rfl
@[simp] theorem State.modMask_replays (s : State) (p : Nat) (f : MaskState → MaskState) : (s.modMask p f).replays = s.replays := rfl
@[simp] theorem State.modMask_subs (s : State) (p : Nat) (f : MaskState → MaskState) : (s.modMask p f).subs = s.subs := rfl
@[simp] theorem State.modMask_queries (s : State) (p : Nat) (f : MaskState → MaskState) : (s.modMask p f).queries = s.queries := rfl
@[simp] theorem State.modMask_mctpEid (s : State) (p : Nat) (f : MaskState → MaskState) : (s.modMask p f).mctpEid = s.mctpEid := rfl
@[simp] theorem State.modMask_heldAap (s : State) (p : Nat) (f : MaskState → MaskState) : (s.modMask p f).heldAap = s.heldAap := rfl
@[simp] theorem State.modMask_stateSince (s : State) (p : Nat) (f : MaskState → MaskState) : (s.modMask p f).stateSince = s.stateSince := rfl
@[simp] theorem State.modMask_quietSince (s : State) (p : Nat) (f : MaskState → MaskState) : (s.modMask p f).quietSince = s.quietSince := rfl
@[simp] theorem State.modMask_feedB (s : State) (p : Nat) (f : MaskState → MaskState) : (s.modMask p f).feedB = s.feedB := rfl
@[simp] theorem State.modMask_feedTick (s : State) (p : Nat) (f : MaskState → MaskState) : (s.modMask p f).feedTick = s.feedTick := rfl
@[simp] theorem State.modMask_heldPages (s : State) (p : Nat) (f : MaskState → MaskState) : (s.modMask p f).heldPages = s.heldPages := rfl
@[simp] theorem State.modMask_doorLatch (s : State) (p : Nat) (f : MaskState → MaskState) : (s.modMask p f).doorLatch = s.doorLatch := rfl
@[simp] theorem State.modMask_timers (s : State) (p : Nat) (f : MaskState → MaskState) : (s.modMask p f).timers = s.timers := rfl
@[simp] theorem State.modMask_teleBase (s : State) (p : Nat) (f : MaskState → MaskState) : (s.modMask p f).teleBase = s.teleBase := rfl
@[simp] theorem State.modMask_saved (s : State) (p : Nat) (f : MaskState → MaskState) : (s.modMask p f).saved = s.saved := rfl
@[simp] theorem State.modMask_savedAt (s : State) (p : Nat) (f : MaskState → MaskState) : (s.modMask p f).savedAt = s.savedAt := rfl
@[simp] theorem State.modMask_plans (s : State) (p : Nat) (f : MaskState → MaskState) : (s.modMask p f).plans = s.plans := rfl
@[simp] theorem State.modMask_layerStates (s : State) (p : Nat) (f : MaskState → MaskState) : (s.modMask p f).layerStates = s.layerStates := rfl
@[simp] theorem State.modMask_planLoads (s : State) (p : Nat) (f : MaskState → MaskState) : (s.modMask p f).planLoads = s.planLoads := rfl
@[simp] theorem State.modMask_masks (s : State) (p : Nat) (f : MaskState → MaskState) : (s.modMask p f).masks = Tab.set {} s.masks p (f (s.maskState p)) := rfl
@[simp] theorem State.modMask_disps (s : State) (p : Nat) (f : MaskState → MaskState) : (s.modMask p f).disps = s.disps := rfl
@[simp] theorem State.modMask_pourQueue (s : State) (p : Nat) (f : MaskState → MaskState) : (s.modMask p f).pourQueue = s.pourQueue := rfl
@[simp] theorem State.modMask_blocks (s : State) (p : Nat) (f : MaskState → MaskState) : (s.modMask p f).blocks = s.blocks := rfl
@[simp] theorem State.modMask_sharedPosts (s : State) (p : Nat) (f : MaskState → MaskState) : (s.modMask p f).sharedPosts = s.sharedPosts := rfl
@[simp] theorem State.modMask_queueSeq (s : State) (p : Nat) (f : MaskState → MaskState) : (s.modMask p f).queueSeq = s.queueSeq := rfl
@[simp] theorem State.modMask_peers (s : State) (p : Nat) (f : MaskState → MaskState) : (s.modMask p f).peers = s.peers := rfl
@[simp] theorem State.modMask_atomReqs (s : State) (p : Nat) (f : MaskState → MaskState) : (s.modMask p f).atomReqs = s.atomReqs := rfl
@[simp] theorem State.modMask_replyCache (s : State) (p : Nat) (f : MaskState → MaskState) : (s.modMask p f).replyCache = s.replyCache := rfl
@[simp] theorem State.modMask_xfers (s : State) (p : Nat) (f : MaskState → MaskState) : (s.modMask p f).xfers = s.xfers := rfl
@[simp] theorem State.modMask_versions (s : State) (p : Nat) (f : MaskState → MaskState) : (s.modMask p f).versions = s.versions := rfl
@[simp] theorem State.modMask_control (s : State) (p : Nat) (f : MaskState → MaskState) : (s.modMask p f).control = s.control := rfl
@[simp] theorem State.modMask_fetchHeld (s : State) (p : Nat) (f : MaskState → MaskState) : (s.modMask p f).fetchHeld = s.fetchHeld := rfl
@[simp] theorem State.modMask_ports (s : State) (p : Nat) (f : MaskState → MaskState) : (s.modMask p f).ports = s.ports := rfl
@[simp] theorem State.modMask_planBuckets (s : State) (p : Nat) (f : MaskState → MaskState) : (s.modMask p f).planBuckets = s.planBuckets := rfl
@[simp] theorem State.modMask_pathBuckets (s : State) (p : Nat) (f : MaskState → MaskState) : (s.modMask p f).pathBuckets = s.pathBuckets := rfl
@[simp] theorem State.modMask_firstUp (s : State) (p : Nat) (f : MaskState → MaskState) : (s.modMask p f).firstUp = s.firstUp := rfl
@[simp] theorem State.modMask_quiet (s : State) (p : Nat) (f : MaskState → MaskState) : (s.modMask p f).quiet = s.quiet := rfl
@[simp] theorem State.modMask_probesSent (s : State) (p : Nat) (f : MaskState → MaskState) : (s.modMask p f).probesSent = s.probesSent := rfl
@[simp] theorem State.modMask_surveyTick (s : State) (p : Nat) (f : MaskState → MaskState) : (s.modMask p f).surveyTick = s.surveyTick := rfl
@[simp] theorem State.modMask_flasks (s : State) (p : Nat) (f : MaskState → MaskState) : (s.modMask p f).flasks = s.flasks := rfl
@[simp] theorem State.modMask_heldFrames (s : State) (p : Nat) (f : MaskState → MaskState) : (s.modMask p f).heldFrames = s.heldFrames := rfl
@[simp] theorem State.modMask_pourUses (s : State) (p : Nat) (f : MaskState → MaskState) : (s.modMask p f).pourUses = s.pourUses := rfl
@[simp] theorem State.modMask_groupQueues (s : State) (p : Nat) (f : MaskState → MaskState) : (s.modMask p f).groupQueues = s.groupQueues := rfl
@[simp] theorem State.modMask_useNumbers (s : State) (p : Nat) (f : MaskState → MaskState) : (s.modMask p f).useNumbers = s.useNumbers := rfl
@[simp] theorem State.modMask_groups (s : State) (p : Nat) (f : MaskState → MaskState) : (s.modMask p f).groups = s.groups := rfl
@[simp] theorem State.modMask_balances (s : State) (p : Nat) (f : MaskState → MaskState) : (s.modMask p f).balances = s.balances := rfl
@[simp] theorem State.modMask_boundaries (s : State) (p : Nat) (f : MaskState → MaskState) : (s.modMask p f).boundaries = s.boundaries := rfl
@[simp] theorem State.modMask_pending (s : State) (p : Nat) (f : MaskState → MaskState) : (s.modMask p f).pending = s.pending := rfl

end Sys2Proof.Machine
end

