-- ==== Sys2Proof/Laws/Ops.lean ====
section
/-! SUPPORT. What the shared operations do: register file, contexts and commands, waking, what follows a row, and stores without bad words. -/

set_option Elab.async false

namespace Sys2Proof.Machine

/-! ## The register file -/

theorem Obj.key_div (o : Obj) (i : Nat) : o.key i / 2 ^ 16 = o.ix * 2 ^ 8 + o.sub := by
  simp only [Obj.key]; omega

/-- Instances of objects of different addresses have different keys. -/
theorem Obj.key_ne {o o' : Obj} (i j : Nat) (h : o.ix * 2 ^ 8 + o.sub ≠ o'.ix * 2 ^ 8 + o'.sub) : o.key i ≠ o'.key j := by
  intro e; apply h; rw [← Obj.key_div o i, ← Obj.key_div o' j, e]

@[simp] theorem State.rd_wr_same (s : State) (o : Obj) (i v : Nat) : (s.wr o i v).rd o i = v := by
  simp [State.rd, State.wr]

theorem State.rd_wr_ne (s : State) (o o' : Obj) (i j v : Nat) (h : o.key i ≠ o'.key j) : (s.wr o i v).rd o' j = s.rd o' j := by
  simp [State.rd, State.wr, Tab.get_set_ne _ _ _ _ h]

@[simp] theorem State.rd_inc_same (s : State) (o : Obj) (i n : Nat) :
    (s.inc o i n).rd o i = (s.rd o i + n) % 2 ^ (8 * o.len) := by simp [State.inc]

theorem State.rd_inc_ne (s : State) (o o' : Obj) (i j n : Nat) (h : o.key i ≠ o'.key j) : (s.inc o i n).rd o' j = s.rd o' j :=
  State.rd_wr_ne s o o' i j _ h

/-- A read depends on the register file alone. -/
theorem State.rd_congr {s t : State} (h : t.objs = s.objs) (o : Obj) (i : Nat) : t.rd o i = s.rd o i := by
  simp [State.rd, h]

theorem State.rb_congr {s t : State} (h : t.objs = s.objs) (o : Obj) (i : Nat) : t.rb o i = s.rb o i := by
  simp [State.rb, State.rd, h]

/-! ## Records -/

@[simp] theorem State.ctx_modCtx_same (s : State) (x : Nat) (f : Ctx → Ctx) : (s.modCtx x f).ctx x = (s.ctx x).map f := by
  simp [State.ctx]

theorem State.ctx_modCtx_ne (s : State) {x y : Nat} (f : Ctx → Ctx) (h : y ≠ x) : (s.modCtx x f).ctx y = s.ctx y := by
  simp [State.ctx, Tab.find_modify_ne _ f (Ne.symm h)]

@[simp] theorem State.cmd_modCmd_same (s : State) (u : Nat) (f : Cmd → Cmd) : (s.modCmd u f).cmd u = (s.cmd u).map f := by
  simp [State.cmd]

/-! ## Waking and what follows a row -/

theorem State.settle_told (s : State) (h : s.boundaries = []) : s.settle = s.pinned := by
  unfold State.settle
  simp only [h, List.foldl_nil]
  rfl

/-- An event while the engine is Active is the operation itself, on the state with the activity noted. -/
theorem State.event_awake (s : State) (op : State → State) (h : s.power = 0) : ∃ q, s.event op = op (s.seen q) := by
  unfold State.event
  split
  · rename_i e; exact ⟨s.quietSince, e.symm⟩
  · refine ⟨s.tick, ?_⟩
    have h4 : s.power ≠ 4 := by omega
    have hp : (s.rd Reg.powerState 0) = 0 := h
    simp [State.stir, h, State.rouse, State.entering, State.wake]

/-- How a row that is an event of the Active engine runs: what holds of its operation holds of the row's next state. -/
theorem runs_event {i : Instr} {s : State} {op : State → State} {P : State → Prop}
    (hi : exec i s = .next (State.settle (s.event op))) (hp : s.power = 0)
    (h : ∀ q, (op (s.seen q)).boundaries = [] ∧ P (op (s.seen q)).pinned) : Runs i s P := by
  obtain ⟨q, hq⟩ := State.event_awake s op hp
  refine ⟨_, hi, ?_⟩
  rw [hq, State.settle_told _ (h q).1]
  exact (h q).2

/-- How a row that is no event of the engine runs. -/
theorem runs_direct {i : Instr} {s u : State} {P : State → Prop} (hi : exec i s = .next (State.settle u))
    (hb : u.boundaries = []) (h : P u.pinned) : Runs i s P := ⟨_, hi, by rw [State.settle_told _ hb]; exact h⟩

/-- A state that differs from u in the interrupt pins alone, once the boundaries are told. -/
def State.pinnedOf (u z : State) : Prop := z = { u with krdInt := z.krdInt, boundaries := [] }

theorem State.pinnedOf.rd {u z : State} (h : u.pinnedOf z) (o : Obj) (j : Nat) : z.rd o j = u.rd o j := by
  unfold State.pinnedOf at h; rw [h]; rfl

/-- How an event of the Active engine runs, its outcome known up to the pins. -/
theorem runs_event_pinned {i : Instr} {s : State} {op : State → State} {P : State → Prop}
    (hi : exec i s = .next (State.settle (s.event op))) (hp : s.power = 0)
    (h : ∀ q, (op (s.seen q)).boundaries = [] ∧ ∀ z, (op (s.seen q)).pinnedOf z → P z) : Runs i s P :=
  runs_event hi hp fun q => ⟨(h q).1, (h q).2 _ rfl⟩

/-- How a row that is no event runs, its outcome known up to the pins. -/
theorem runs_direct_pinned {i : Instr} {s u : State} {P : State → Prop} (hi : exec i s = .next (State.settle u))
    (hb : u.boundaries = []) (h : ∀ z, u.pinnedOf z → P z) : Runs i s P := runs_direct hi hb (h _ rfl)

@[simp] theorem State.rd_seen (s : State) (q : Nat) (o : Obj) (i : Nat) : (s.seen q).rd o i = s.rd o i := rfl
@[simp] theorem State.rd_pinned (s : State) (o : Obj) (i : Nat) : s.pinned.rd o i = s.rd o i := rfl
@[simp] theorem State.ctx_seen (s : State) (q x : Nat) : (s.seen q).ctx x = s.ctx x := rfl
@[simp] theorem State.ctx_pinned (s : State) (x : Nat) : s.pinned.ctx x = s.ctx x := rfl

/-! ## Stores without bad words -/

theorem State.storeRead_clean (s : State) (st off len : Nat) (e : Ev) (h : s.checks = []) : s.storeRead st off len e = (false, s) := by
  have : s.marked st off len = [] := by unfold State.marked; split <;> simp [h]
  simp [State.storeRead, this]

theorem State.storeWrite_clean (s : State) (st off len : Nat) (h : s.sound) : s.storeWrite st off len = s := by
  have hm : s.marked st off len = [] := by unfold State.marked; split <;> simp [h.1]
  simp [State.storeWrite, hm, State.injectWrite, h.2]

end Sys2Proof.Machine
end

