-- ==== Sys2Proof/Laws/Reads.lean ====
section
/-! SUPPORT. Which fields a read of the state depends on: states that agree in them give the same answer. -/

set_option Elab.async false

namespace Sys2Proof.Machine

variable {s t : State}

theorem State.rd_eq (h : t.objs = s.objs) : t.rd = s.rd := by funext o i; exact State.rd_congr h o i
theorem State.rb_eq (h : t.objs = s.objs) : t.rb = s.rb := by funext o i; exact State.rb_congr h o i
theorem State.power_eq (h : t.objs = s.objs) : t.power = s.power := by simp [State.power, State.rd_eq h]
theorem State.works_eq (h : t.objs = s.objs) : t.works = s.works := by
  funext n; simp [State.works, State.booted, State.fatal, State.power, State.unitRuns, State.rd_eq h]
theorem State.fatal_eq (h : t.objs = s.objs) : t.fatal = s.fatal := by simp [State.fatal, State.rd_eq h]
theorem State.booted_eq (h : t.objs = s.objs) : t.booted = s.booted := by simp [State.booted, State.rd_eq h]
theorem State.tallyOwned_eq (h : t.objs = s.objs) : t.tallyOwned = s.tallyOwned := by
  funext a b; simp [State.tallyOwned, State.rd_eq h]
theorem State.hostEnabled_eq (h : t.objs = s.objs) : t.hostEnabled = s.hostEnabled := by
  funext a; simp [State.hostEnabled, State.rb_eq h]
theorem State.contextHost_eq (h : t.objs = s.objs) : t.contextHost = s.contextHost := by
  funext a; simp [State.contextHost, State.rd_eq h, State.hostEnabled_eq h]
theorem State.channelOwner_eq (h : t.objs = s.objs) : t.channelOwner = s.channelOwner := by
  funext a; simp [State.channelOwner, State.rd_eq h]
theorem State.engineWindow_eq (h : t.objs = s.objs) : t.engineWindow = s.engineWindow := by
  funext a; simp [State.engineWindow, State.rd_eq h, State.rb_eq h]
theorem State.engineAddr_eq (h : t.objs = s.objs) : t.engineAddr = s.engineAddr := by
  funext a b c; simp [State.engineAddr, State.rd_eq h, State.engineWindow_eq h]
theorem State.hostWindow_eq (h : t.objs = s.objs) : t.hostWindow = s.hostWindow := by
  funext a b; simp [State.hostWindow, State.rd_eq h, State.rb_eq h]
theorem State.segmentOf_eq (h : t.objs = s.objs) : t.segmentOf = s.segmentOf := by
  funext c f k i
  induction f generalizing k i with
  | zero => rfl
  | succ f ih => simp only [State.segmentOf, State.rd_eq h, ih]
theorem State.bufLoc_eq (h : t.objs = s.objs) : t.bufLoc = s.bufLoc := by
  funext a b; simp only [State.bufLoc, State.rd_eq h, State.segmentOf_eq h, State.engineAddr_eq h]
theorem State.buf_eq (h : t.bufs = s.bufs) : t.buf = s.buf := by funext a b; simp [State.buf, h]
theorem State.ladleLoc_eq (h : t.objs = s.objs) (hb : t.bufs = s.bufs) : t.ladleLoc = s.ladleLoc := by
  funext a b c; simp only [State.ladleLoc, State.bufLoc_eq h, State.buf_eq hb]
theorem State.xlt_eq (h : t.objs = s.objs) (hb : t.bufs = s.bufs) : t.xlt = s.xlt := by
  funext a b c d; simp only [State.xlt, State.rd_eq h, State.rb_eq h, State.ladleLoc_eq h hb]
theorem State.memBad_eq (h : t.memStatus = s.memStatus) : t.memBad = s.memBad := by
  funext a b; simp only [State.memBad, h]
theorem State.memRead_eq (h : t.mem = s.mem) : t.memRead = s.memRead := by funext a b; simp only [State.memRead, h]
theorem State.ctx_eq (h : t.ctxs = s.ctxs) : t.ctx = s.ctx := by funext a; simp only [State.ctx, h]
theorem State.cmd_eq (h : t.cmds = s.cmds) : t.cmd = s.cmd := by funext a; simp only [State.cmd, h]
theorem State.ring_eq (h : t.rings = s.rings) : t.ring = s.ring := by funext a; simp only [State.ring, h]
theorem State.tally_eq (h : t.tallies = s.tallies) : t.tally = s.tally := by funext a; simp only [State.tally, h]
theorem State.storable_eq (h : t.objs = s.objs) (hb : t.bufs = s.bufs) (hm : t.memStatus = s.memStatus) : t.storable = s.storable := by
  funext a b c; simp only [State.storable, State.xlt_eq h hb, State.memBad_eq hm]

end Sys2Proof.Machine
end

