-- ==== Sys2Proof/Laws/Memory.lean ====
section
/-! SUPPORT. Memory as its readers and writers meet it: what a store leaves in memory, in the landing store and in scratch (R10, R369, R414). -/

set_option Elab.async false

namespace Sys2Proof.Machine

theorem leBytes_length (n x : Nat) : (leBytes n x).length = n := by
  induction n generalizing x with
  | zero => rfl
  | succ n ih => simp [leBytes, ih]

theorem leNat_leBytes (n x : Nat) : leNat (leBytes n x) = x % 256 ^ n := by
  induction n generalizing x with
  | zero => simp [leBytes, leNat, Nat.mod_one]
  | succ n ih =>
    have h : 256 ^ (n + 1) = 256 * 256 ^ n := by rw [Nat.pow_succ, Nat.mul_comm]
    rw [h, Nat.mod_mul]
    simp only [leBytes, leNat, ih, BitVec.toNat_ofNat, Nat.reducePow]

theorem onlyBytes_write (t : Tab Byte) (a : Nat) (l : List Byte) : onlyBytes t (Tab.writeBytes 0 t a l) a l := by
  intro b; rw [Tab.get_writeBytes]

theorem get_putAll (l : List Byte) (t : Tab Byte) (a k b : Nat) :
    Tab.get 0 ((l.zipIdx k).foldl (fun t (p : Byte × Nat) => Tab.put t (a + p.2) p.1) t) b =
      if a + k ≤ b ∧ b < a + k + l.length then l.getD (b - (a + k)) 0 else Tab.get 0 t b := by
  induction l generalizing t k with
  | nil => simp <;> omega
  | cons x l ih =>
    simp only [List.zipIdx_cons, List.foldl_cons]
    rw [ih]
    by_cases hx : b = a + k
    · subst hx
      rw [if_neg (by omega), if_pos (by simp)]
      simp [Tab.get_eq_find]
    · rw [show Tab.get 0 (Tab.put t (a + k) x) b = Tab.get 0 t b by
        rw [Tab.get_eq_find, Tab.get_eq_find, Tab.find_put_ne _ _ (Ne.symm hx)]]
      by_cases h : a + (k + 1) ≤ b ∧ b < a + (k + 1) + l.length
      · rw [if_pos h, if_pos (by simp; omega)]
        have : b - (a + k) = b - (a + (k + 1)) + 1 := by omega
        rw [this, List.getD_cons_succ]
      · rw [if_neg h, if_neg (by simp; omega)]

/-- A store that answers well: one run of bytes at the location it resolves to. -/
theorem State.hostWrite_ok {s : State} (hs : s.sound) {h a : Nat} {l : List Byte} (hw : s.storable h a l.length) :
    ∃ u, s.hostWrite h a l = (0, u) ∧ s.storesAt h a l u ∧ u = { s with mem := u.mem, landing := u.landing } := by
  unfold State.storable at hw
  unfold State.hostWrite State.storesAt
  split at hw
  · rename_i p hx
    simp only [hx]
    refine ⟨s.memWrite p l, ?_, ⟨onlyBytes_write _ _ _, rfl⟩, rfl⟩
    simp [State.writeLoc, hw]
  · rename_i q hx
    simp only [hx]
    refine ⟨{ s with landing := Tab.writeBytes 0 s.landing q l }, ?_, ⟨onlyBytes_write _ _ _, rfl⟩, rfl⟩
    simp only [State.writeLoc, State.landingWrite]
    rw [State.storeWrite_clean { s with landing := Tab.writeBytes 0 s.landing q l } _ _ _ ⟨hs.1, hs.2⟩]
  · exact hw.elim

/-- An aligned 8-byte store to a result space is one store to the completion ring. -/
theorem State.writeResult_ok {s : State} {k : Cmd} {off : Nat} {l : List Byte} (h8 : l.length = 8) (ho : off % 8 = 0) :
    s.writeResult k off l = (worse 0 (s.hostWrite k.host (s.resultAddr k off) l).1, (s.hostWrite k.host (s.resultAddr k off) l).2) := by
  have h1 : l.take (32 - off % 32) = l := by apply List.take_of_length_le; omega
  have h2 : l.drop (32 - off % 32) = [] := by apply List.drop_eq_nil_of_le; omega
  have hne : l ≠ [] := by rintro rfl; simp at h8
  unfold State.writeResult
  simp only [h1, h2]
  simp [chunks, hne]

theorem State.resultAddr_eq {s t : State} (h : t.objs = s.objs) : t.resultAddr = s.resultAddr := by
  funext k o; simp only [State.resultAddr, State.rd_eq h]

/-- What is stored at a place depends on the windows, the pools and the bytes alone. -/
theorem State.stored8_congr {s s' t t' : State} {i : Issue} {pl : Place} {l : List Byte} (h : s.stored8 i pl l t)
    (ho : s'.objs = s.objs) (hb : s'.bufs = s.bufs) (h1 : s'.mem = s.mem) (h2 : s'.landing = s.landing) (h3 : s'.scratch = s.scratch)
    (h4 : s'.cmds = s.cmds) (g1 : t'.mem = t.mem) (g2 : t'.landing = t.landing) (g3 : t'.scratch = t.scratch) (g4 : t'.cmds = t.cmds) :
    s'.stored8 i pl l t' := by
  cases pl with
  | mem a => simpa only [State.stored8, State.storesAt, State.xlt_eq ho hb, h1, h2, h3, h4, g1, g2, g3, g4] using h
  | scratch off => simpa only [State.stored8, h1, h2, h3, h4, g1, g2, g3, g4] using h
  | payload off => exact h
  | result off =>
    simpa only [State.stored8, State.storesAt, State.xlt_eq ho hb, State.resultAddr_eq ho, State.cmd_eq h4, State.cmd_eq g4, h1, h2, h3,
      g1, g2, g3] using h

/-- Every write of memory keeps its canonical form. -/
theorem Memory.wf_memWrite (s : State) (a : Nat) (l : List Byte) (h : Memory.wf s.mem = true) : Memory.wf (s.memWrite a l).mem = true :=
  Tab.wf_writeBytes l a h

theorem Memory.wf_clearRange (t : Tab Byte) (a n : Nat) (h : Memory.wf t = true) : Memory.wf (Tab.clearRange t a n) = true := by
  unfold Memory.wf Tab.wf at *
  simp only [Bool.and_eq_true, List.all_eq_true, decide_eq_true_eq] at *
  exact ⟨Tab.sorted_filter _ h.1, fun p hp => h.2 p (List.mem_filter.mp hp).1⟩

/-- Setting bytes one by one, as the save image is written, keeps the canonical form. -/
theorem Memory.wf_setAll (l : List (Nat × Byte)) (t : Tab Byte) (h : Memory.wf t = true) :
    Memory.wf (l.foldl (fun (t : Tab Byte) (p : Nat × Byte) => Tab.set memDefault t p.1 p.2) t) = true := by
  induction l generalizing t with
  | nil => exact h
  | cons p l ih => exact ih _ (Tab.wf_set p.1 p.2 h)

theorem Memory.wf_reset : Memory.wf State.reset.mem = true := rfl

end Sys2Proof.Machine
end

