-- ==== Sys2Proof/Laws/Fault.lean ====
section
/-! SUPPORT. What recording leaves alone: counters, history, capture and trace records reach only the fault units, the register file and the record rings (R460 to R470, R505). -/

set_option Elab.async false

namespace Sys2Proof.Machine

/-- State t differs from s at most in the register file, memory, and what the fault units keep. -/
def State.recorded (s t : State) : Prop :=
  t = { s with objs := t.objs, mem := t.mem, units := t.units, promo := t.promo, summary := t.summary, stopDeadline := t.stopDeadline }

theorem State.recorded.refl (s : State) : s.recorded s := rfl

theorem State.recorded.trans {s t u : State} (h : s.recorded t) (g : t.recorded u) : s.recorded u := by
  unfold State.recorded at *
  rw [g, h]

theorem State.wr_recorded (s : State) (o : Obj) (i v : Nat) : s.recorded (s.wr o i v) := rfl
theorem State.inc_recorded (s : State) (o : Obj) (i v : Nat) : s.recorded (s.inc o i v) := rfl
theorem State.memWrite_recorded (s : State) (a : Nat) (l : List Byte) : s.recorded (s.memWrite a l) := rfl
theorem State.modUnit_recorded (s : State) (u : Nat) (f : UnitFaults → UnitFaults) : s.recorded (s.modUnit u f) := rfl

theorem State.ringRecord_recorded (s : State) (win lg size n r : Nat) (o : Obj) (l : List Byte) :
    s.recorded (s.ringRecord win lg size n r o l) := by
  unfold State.ringRecord
  dsimp only
  split
  · exact .refl s
  · split
    · exact State.inc_recorded ..
    · exact (State.memWrite_recorded ..).trans (State.inc_recorded ..)

theorem State.telemetryPut_recorded (s : State) (b : Nat) : s.recorded (s.telemetryPut b) := by
  unfold State.telemetryPut
  dsimp only
  split
  · exact (State.ringRecord_recorded ..).trans (State.inc_recorded ..)
  · exact .refl s

theorem State.alarm_recorded (s : State) (r : FaultRec) : s.recorded (s.alarm r) := State.telemetryPut_recorded ..

theorem State.trace_recorded (s : State) (u e x h a b : Nat) : s.recorded (s.trace u e x h a b) := by
  unfold State.trace
  dsimp only
  split
  · exact (State.ringRecord_recorded ..).trans (State.inc_recorded ..)
  · exact .refl s

theorem State.appendHistory_recorded (s : State) (u : Nat) (r : FaultRec) : s.recorded (s.appendHistory u r) := by
  unfold State.appendHistory
  dsimp only
  split
  · exact (State.alarm_recorded s r).trans (State.modUnit_recorded ..)
  · exact ((State.alarm_recorded s r).trans (State.modUnit_recorded ..)).trans (State.inc_recorded ..)

theorem State.closeSummary_recorded (s : State) (src : Nat) : s.recorded (s.closeSummary src) := by
  unfold State.closeSummary
  split
  · exact .refl s
  · dsimp only
    split
    · exact .refl s
    · split
      · rfl
      · exact State.recorded.trans (t := { s with summary := Tab.drop s.summary src }) rfl (State.appendHistory_recorded ..)

theorem State.recordEvent_recorded (s : State) (r : FaultRec) : s.recorded (s.recordEvent r) := by
  unfold State.recordEvent
  dsimp only
  have h := State.closeSummary_recorded s r.source
  generalize s.closeSummary r.source = a at *
  split <;> split
  all_goals first
    | exact (h.trans (u := { a with summary := _ }) rfl).trans (State.appendHistory_recorded ..)
    | exact (h.trans (u := { a with summary := _ }) rfl).trans (State.inc_recorded ..)

theorem State.captureFirst_recorded (s : State) (r : FaultRec) : s.recorded (s.captureFirst r) := by
  unfold State.captureFirst
  dsimp only
  split
  · exact .refl s
  · exact State.modUnit_recorded ..

theorem State.countWindow_recorded (s : State) (src : Nat) : s.recorded (s.countWindow src).2 := by
  unfold State.countWindow
  dsimp only
  repeat' split
  all_goals rfl

theorem State.enterFatal_recorded (s : State) (src : Nat) : s.recorded (s.enterFatal src) := by
  unfold State.enterFatal
  split
  · exact .refl s
  · rfl

theorem State.armSlot_recorded (s : State) (r : FaultRec) (h : s.slotOpen (r.source / 256)) : s.recorded (s.armSlot r) := by
  unfold State.armSlot
  dsimp only
  split
  · rename_i hn
    obtain ⟨n, h8, hf⟩ := h
    rw [List.find?_eq_none] at hn
    exact absurd (by simp [hf]) (hn n (List.mem_range.mpr h8))
  · exact State.modUnit_recorded ..

theorem State.slotOpen.mono {s t : State} {u : Nat} (hs : s.slotOpen u) (h : t.units = s.units) : t.slotOpen u := by
  simpa only [State.slotOpen, State.unitFaults, h] using hs

/-- Recording keeps every escalation slot as it was. -/
def State.slotsKept (s t : State) : Prop := ∀ u, (t.unitFaults u).slots = (s.unitFaults u).slots

theorem State.slotsKept_of_units {s t : State} (h : t.units = s.units) : s.slotsKept t := fun u => by simp [State.unitFaults, h]

theorem State.slotsKept_modUnit (s : State) (u : Nat) (f : UnitFaults → UnitFaults) (h : ∀ x, (f x).slots = x.slots) :
    s.slotsKept (s.modUnit u f) := by
  intro v
  by_cases e : v = u
  · subst e; simp [State.unitFaults, State.modUnit, h]
  · simp [State.unitFaults, State.modUnit, Tab.get_set_ne _ _ _ _ (Ne.symm e)]

theorem State.slotsKept.trans {s t u : State} (h : s.slotsKept t) (g : t.slotsKept u) : s.slotsKept u := fun v => (g v).trans (h v)

theorem State.ringRecord_units (s : State) (win lg size n r : Nat) (o : Obj) (l : List Byte) :
    (s.ringRecord win lg size n r o l).units = s.units := by
  unfold State.ringRecord
  dsimp only
  repeat' split
  all_goals rfl

theorem State.alarm_units (s : State) (r : FaultRec) : (s.alarm r).units = s.units := by
  unfold State.alarm State.telemetryPut
  dsimp only
  split
  · rw [State.inc_units, State.ringRecord_units]
  · rfl

theorem State.appendHistory_slots (s : State) (u : Nat) (r : FaultRec) : s.slotsKept (s.appendHistory u r) := by
  unfold State.appendHistory
  dsimp only
  split
  · exact (State.slotsKept_of_units (State.alarm_units s r)).trans (State.slotsKept_modUnit _ _ _ fun x => rfl)
  · exact ((State.slotsKept_of_units (State.alarm_units s r)).trans (State.slotsKept_modUnit _ u
      (fun f => { f with history := (s.unitFaults u).history.drop 1 ++ [r] }) fun x => rfl)).trans (State.slotsKept_of_units rfl)

theorem State.closeSummary_slots (s : State) (src : Nat) : s.slotsKept (s.closeSummary src) := by
  unfold State.closeSummary
  split
  · exact fun u => rfl
  · dsimp only
    split
    · exact fun u => rfl
    · split
      · exact fun u => rfl
      · exact (State.slotsKept_of_units (t := { s with summary := _ }) rfl).trans (State.appendHistory_slots _ _ _)

theorem State.recordEvent_slots (s : State) (r : FaultRec) : s.slotsKept (s.recordEvent r) := by
  unfold State.recordEvent
  dsimp only
  have h := State.closeSummary_slots s r.source
  generalize s.closeSummary r.source = a at *
  split <;> split
  all_goals first
    | exact (h.trans (State.slotsKept_of_units (t := { a with summary := _ }) rfl)).trans (State.appendHistory_slots _ _ _)
    | exact (h.trans (State.slotsKept_of_units (t := { a with summary := _ }) rfl)).trans (State.slotsKept_of_units rfl)

theorem State.captureFirst_slots (s : State) (r : FaultRec) : s.slotsKept (s.captureFirst r) := by
  unfold State.captureFirst
  dsimp only
  split
  · exact fun u => rfl
  · exact State.slotsKept_modUnit _ _ _ fun x => rfl

theorem State.countWindow_units (s : State) (src : Nat) : (s.countWindow src).2.units = s.units := by
  unfold State.countWindow
  dsimp only
  repeat' split
  all_goals rfl

/-- An event whose reaction is not the kill of a context, in a unit with a free escalation slot, only records. -/
theorem State.raise_recorded (s : State) (e : Ev) (h : s.slotOpen (e.src / 256))
    (h3 : ∀ row, sourceRow e.src = some row → row.promoted ≠ 3 ∧ e.reaction row ≠ 3) : s.recorded (s.raise e) := by
  unfold State.raise
  split
  · exact .refl s
  · rename_i row hrow
    dsimp only
    have a1 := State.inc_recorded s Reg.eventCount e.src 1
    have b1 : s.slotsKept (s.inc Reg.eventCount e.src 1) := State.slotsKept_of_units rfl
    generalize s.inc Reg.eventCount e.src 1 = s1 at *
    have a2 := a1.trans (State.wr_recorded s1 Reg.faultStatus (e.src / 256) (setBit (s1.rd Reg.faultStatus (e.src / 256)) (e.src % 256)))
    have b2 := b1.trans (State.slotsKept_of_units
      (t := s1.wr Reg.faultStatus (e.src / 256) (setBit (s1.rd Reg.faultStatus (e.src / 256)) (e.src % 256))) rfl)
    generalize s1.wr Reg.faultStatus (e.src / 256) (setBit (s1.rd Reg.faultStatus (e.src / 256)) (e.src % 256)) = s2 at *
    have a3 : s.recorded (if row.cls = 0 then s2.countWindow e.src else (false, s2)).2 := by
      split
      · exact a2.trans (State.countWindow_recorded ..)
      · exact a2
    have b3 : s.slotsKept (if row.cls = 0 then s2.countWindow e.src else (false, s2)).2 := by
      split
      · exact b2.trans (State.slotsKept_of_units (State.countWindow_units ..))
      · exact b2
    generalize (if row.cls = 0 then s2.countWindow e.src else (false, s2)) = pr at *
    have a4 := fun r => (a3.trans (State.recordEvent_recorded pr.2 r)).trans (State.captureFirst_recorded _ r)
    have b4 := fun r => (b3.trans (State.recordEvent_slots pr.2 r)).trans (State.captureFirst_slots _ r)
    have hr3 : (if pr.1 = true then row.promoted else if row.cls = 0 then 0 else e.reaction row) ≠ 3 := by
      split
      · exact (h3 row hrow).1
      · split
        · decide
        · exact (h3 row hrow).2
    generalize (if pr.1 = true then 1 else row.cls) = cls at *
    generalize (if pr.1 = true then row.promoted else if row.cls = 0 then 0 else e.reaction row) = react at *
    split
    · exact a4 _
    · split
      · exact (a4 _).trans (State.enterFatal_recorded ..)
      · split
        · exact a4 _
        · refine (a4 _).trans (State.armSlot_recorded _ _ ?_)
          obtain ⟨n, hn, hf⟩ := h
          exact ⟨n, hn, by rw [b4]; exact hf⟩

end Sys2Proof.Machine
end

