-- ==== Sys2Proof/Laws/Cmds.lean ====
section
/-! SUPPORT. Commands becoming ready: the record, the fences released, the context freed (R78, R88, R91, R93, R361). -/

set_option Elab.async false

namespace Sys2Proof.Machine

@[simp] theorem State.cmd_seen (s : State) (q u : Nat) : (s.seen q).cmd u = s.cmd u := rfl
@[simp] theorem State.cmd_pinned (s : State) (u : Nat) : s.pinned.cmd u = s.cmd u := rfl

theorem State.cmd_modCmd_ne (s : State) {u v : Nat} (f : Cmd → Cmd) (h : v ≠ u) : (s.modCmd u f).cmd v = s.cmd v := by
  simp [State.cmd, Tab.find_modify_ne _ f (Ne.symm h)]

/-- Released fences: a command already ready stays as it is, and only commands and the ring change. -/
theorem State.releaseFences_spec (s : State) (i : Nat) :
    (∀ u k, s.cmd u = some k → k.ready = true → (s.releaseFences i).cmd u = some k) ∧
      s.releaseFences i = { s with cmds := (s.releaseFences i).cmds, rings := (s.releaseFences i).rings } := by
  unfold State.releaseFences
  dsimp only
  generalize hgo : (fun (acc : State × List Cmd) (uid : Nat) =>
    match acc.1.cmd uid with
    | none => acc
    | some k =>
      if (!k.ready && k.status == 0 && fenceFree k acc.2) = true then
        ({ acc.1 with cmds := Tab.put acc.1.cmds uid (k.finish acc.1.tick 0) }, acc.2 ++ [k.finish acc.1.tick 0])
      else (acc.1, acc.2 ++ [k])) = go
  have key : ∀ (l : List Nat) (acc : State × List Cmd),
      (∀ u k, acc.1.cmd u = some k → k.ready = true → (l.foldl go acc).1.cmd u = some k) ∧
        (l.foldl go acc).1 = { acc.1 with cmds := (l.foldl go acc).1.cmds } := by
    intro l
    induction l with
    | nil => intro acc; exact ⟨fun u k h _ => h, rfl⟩
    | cons x l ih =>
      intro acc
      have step : (∀ u k, acc.1.cmd u = some k → k.ready = true → (go acc x).1.cmd u = some k) ∧
          (go acc x).1 = { acc.1 with cmds := (go acc x).1.cmds } := by
        rw [← hgo]
        dsimp only
        split
        · exact ⟨fun u k h _ => h, rfl⟩
        · rename_i k hk
          split
          · rename_i hc
            refine ⟨fun u k' h hr => ?_, rfl⟩
            by_cases e : u = x
            · subst e; rw [hk] at h; cases h; simp [hr] at hc
            · show Tab.find (Tab.put acc.1.cmds x _) u = some k'
              rw [Tab.find_put_ne _ _ (Ne.symm e)]; exact h
          · exact ⟨fun u k h _ => h, rfl⟩
      obtain ⟨h1, h2⟩ := ih (go acc x)
      refine ⟨fun u k h hr => h1 u k (step.1 u k h hr) hr, ?_⟩
      rw [List.foldl_cons, h2, step.2]
  obtain ⟨h1, h2⟩ := key (s.ring i).rob (s, [])
  refine ⟨fun u k h hr => ?_, ?_⟩
  · exact h1 u k h hr
  · show State.modRing _ _ _ = _
    rw [h2]; rfl

/-- What ending the run of a context may change: commands, rings, contexts, counters, waits, and scratch that it clears. -/
def State.ended (s t : State) : Prop :=
  t = { s with cmds := t.cmds, rings := t.rings, ctxs := t.ctxs, objs := t.objs, watchTable := t.watchTable, pollList := t.pollList
               scratch := t.scratch, excs := t.excs } ∧ ∀ b, Tab.get 0 s.scratch b = 0 → Tab.get 0 t.scratch b = 0

theorem State.ended.refl (s : State) : s.ended s := ⟨rfl, fun _ h => h⟩
theorem State.ended.trans {s t u : State} (h : s.ended t) (g : t.ended u) : s.ended u := by
  refine ⟨?_, fun b hb => g.2 b (h.2 b hb)⟩
  have h1 := h.1
  have g1 := g.1
  rw [g1, h1]

theorem Tab.get_clearRange (t : Tab Byte) (lo n b : Nat) :
    Tab.get 0 (Tab.clearRange t lo n) b = if lo ≤ b ∧ b < lo + n then 0 else Tab.get 0 t b := by
  induction t with
  | nil => simp [Tab.clearRange, Tab.get]
  | cons p t ih =>
    obtain ⟨k, v⟩ := p
    have e : Tab.clearRange ((k, v) :: t) lo n = if lo ≤ k ∧ k < lo + n then Tab.clearRange t lo n else (k, v) :: Tab.clearRange t lo n := by
      unfold Tab.clearRange
      rw [List.filter_cons]
      by_cases h : lo ≤ k ∧ k < lo + n
      · simp [h.1, h.2]
      · rw [if_neg h, if_pos]
        simp; omega
    rw [e]
    by_cases h : lo ≤ k ∧ k < lo + n
    · rw [if_pos h, ih]
      by_cases hb : lo ≤ b ∧ b < lo + n
      · rw [if_pos hb, if_pos hb]
      · rw [if_neg hb, if_neg hb]
        have : k ≠ b := by rintro rfl; exact hb h
        simp [Tab.get, this]
    · rw [if_neg h]
      by_cases hk : k = b
      · subst hk; rw [if_neg h]; simp [Tab.get]
      · simp only [Tab.get, hk, if_false]; exact ih

theorem State.clearScratch_ended (s : State) (n : Nat) : s.ended (s.clearScratch n) := by
  refine ⟨rfl, fun b hb => ?_⟩
  show Tab.get 0 (Tab.clearRange s.scratch _ _) b = 0
  rw [Tab.get_clearRange]; split
  · rfl
  · exact hb

theorem State.modCtx_ended (s : State) (x : Nat) (f : Ctx → Ctx) : s.ended (s.modCtx x f) := ⟨rfl, fun _ h => h⟩
theorem State.modCmd_ended (s : State) (x : Nat) (f : Cmd → Cmd) : s.ended (s.modCmd x f) := ⟨rfl, fun _ h => h⟩
theorem State.modRing_ended (s : State) (x : Nat) (f : Ring → Ring) : s.ended (s.modRing x f) := ⟨rfl, fun _ h => h⟩
theorem State.inc_ended (s : State) (o : Obj) (i v : Nat) : s.ended (s.inc o i v) := ⟨rfl, fun _ h => h⟩

theorem State.stopPattern_ended (s : State) (x : Nat) : s.ended (s.stopPattern x) := by
  unfold State.stopPattern
  split
  · exact .refl s
  · rename_i c hc
    dsimp only
    have h1 : s.ended (s.dropWaits x) := ⟨rfl, fun _ h => h⟩
    generalize s.dropWaits x = a at *
    have h2 : s.ended (if (c.busy && c.residency == 1) = true then (a.clearScratch c.seq).modCtx x fun c => { c with take := false } else a) := by
      split
      · exact h1.trans ((State.clearScratch_ended ..).trans (State.modCtx_ended ..))
      · exact h1
    generalize (if (c.busy && c.residency == 1) = true then (a.clearScratch c.seq).modCtx x fun c => { c with take := false } else a) = b at *
    split
    · exact (h2.trans (u := { b with excs := Tab.drop b.excs c.seq }) ⟨rfl, fun _ h => h⟩).trans (State.modCtx_ended ..)
    · exact h2.trans (State.modCtx_ended ..)

theorem State.afterReady_ended (s : State) (x : Nat) : s.ended (s.afterReady x) := by
  unfold State.afterReady
  split <;> exact State.modCtx_ended ..

theorem State.stopPattern_cmds (s : State) (x : Nat) : (s.stopPattern x).cmds = s.cmds := by
  unfold State.stopPattern
  dsimp only
  repeat' split
  all_goals rfl

theorem State.afterReady_cmds (s : State) (x : Nat) : (s.afterReady x).cmds = s.cmds := by
  unfold State.afterReady; split <;> rfl

theorem State.modCtx_cmds' (s : State) (x : Nat) (f : Ctx → Ctx) : (s.modCtx x f).cmds = s.cmds := rfl

/-- What a command's context does when the command, not a DISPATCH, has become ready. -/
def State.freeContext (s : State) (uid : Nat) (k : Cmd) (op : Nat) : State :=
  let s := match s.ctx k.ctx with
    | some c => if op = 2 then { s with boundaries := s.boundaries ++ [(k.ctx, c.step)] } else s
    | none => s
  let s := s.modCtx k.ctx fun c => { c with
    commandsDone := (c.commandsDone + 1) % 2 ^ 64
    step := if op = 2 then (c.step + 1) % 2 ^ 32 else c.step
    abortCount := if c.cmd = some uid then 0 else c.abortCount
    replayPending := if c.cmd = some uid then false else c.replayPending }
  match s.ctx k.ctx with
  | none => s
  | some c =>
    if c.cmd = some uid then
      ((if c.busy then s.stopPattern k.ctx else s).modCtx k.ctx fun c => { c with cmd := none, wide := 0 }).afterReady k.ctx
    else if c.cmd = none then (if c.state = 2 then s.afterReady k.ctx else s) else s

theorem State.freeContext_ended (s : State) (uid : Nat) (k : Cmd) {op : Nat} (h : op ≠ 2) : s.ended (s.freeContext uid k op) := by
  unfold State.freeContext
  dsimp only
  simp only [h, if_false]
  have e : (match s.ctx k.ctx with | some c => s | none => s) = s := by split <;> rfl
  rw [e]
  generalize hf : (fun c : Ctx => { c with
    commandsDone := (c.commandsDone + 1) % 2 ^ 64
    step := c.step
    abortCount := if c.cmd = some uid then 0 else c.abortCount
    replayPending := if c.cmd = some uid then false else c.replayPending }) = f
  have h1 := State.modCtx_ended s k.ctx f
  generalize s.modCtx k.ctx f = a at *
  split
  · exact h1
  · rename_i c hc
    split
    · have h2 : s.ended (if c.busy = true then a.stopPattern k.ctx else a) := by
        split
        · exact h1.trans (State.stopPattern_ended ..)
        · exact h1
      exact (h2.trans (State.modCtx_ended ..)).trans (State.afterReady_ended ..)
    · split
      · split
        · exact h1.trans (State.afterReady_ended ..)
        · exact h1
      · exact h1

theorem State.freeContext_cmds (s : State) (uid : Nat) (k : Cmd) (op : Nat) : (s.freeContext uid k op).cmds = s.cmds := by
  unfold State.freeContext
  dsimp only
  have e : (match s.ctx k.ctx with
    | some c => if op = 2 then { s with boundaries := s.boundaries ++ [(k.ctx, c.step)] } else s
    | none => s).cmds = s.cmds := by
    split
    · split <;> rfl
    · rfl
  generalize (match s.ctx k.ctx with
    | some c => if op = 2 then { s with boundaries := s.boundaries ++ [(k.ctx, c.step)] } else s
    | none => s) = a at *
  split
  · exact e
  · rename_i c hc
    split
    · rw [State.afterReady_cmds, State.modCtx_cmds]
      split
      · rw [State.stopPattern_cmds, State.modCtx_cmds, e]
      · exact e
    · split
      · split
        · rw [State.afterReady_cmds, State.modCtx_cmds, e]
        · exact e
      · exact e

/-- A command made ready: its record carries the status and the tick (R88, R91), and what may change besides is what ending a context's run changes. -/
theorem State.makeReady_spec {s : State} {u st : Nat} {k : Cmd} (hk : s.cmd u = some k) (hr : k.ready = false) :
    (s.makeReady u st).cmd u = some (k.finish s.tick st) ∧ (hOp k.header ≠ 2 → s.ended (s.makeReady u st)) := by
  unfold State.makeReady
  simp only [hk, hr, Bool.false_eq_true, if_false]
  generalize hk' : k.finish s.tick st = k'
  have hready : k'.ready = true := by rw [← hk']; rfl
  have a1 : s.ended { s with cmds := Tab.put s.cmds u k' } := ⟨rfl, fun _ h => h⟩
  have b1 : Tab.find ({ s with cmds := Tab.put s.cmds u k' } : State).cmds u = some k' := Tab.find_put_same ..
  generalize ({ s with cmds := Tab.put s.cmds u k' } : State) = s1 at *
  generalize (isRefusal st || k.denied) = rf
  have a2 : s.ended (if rf = true then s1.modRing k.ring fun r => { r with lastRefusal := st } else s1) := by
    split
    · exact a1.trans (State.modRing_ended ..)
    · exact a1
  have b2 : Tab.find (if rf = true then s1.modRing k.ring fun r => { r with lastRefusal := st } else s1).cmds u = some k' := by
    split <;> exact b1
  generalize (if rf = true then s1.modRing k.ring fun r => { r with lastRefusal := st } else s1) = s2 at *
  have a3 : s.ended (if (k'.late s2.tick && !rf) = true then
      (s2.modCtx k.ctx fun c => { c with deadlineMisses := satAdd 32 c.deadlineMisses 1 }).inc Reg.hostDeadlineMisses k.host 1 else s2) := by
    split
    · exact a2.trans ((State.modCtx_ended ..).trans (State.inc_ended ..))
    · exact a2
  have b3 : Tab.find (if (k'.late s2.tick && !rf) = true then
      (s2.modCtx k.ctx fun c => { c with deadlineMisses := satAdd 32 c.deadlineMisses 1 }).inc Reg.hostDeadlineMisses k.host 1 else s2).cmds u = some k' := by
    split <;> exact b2
  generalize (if (k'.late s2.tick && !rf) = true then
      (s2.modCtx k.ctx fun c => { c with deadlineMisses := satAdd 32 c.deadlineMisses 1 }).inc Reg.hostDeadlineMisses k.host 1 else s2) = s3 at *
  have a4 : s.ended (s3.dropCmdWaits u) := a3.trans ⟨rfl, fun _ h => h⟩
  have b4 : Tab.find (s3.dropCmdWaits u).cmds u = some k' := b3
  generalize s3.dropCmdWaits u = s4 at *
  have main : ∀ s5 : State, Tab.find s5.cmds u = some k' →
      (State.releaseFences (s5.modCtx k.ctx fun c => { c with
        resetting := c.resetting && s5.cmds.any fun p => p.2.ctx == k.ctx && p.2.marked != 0 && !p.2.ready }) k.ring).cmd u = some k' ∧
      (s.ended s5 → s.ended (State.releaseFences (s5.modCtx k.ctx fun c => { c with
        resetting := c.resetting && s5.cmds.any fun p => p.2.ctx == k.ctx && p.2.marked != 0 && !p.2.ready }) k.ring)) := by
    intro s5 h5
    generalize hg : (fun c : Ctx => { c with
        resetting := c.resetting && s5.cmds.any fun p => p.2.ctx == k.ctx && p.2.marked != 0 && !p.2.ready }) = g
    obtain ⟨c1, c2⟩ := State.releaseFences_spec (s5.modCtx k.ctx g) k.ring
    refine ⟨c1 u k' h5 hready, fun h => ?_⟩
    exact (h.trans (State.modCtx_ended s5 k.ctx g)).trans ⟨by rw [c2], fun b hb => by rw [c2]; exact hb⟩
  have hfree : (if (hOp k.header = 1 ∨ hOp k.header = 2) ∧ (!rf) = true then s4.freeContext u k (hOp k.header) else s4) =
      (if (hOp k.header = 1 ∨ hOp k.header = 2) ∧ (!rf) = true then s4.freeContext u k (hOp k.header) else s4) := rfl
  have hc : Tab.find (if (hOp k.header = 1 ∨ hOp k.header = 2) ∧ (!rf) = true then s4.freeContext u k (hOp k.header) else s4).cmds u = some k' := by
    split
    · rw [State.freeContext_cmds]; exact b4
    · exact b4
  have he : hOp k.header ≠ 2 → s.ended (if (hOp k.header = 1 ∨ hOp k.header = 2) ∧ (!rf) = true then s4.freeContext u k (hOp k.header) else s4) := by
    intro h2
    split
    · exact a4.trans (State.freeContext_ended _ _ _ h2)
    · exact a4
  have := main _ hc
  exact ⟨this.1, fun h2 => this.2 (he h2)⟩

/-- What the record of a command made ready that is neither RUN nor DISPATCH leaves of the rest: its context but for two fields, every other context, the order of every ring. -/
def State.plainReady (s : State) (x : Nat) (t : State) : Prop :=
  t = { s with cmds := t.cmds, rings := t.rings, ctxs := t.ctxs, objs := t.objs, watchTable := t.watchTable, pollList := t.pollList } ∧
    s.keepsContexts t x ∧
    (∀ c, s.ctx x = some c → ∃ c', t.ctx x = some c' ∧ c' = { c with deadlineMisses := c'.deadlineMisses, resetting := c'.resetting }) ∧
    ∀ j, (t.ring j).rob = (s.ring j).rob ∧ (t.ring j).submitHead = (s.ring j).submitHead

theorem State.plainReady.refl (s : State) (x : Nat) : s.plainReady x s :=
  ⟨rfl, fun _ _ => rfl, fun c hc => ⟨c, hc, rfl⟩, fun _ => ⟨rfl, rfl⟩⟩

theorem State.plainReady.trans {s t u : State} {x : Nat} (h : s.plainReady x t) (g : t.plainReady x u) : s.plainReady x u := by
  obtain ⟨h1, h2, h3, h4⟩ := h
  obtain ⟨g1, g2, g3, g4⟩ := g
  refine ⟨by rw [g1, h1], fun y hy => (g2 y hy).trans (h2 y hy), fun c hc => ?_, fun j => ⟨(g4 j).1.trans (h4 j).1, (g4 j).2.trans (h4 j).2⟩⟩
  obtain ⟨c', a, b⟩ := h3 c hc
  obtain ⟨c'', a', b'⟩ := g3 c' a
  refine ⟨c'', a', ?_⟩
  rw [b'] ; rw [b]

theorem State.modRing_plain (s : State) (x i : Nat) (f : Ring → Ring) (h : ∀ r, (f r).rob = r.rob ∧ (f r).submitHead = r.submitHead) :
    s.plainReady x (s.modRing i f) := by
  refine ⟨rfl, fun _ _ => rfl, fun c hc => ⟨c, hc, rfl⟩, fun j => ?_⟩
  show (Tab.get {} (Tab.set {} s.rings i (f (s.ring i))) j).rob = _ ∧ (Tab.get {} (Tab.set {} s.rings i (f (s.ring i))) j).submitHead = _
  by_cases e : i = j
  · subst e; rw [Tab.get_set_same]; exact h _
  · rw [Tab.get_set_ne _ _ _ _ e]; exact ⟨rfl, rfl⟩

theorem State.modCtx_plain (s : State) (x : Nat) (f : Ctx → Ctx) (h : ∀ c, f c = { c with deadlineMisses := (f c).deadlineMisses, resetting := (f c).resetting }) :
    s.plainReady x (s.modCtx x f) := by
  refine ⟨rfl, fun y hy => State.ctx_modCtx_ne _ _ hy, fun c hc => ⟨f c, ?_, h c⟩, fun _ => ⟨rfl, rfl⟩⟩
  rw [State.ctx_modCtx_same, hc]; rfl

theorem State.releaseFences_plain (s : State) (x i : Nat) : s.plainReady x (s.releaseFences i) := by
  have hrf := State.releaseFences_spec s i
  refine ⟨by rw [hrf.2], fun y hy => by rw [hrf.2]; rfl, fun c hc => ⟨c, by rw [hrf.2]; exact hc, rfl⟩, fun j => ?_⟩
  unfold State.releaseFences
  dsimp only
  generalize hgo : (fun (acc : State × List Cmd) (uid : Nat) =>
    match acc.1.cmd uid with
    | none => acc
    | some k =>
      if (!k.ready && k.status == 0 && fenceFree k acc.2) = true then
        ({ acc.1 with cmds := Tab.put acc.1.cmds uid (k.finish acc.1.tick 0) }, acc.2 ++ [k.finish acc.1.tick 0])
      else (acc.1, acc.2 ++ [k])) = go
  have key : ∀ (l : List Nat) (acc : State × List Cmd), (l.foldl go acc).1.rings = acc.1.rings := by
    intro l
    induction l with
    | nil => intro acc; rfl
    | cons y l ih =>
      intro acc
      rw [List.foldl_cons, ih]
      rw [← hgo]; dsimp only
      split
      · rfl
      · split <;> rfl
  have hr : ((s.ring i).rob.foldl go (s, [])).1.rings = s.rings := key _ _
  have hm := (State.modRing_plain ((s.ring i).rob.foldl go (s, [])).1 x i (fun r => { r with fenceWait := r.rob.any fun u => match ((s.ring i).rob.foldl go (s, [])).1.cmd u with
    | some k => hOp k.header == 4 && !k.ready
    | none => false }) (fun r => ⟨rfl, rfl⟩)).2.2.2 j
  rw [State.ring_eq hr] at hm
  exact hm

/-- A command that is neither RUN nor DISPATCH made ready. -/
theorem State.makeReady_plain {s : State} {u st : Nat} {k : Cmd} (hk : s.cmd u = some k) (hr : k.ready = false) (h1 : hOp k.header ≠ 1)
    (h2 : hOp k.header ≠ 2) : (s.makeReady u st).cmd u = some (k.finish s.tick st) ∧ s.plainReady k.ctx (s.makeReady u st) := by
  refine ⟨(State.makeReady_spec hk hr).1, ?_⟩
  unfold State.makeReady
  simp only [hk, hr, Bool.false_eq_true, if_false, h1, h2, or_self, false_and]
  generalize k.finish s.tick st = k'
  have a1 : s.plainReady k.ctx { s with cmds := Tab.put s.cmds u k' } := ⟨rfl, fun _ _ => rfl, fun c hc => ⟨c, hc, rfl⟩, fun _ => ⟨rfl, rfl⟩⟩
  generalize ({ s with cmds := Tab.put s.cmds u k' } : State) = s1 at *
  generalize (isRefusal st || k.denied) = rf
  have a2 : s.plainReady k.ctx (if rf = true then s1.modRing k.ring fun r => { r with lastRefusal := st } else s1) := by
    split
    · exact a1.trans (State.modRing_plain _ _ _ _ fun r => ⟨rfl, rfl⟩)
    · exact a1
  generalize (if rf = true then s1.modRing k.ring fun r => { r with lastRefusal := st } else s1) = s2 at *
  have a3 : s.plainReady k.ctx (if (k'.late s2.tick && !rf) = true then
      (s2.modCtx k.ctx fun c => { c with deadlineMisses := satAdd 32 c.deadlineMisses 1 }).inc Reg.hostDeadlineMisses k.host 1 else s2) := by
    split
    · exact (a2.trans (State.modCtx_plain _ _ _ fun c => rfl)).trans ⟨rfl, fun _ _ => rfl, fun c hc => ⟨c, hc, rfl⟩, fun _ => ⟨rfl, rfl⟩⟩
    · exact a2
  generalize (if (k'.late s2.tick && !rf) = true then
      (s2.modCtx k.ctx fun c => { c with deadlineMisses := satAdd 32 c.deadlineMisses 1 }).inc Reg.hostDeadlineMisses k.host 1 else s2) = s3 at *
  have a4 : s.plainReady k.ctx (s3.dropCmdWaits u) := a3.trans ⟨rfl, fun _ _ => rfl, fun c hc => ⟨c, hc, rfl⟩, fun _ => ⟨rfl, rfl⟩⟩
  generalize s3.dropCmdWaits u = s4 at *
  exact (a4.trans (State.modCtx_plain _ _ _ fun c => rfl)).trans (State.releaseFences_plain _ _ _)

end Sys2Proof.Machine
end

