-- ==== Sys2Proof/Laws/Records.lean ====
section
/-! SUPPORT. Which objects the record of a fault may change (R460 to R470, R505). -/

set_option Elab.async false

namespace Sys2Proof.Machine

theorem State.keepsFamilies.refl (s : State) (l : List Obj) : s.keepsFamilies s l := fun _ _ _ => rfl

theorem State.keepsFamilies.trans {s t u : State} {l : List Obj} (h : s.keepsFamilies t l) (g : t.keepsFamilies u l) : s.keepsFamilies u l :=
  fun o ho i => (g o ho i).trans (h o ho i)

theorem State.keepsFamilies.mono {s t : State} {l m : List Obj} (h : s.keepsFamilies t l) (hm : ∀ o ∈ l, o ∈ m) : s.keepsFamilies t m :=
  fun o ho i => h o (fun b hb => ho b (hm b hb)) i

theorem State.keepsFamilies_objs {s t : State} (h : t.objs = s.objs) (l : List Obj) : s.keepsFamilies t l := fun o _ i => State.rd_congr h o i

theorem State.keepsFamilies_wr {s t : State} {o : Obj} {i v : Nat} {l : List Obj} (h : t.objs = (s.wr o i v).objs) (ho : o ∈ l) : s.keepsFamilies t l := by
  intro o' hk j
  rw [State.rd_congr h, State.rd_wr_ne]
  exact Obj.key_ne _ _ (Ne.symm (hk o ho))

theorem State.keepsFamilies_inc {s t : State} {o : Obj} {i n : Nat} {l : List Obj} (h : t.objs = (s.inc o i n).objs) (ho : o ∈ l) : s.keepsFamilies t l :=
  State.keepsFamilies_wr (v := _) h ho

/-- What the record of a counted event may change: all of the fault objects but EventCount, FatalState and FatalSource. -/
def recordObjects : List Obj := (faultObjects.drop 1).take 6

theorem State.ringRecord_keeps (s : State) (win lg size n r : Nat) (o : Obj) (l : List Byte) (m : List Obj) (ho : o ∈ m) :
    s.keepsFamilies (s.ringRecord win lg size n r o l) m := by
  unfold State.ringRecord
  dsimp only
  split
  · exact .refl s m
  · split
    · exact State.keepsFamilies_inc rfl ho
    · exact State.keepsFamilies_inc (s := s) rfl ho

theorem State.alarm_keeps (s : State) (r : FaultRec) : s.keepsFamilies (s.alarm r) recordObjects := by
  unfold State.alarm State.telemetryPut
  dsimp only
  split
  · exact (State.ringRecord_keeps _ _ _ _ _ _ _ _ _ (by decide)).trans (State.keepsFamilies_inc rfl (by decide))
  · exact .refl s _

theorem State.appendHistory_keeps (s : State) (u : Nat) (r : FaultRec) : s.keepsFamilies (s.appendHistory u r) recordObjects := by
  unfold State.appendHistory
  dsimp only
  have h := State.alarm_keeps s r
  split
  · exact h.trans (State.keepsFamilies_objs rfl _)
  · exact (h.trans (State.keepsFamilies_objs (t := (s.alarm r).modUnit u _) rfl _)).trans (State.keepsFamilies_inc rfl (by decide))

theorem State.closeSummary_keeps (s : State) (src : Nat) : s.keepsFamilies (s.closeSummary src) recordObjects := by
  unfold State.closeSummary
  split
  · exact .refl s _
  · dsimp only
    split
    · exact .refl s _
    · split
      · exact State.keepsFamilies_objs rfl _
      · exact (State.keepsFamilies_objs (t := { s with summary := Tab.drop s.summary src }) rfl _).trans (State.appendHistory_keeps _ _ _)

theorem State.recordEvent_keeps (s : State) (r : FaultRec) : s.keepsFamilies (s.recordEvent r) recordObjects := by
  unfold State.recordEvent
  dsimp only
  have h := State.closeSummary_keeps s r.source
  generalize s.closeSummary r.source = a at *
  split <;> split
  all_goals first
    | exact (h.trans (State.keepsFamilies_objs (t := { a with summary := _ }) rfl _)).trans (State.appendHistory_keeps _ _ _)
    | exact (h.trans (State.keepsFamilies_objs (t := { a with summary := _ }) rfl _)).trans (State.keepsFamilies_inc rfl (by decide))

theorem State.captureFirst_keeps (s : State) (r : FaultRec) (l : List Obj) : s.keepsFamilies (s.captureFirst r) l := by
  unfold State.captureFirst
  dsimp only
  split
  · exact .refl s _
  · exact State.keepsFamilies_objs rfl _

theorem State.countWindow_keeps (s : State) (src : Nat) : s.keepsFamilies (s.countWindow src).2 recordObjects := by
  unfold State.countWindow
  dsimp only
  split
  · exact .refl s _
  · repeat' split
    all_goals first
      | exact State.keepsFamilies_objs rfl _
      | exact State.keepsFamilies_inc (s := s) (o := Reg.promotedCount) (i := src) (n := 1) rfl (by decide)

theorem State.enterFatal_keeps (s : State) (src : Nat) : s.keepsFamilies (s.enterFatal src) (faultObjects.drop 1) := by
  unfold State.enterFatal
  split
  · exact .refl s _
  · exact (State.keepsFamilies_wr (t := s.wr Reg.fatalState 0 1) rfl (by decide)).trans (State.keepsFamilies_wr rfl (by decide))

theorem State.armSlot_keeps (s : State) (r : FaultRec) (h : s.slotOpen (r.source / 256)) (l : List Obj) : s.keepsFamilies (s.armSlot r) l := by
  unfold State.armSlot
  dsimp only
  split
  · rename_i hn
    obtain ⟨n, h8, hf⟩ := h
    rw [List.find?_eq_none] at hn
    exact absurd (by simp [hf]) (hn n (List.mem_range.mpr h8))
  · exact State.keepsFamilies_objs rfl _

/-- An event that only records counts once in EventCount, and leaves every object but the fault objects alone. -/
theorem State.raise_keeps (s : State) (e : Ev) (row : SourceRow) (hr : sourceRow e.src = some row) (h : s.slotOpen (e.src / 256))
    (h3 : row.promoted ≠ 3 ∧ e.reaction row ≠ 3) : (s.raise e).rd Reg.eventCount e.src = (s.rd Reg.eventCount e.src + 1) % 2 ^ 64 ∧
      s.keepsFamilies (s.raise e) faultObjects := by
  have main : ∃ s1 : State, s1.objs = (s.inc Reg.eventCount e.src 1).objs ∧ s1.keepsFamilies (s.raise e) (faultObjects.drop 1) := by
    refine ⟨s.inc Reg.eventCount e.src 1, rfl, ?_⟩
    unfold State.raise
    simp only [hr]
    have b1 : s.slotsKept (s.inc Reg.eventCount e.src 1) := State.slotsKept_of_units rfl
    generalize s.inc Reg.eventCount e.src 1 = s1 at *
    have a2 : s1.keepsFamilies (s1.wr Reg.faultStatus (e.src / 256) (setBit (s1.rd Reg.faultStatus (e.src / 256)) (e.src % 256))) recordObjects :=
      State.keepsFamilies_wr rfl (by decide)
    have b2 := b1.trans (State.slotsKept_of_units
      (t := s1.wr Reg.faultStatus (e.src / 256) (setBit (s1.rd Reg.faultStatus (e.src / 256)) (e.src % 256))) rfl)
    generalize s1.wr Reg.faultStatus (e.src / 256) (setBit (s1.rd Reg.faultStatus (e.src / 256)) (e.src % 256)) = s2 at *
    have a3 : s1.keepsFamilies (if row.cls = 0 then s2.countWindow e.src else (false, s2)).2 recordObjects := by
      split
      · exact a2.trans (State.countWindow_keeps _ _)
      · exact a2
    have b3 : s.slotsKept (if row.cls = 0 then s2.countWindow e.src else (false, s2)).2 := by
      split
      · exact b2.trans (State.slotsKept_of_units (State.countWindow_units ..))
      · exact b2
    generalize (if row.cls = 0 then s2.countWindow e.src else (false, s2)) = pr at *
    have a4 := fun r => ((a3.trans (State.recordEvent_keeps pr.2 r)).trans (State.captureFirst_keeps _ r _)).mono (m := faultObjects.drop 1) (fun o h => List.mem_of_mem_take h)
    have b4 := fun r => (b3.trans (State.recordEvent_slots pr.2 r)).trans (State.captureFirst_slots _ r)
    have hr3 : (if pr.1 = true then row.promoted else if row.cls = 0 then 0 else e.reaction row) ≠ 3 := by
      split
      · exact h3.1
      · split
        · decide
        · exact h3.2
    generalize (if pr.1 = true then 1 else row.cls) = cls at *
    generalize (if pr.1 = true then row.promoted else if row.cls = 0 then 0 else e.reaction row) = react at *
    split
    · exact a4 _
    · split
      · exact (a4 _).trans (State.enterFatal_keeps _ _)
      · split
        · exact a4 _
        · refine (a4 _).trans (State.armSlot_keeps _ _ ?_ _)
          obtain ⟨n, hn, hf⟩ := h
          exact ⟨n, hn, by rw [b4]; exact hf⟩
  obtain ⟨s1, ho, hk⟩ := main
  refine ⟨?_, ?_⟩
  · rw [hk Reg.eventCount (by decide), State.rd_congr ho, State.rd_inc_same]; rfl
  · exact (State.keepsFamilies_inc (l := faultObjects) ho (by decide)).trans (hk.mono fun o h => List.mem_of_mem_drop h)

/-- A class F event when none is pending: Fatal pending, with its source and the Stop deadline, and else only its record (R470). -/
theorem State.raiseFatal_spec (s : State) (r : FaultRec) (hf : s.rd Reg.fatalState 0 = 0) : s.recorded (s.raiseFatal r) ∧ s.slotsKept (s.raiseFatal r) ∧
    s.keepsFamilies (s.raiseFatal r) faultObjects ∧ (s.raiseFatal r).rd Reg.fatalState 0 = 1 ∧ (s.raiseFatal r).rd Reg.fatalSource 0 = r.source ∧
    (s.raiseFatal r).stopDeadline = some (tickAdd s.tick (s.rd Reg.escalationTicks 0)) := by
  unfold State.raiseFatal
  dsimp only
  obtain ⟨r', hr'⟩ : ∃ r' : FaultRec, r' = { r with cls := 2, reaction := 5, promoted := false, tick := s.tick } := ⟨_, rfl⟩
  rw [← hr']
  have a1 := State.inc_recorded s Reg.eventCount r.source 1
  have b1 : s.slotsKept (s.inc Reg.eventCount r.source 1) := State.slotsKept_of_units rfl
  have c1 : s.keepsFamilies (s.inc Reg.eventCount r.source 1) (Reg.eventCount :: recordObjects) := State.keepsFamilies_inc rfl List.mem_cons_self
  obtain ⟨s1, h1⟩ : ∃ s1, s1 = s.inc Reg.eventCount r.source 1 := ⟨_, rfl⟩
  rw [← h1] at a1 b1 c1 ⊢
  have a2 := a1.trans (State.wr_recorded s1 Reg.faultStatus (r.source / 256) (setBit (s1.rd Reg.faultStatus (r.source / 256)) (r.source % 256)))
  have b2 := b1.trans (State.slotsKept_of_units (t := s1.wr Reg.faultStatus (r.source / 256) (setBit (s1.rd Reg.faultStatus (r.source / 256)) (r.source % 256))) rfl)
  have c2 := c1.trans (State.keepsFamilies_wr (t := s1.wr Reg.faultStatus (r.source / 256) (setBit (s1.rd Reg.faultStatus (r.source / 256)) (r.source % 256))) rfl (by decide))
  obtain ⟨s2, h2⟩ : ∃ s2, s2 = s1.wr Reg.faultStatus (r.source / 256) (setBit (s1.rd Reg.faultStatus (r.source / 256)) (r.source % 256)) := ⟨_, rfl⟩
  rw [← h2] at a2 b2 c2 ⊢
  have a3 := (a2.trans (State.recordEvent_recorded s2 r')).trans (State.captureFirst_recorded _ r')
  have b3 := (b2.trans (State.recordEvent_slots s2 r')).trans (State.captureFirst_slots _ r')
  have c3 := (c2.trans ((State.recordEvent_keeps s2 r').mono fun o h => List.mem_cons_of_mem _ h)).trans (State.captureFirst_keeps _ r' _)
  obtain ⟨s3, h3⟩ : ∃ s3, s3 = (s2.recordEvent r').captureFirst r' := ⟨_, rfl⟩
  rw [← h3] at a3 b3 c3 ⊢
  have f0 : s3.rd Reg.fatalState 0 = 0 := by rw [c3 Reg.fatalState (by decide)]; exact hf
  have ft : s3.tick = s.tick := by rw [a3]
  have fe : s3.rd Reg.escalationTicks 0 = s.rd Reg.escalationTicks 0 := c3 Reg.escalationTicks (by decide) 0
  have e : s3.enterFatal r.source = { (s3.wr Reg.fatalState 0 1).wr Reg.fatalSource 0 r.source with stopDeadline := some (tickAdd s3.tick (s3.rd Reg.escalationTicks 0)) } := by
    unfold State.enterFatal
    rw [if_neg (by rw [f0]; decide)]
  have eo : (s3.enterFatal r.source).objs = ((s3.wr Reg.fatalState 0 1).wr Reg.fatalSource 0 r.source).objs := by rw [e]
  refine ⟨a3.trans (State.enterFatal_recorded ..), b3.trans (by rw [e]; exact State.slotsKept_of_units rfl), ?_, ?_, ?_, by rw [e, ft, fe]⟩
  · exact (c3.mono (m := faultObjects) (by decide)).trans ((State.enterFatal_keeps s3 r.source).mono fun o h => List.mem_of_mem_drop h)
  · rw [State.rd_congr eo, State.rd_wr_ne _ _ _ _ _ _ (Obj.key_ne _ _ (by decide)), State.rd_wr_same]
  · rw [State.rd_congr eo, State.rd_wr_same]

end Sys2Proof.Machine
end

