-- ==== Sys2Proof/Laws/Rings.lean ====
section
/-! SUPPORT. The admission of a command whose checks pass: what it leaves before its unit starts it (R72 to R79). -/

set_option Elab.async false

namespace Sys2Proof.Machine

variable {s t : State}

theorem State.plan_eq (h : t.plans = s.plans) : t.plan = s.plan := by funext p; simp only [State.plan, h]
theorem State.layerState_eq (h : t.layerStates = s.layerStates) : t.layerState = s.layerState := by
  funext p l; simp only [State.layerState, h]
theorem State.group_eq (h : t.groups = s.groups) : t.group = s.group := by funext g; simp only [State.group, h]

theorem State.checkPlan_eq (ho : t.objs = s.objs) (hc : t.ctxs = s.ctxs) (hp : t.plans = s.plans) (hq : t.patterns = s.patterns) :
    t.checkPlan = s.checkPlan := by
  have e1 : t.patternCheck = s.patternCheck := by funext a b c; simp only [State.patternCheck, hq]
  have e2 : t.planOf = s.planOf := by funext a b; simp only [State.planOf, State.plan_eq hp]
  have e3 : t.balanceOf = s.balanceOf := by funext a b; simp only [State.balanceOf, State.rd_eq ho, State.rb_eq ho]
  funext a b
  simp only [State.checkPlan, e1, e2, e3, State.ctx_eq hc]

theorem State.checkPayload_eq (hc : t.ctxs = s.ctxs) (hg : t.groups = s.groups) : t.checkPayload = s.checkPayload := by
  funext a b; simp only [State.checkPayload, State.collPayload, State.group_eq hg, State.ctx_eq hc]

theorem State.checkDeadline_eq (hc : t.ctxs = s.ctxs) : t.checkDeadline = s.checkDeadline := by
  funext a b c; simp only [State.checkDeadline, State.ctx_eq hc]

theorem State.blockTooBig_eq (ho : t.objs = s.objs) : t.blockTooBig = s.blockTooBig := by
  funext a b c; simp only [State.blockTooBig, State.rd_eq ho]

theorem State.trace_untraced (h : s.untraced) (u e x ht a b : Nat) : s.trace u e x ht a b = s := by
  unfold State.untraced at h
  unfold State.trace
  have : bit (s.rd Reg.traceUnitMask 0) u = false := by rw [h]; simp [bit]
  simp only [this, Bool.false_and, Bool.false_eq_true, if_false]

/-- A command that passes its checks stands in flight when its unit starts it. -/
theorem State.submitted_stands {i host : Nat} {h : Word512} {payload : List Byte} (ha : s.admits i host h payload) (hu : s.untraced) :
    ∃ u : State, s.submitted i h payload = u.startCommand s.nextUid ∧ s.taken i (s.fetched i host h payload) u ∧
      (∀ v, v ≠ s.nextUid → u.cmd v = s.cmd v) ∧ (∀ j, j ≠ i → u.ring j = s.ring j) ∧
      (∀ p ∈ u.cmds, (p.1 = s.nextUid ∧ (p.2.header = h ∨ ∃ k0, (p.1, k0) ∈ s.cmds ∧ p.2.header = k0.header ∧ p.2.ready = k0.ready)) ∨ p ∈ s.cmds) ∧
      u.cmds = Tab.modify (Tab.put s.cmds s.nextUid (s.fetched i host h payload)) s.nextUid (fun k => { k with admitting := false, admitTick := s.tick }) ∧
      u = { s with cmds := u.cmds, nextUid := s.nextUid + 1, rings := u.rings } := by
  obtain ⟨h1, h2, h3, h4, h5, h6, h7, h8, ly, h9, h10, h11, h12⟩ := ha
  generalize hk : s.fetched i host h payload = k at *
  have hkr : k.ready = false ∧ k.marked = 0 ∧ k.host = host ∧ k.header = h := by rw [← hk]; exact ⟨rfl, rfl, rfl, rfl⟩
  let r' : Ring := { s.ring i with
      submitHead := ((s.ring i).submitHead + 1 + ceilDiv (hPayloadBytes h) 64) % 2 ^ 32, rob := (s.ring i).rob ++ [s.nextUid], complWait := false }
  let v : State := { s with cmds := Tab.put s.cmds s.nextUid k, nextUid := s.nextUid + 1, rings := Tab.set {} s.rings i r' }
  have hvk : v.cmd s.nextUid = some k := Tab.find_put_same ..
  have e1 : s.submitted i h payload = v.admitRest s.nextUid := by
    unfold State.submitted
    rw [if_pos h1]
    unfold State.fetchHeader
    simp only [h2]
    rw [if_neg (by omega), if_neg (by omega)]
    rw [if_neg (by simp; omega)]
    show s.takeCommand i host h (worse 0 0) payload = _
    unfold State.takeCommand
    have w0 : worse 0 0 = 0 := by decide
    simp only [w0, Nat.zero_ne_one, if_false, show ¬ (0 = 2) by decide, h7, ne_eq, not_true_eq_false, h8]
    rw [if_neg (by omega)]
    subst hk
    rfl
  let w : State := v.modCmd s.nextUid fun k => { k with admitting := false, admitTick := s.tick }
  have e2 : v.admitRest s.nextUid = w.startCommand s.nextUid := by
    unfold State.admitRest
    have c8 : v.checkPlan = s.checkPlan := State.checkPlan_eq rfl rfl rfl rfl
    have c9 : v.checkPayload = s.checkPayload := State.checkPayload_eq rfl rfl
    have c10 : v.checkDeadline = s.checkDeadline := State.checkDeadline_eq rfl
    have cb : v.blockTooBig = s.blockTooBig := State.blockTooBig_eq rfl
    have cl : v.layerState = s.layerState := State.layerState_eq rfl
    have ct : v.tick = s.tick := rfl
    simp only [hvk, hkr.1, hkr.2.1, Bool.false_eq_true, ne_eq, not_true_eq_false, or_self, if_false, hkr.2.2.1, hkr.2.2.2, c8, h9, c9, c10, cb, cl, ct,
      h11, h12, if_true]
    have g1 : ¬ ((hOp h == 2) = true ∧ (!(s.layerState (hPlan h) (hLayer h)).usable) = true) := by
      rintro ⟨a, b⟩
      have := (h10 (by simpa using a)).1
      rw [this] at b; cases b
    have g2 : ((hOp h == 2) && ly.any (s.blockTooBig host h)) = false := by
      by_cases e : hOp h = 2
      · rw [(h10 e).2]; simp
      · simp [e]
    rw [if_neg g1, g2, if_neg (by simp)]
    have hw : w.untraced := hu
    show (State.trace w 0 1 k.ctx k.heat (hCommandId h) (hOp h)).startCommand s.nextUid = _
    rw [State.trace_untraced hw]
  refine ⟨w, by rw [e1, e2], ⟨?_, ?_, ?_⟩, ?_, ?_, ?_, rfl, rfl⟩
  · show (v.modCmd s.nextUid _).cmd s.nextUid = _
    rw [State.cmd_modCmd_same, hvk, Option.map_some, ← hk]; rfl
  · show (Tab.get {} (Tab.set {} s.rings i r') i).rob = _
    rw [Tab.get_set_same]
  · show (Tab.get {} (Tab.set {} s.rings i r') i).submitHead = _
    rw [Tab.get_set_same, hkr.2.2.2]
  · intro u hne
    show (v.modCmd s.nextUid _).cmd u = _
    rw [State.cmd_modCmd_ne _ _ hne]
    show Tab.find (Tab.put s.cmds s.nextUid k) u = _
    rw [Tab.find_put_ne _ _ (Ne.symm hne)]; rfl
  · intro j hj
    show Tab.get {} (Tab.set {} s.rings i r') j = _
    rw [Tab.get_set_ne _ _ _ _ (Ne.symm hj)]; rfl
  · intro p hp
    simp only [w, v, State.modCmd, Tab.modify, List.mem_map] at hp
    obtain ⟨p0, hp0, rfl⟩ := hp
    rcases Tab.mem_put hp0 with rfl | h
    · left; simp [hkr.2.2.2]
    · by_cases e : p0.1 = s.nextUid
      · left
        rw [if_pos e]
        exact ⟨e, .inr ⟨p0.2, h, rfl, rfl⟩⟩
      · right; rw [if_neg e]; exact h

theorem State.submitted_admits {i host : Nat} {h : Word512} {payload : List Byte} (ha : s.admits i host h payload) (hu : s.untraced) :
    ∃ u : State, s.submitted i h payload = u.startCommand s.nextUid ∧ s.taken i (s.fetched i host h payload) u ∧
      (∀ v, v ≠ s.nextUid → u.cmd v = s.cmd v) ∧ (∀ j, j ≠ i → u.ring j = s.ring j) ∧
      (∀ p ∈ u.cmds, (p.1 = s.nextUid ∧ (p.2.header = h ∨ ∃ k0, (p.1, k0) ∈ s.cmds ∧ p.2.header = k0.header ∧ p.2.ready = k0.ready)) ∨ p ∈ s.cmds) ∧
      u = { s with cmds := u.cmds, nextUid := s.nextUid + 1, rings := u.rings } := by
  obtain ⟨u, h1, h2, h3, h4, h5, -, h6⟩ := State.submitted_stands ha hu
  exact ⟨u, h1, h2, h3, h4, h5, h6⟩

/-- A record put past every listed key stands last. -/
theorem Tab.put_last {α : Type} (t : Tab α) (k : Nat) (v : α) (h : ∀ p ∈ t, p.1 < k) : Tab.put t k v = t ++ [(k, v)] := by
  induction t with
  | nil => rfl
  | cons p t ih =>
    obtain ⟨k', v'⟩ := p
    have hk := h (k', v') List.mem_cons_self
    unfold Tab.put
    rw [if_neg (by simp only at hk; omega), if_neg (by simp only at hk; omega), ih fun p hp => h p (List.mem_cons_of_mem _ hp)]
    rfl

/-! ## A row's own value in a header -/

theorem hOp_withOp (h : Word512) {op : Nat} (ho : op < 256) : hOp (withOp h op) = op := by
  have hx := h.isLt
  unfold hOp withOp fld withField
  rw [BitVec.toNat_ofNat]
  generalize h.toNat = x at *
  simp only [bits, Nat.shiftRight_eq_div_pow, Nat.reduceSub, Nat.reduceAdd, Nat.reducePow] at *
  omega

theorem tallyOp_withField (h : Word512) {op : Nat} (ho : op < 8) :
    fld (withField h 258 256 op) 258 256 = op ∧ hOp (withField h 258 256 op) = hOp h := by
  have hx := h.isLt
  unfold hOp fld withField
  rw [BitVec.toNat_ofNat]
  generalize h.toNat = x at *
  simp only [bits, Nat.shiftRight_eq_div_pow, Nat.reduceSub, Nat.reduceAdd, Nat.reducePow] at *
  omega

theorem ratOp_withField (h : Word512) {op : Nat} (ho : op < 16) :
    hAtomicOp (withField h 343 340 op) = op ∧ hOp (withField h 343 340 op) = hOp h := by
  have hx := h.isLt
  unfold hOp hAtomicOp fld withField
  rw [BitVec.toNat_ofNat]
  generalize h.toNat = x at *
  simp only [bits, Nat.shiftRight_eq_div_pow, Nat.reduceSub, Nat.reduceAdd, Nat.reducePow] at *
  omega

/-! ## Fences (R93, R95) -/

/-- One command of a ring in the release of its fences, those before it given (R93, R95). -/
def fenceStep (acc : State × List Cmd) (uid : Nat) : State × List Cmd :=
  match acc.1.cmd uid with
  | none => acc
  | some k =>
    if (!k.ready && k.status == 0 && fenceFree k acc.2) = true then
      ({ acc.1 with cmds := Tab.put acc.1.cmds uid (k.finish acc.1.tick 0) }, acc.2 ++ [k.finish acc.1.tick 0])
    else (acc.1, acc.2 ++ [k])

theorem State.releaseFences_eq (s : State) (i : Nat) :
    s.releaseFences i = ((s.ring i).rob.foldl fenceStep (s, [])).1.modRing i fun r => { r with fenceWait := r.rob.any fun v =>
      ((((s.ring i).rob.foldl fenceStep (s, [])).1.cmd v).map fun k => hOp k.header == 4 && !k.ready).getD false } := by
  have h : s.releaseFences i = ((s.ring i).rob.foldl fenceStep (s, [])).1.modRing i (fun r => { r with fenceWait := r.rob.any (fun u =>
      match ((s.ring i).rob.foldl fenceStep (s, [])).1.cmd u with | some k => hOp k.header == 4 && !k.ready | none => false) }) := rfl
  rw [h]
  generalize ((s.ring i).rob.foldl fenceStep (s, [])).1 = v
  congr 1
  funext r
  congr 1
  congr 1
  funext x
  cases v.cmd x <;> rfl

/-- Commands all ready pass through as they are. -/
theorem fenceSteps_ready (l : List Nat) : ∀ (acc : State × List Cmd), (∀ u ∈ l, ∃ k, acc.1.cmd u = some k ∧ k.ready = true) →
    (∀ k ∈ acc.2, k.ready = true) → (l.foldl fenceStep acc).1 = acc.1 ∧ ∀ k ∈ (l.foldl fenceStep acc).2, k.ready = true := by
  induction l with
  | nil => intro acc _ h; exact ⟨rfl, h⟩
  | cons x l ih =>
    intro acc h1 h2
    obtain ⟨k, hk, hr⟩ := h1 x (List.mem_cons_self ..)
    have e : fenceStep acc x = (acc.1, acc.2 ++ [k]) := by unfold fenceStep; simp [hk, hr]
    rw [List.foldl_cons, e]
    refine ih _ (fun u hu => h1 u (List.mem_cons_of_mem _ hu)) fun k' hk' => ?_
    rcases List.mem_append.mp hk' with h | h
    · exact h2 k' h
    · rw [List.mem_singleton] at h; subst h; exact hr

/-- A command that is neither FENCE nor CANCEL, and one that the ring does not list, stay as they are; the former is among those seen. -/
theorem fenceSteps_keep (l : List Nat) : ∀ (acc : State × List Cmd) (u : Nat) (k : Cmd), acc.1.cmd u = some k →
    ((hOp k.header ≠ 4 ∧ hOp k.header ≠ 5) ∨ u ∉ l) →
    (l.foldl fenceStep acc).1.cmd u = some k ∧ (∀ k' ∈ acc.2, k' ∈ (l.foldl fenceStep acc).2) ∧ (u ∈ l → k ∈ (l.foldl fenceStep acc).2) := by
  induction l with
  | nil => intro acc u k h _; exact ⟨h, fun k' h => h, fun h => by cases h⟩
  | cons x l ih =>
    intro acc u k h h2
    have hstep : (fenceStep acc x).1.cmd u = some k ∧ (∀ k' ∈ acc.2, k' ∈ (fenceStep acc x).2) ∧ (u = x → k ∈ (fenceStep acc x).2) := by
      unfold fenceStep
      split
      · rename_i hn
        exact ⟨h, fun k' h => h, fun e => by subst e; rw [h] at hn; cases hn⟩
      · rename_i k0 hk0
        by_cases e : u = x
        · subst e
          rw [h] at hk0; cases hk0
          have hnf : fenceFree k acc.2 = false := by
            rcases h2 with h2 | h2
            · unfold fenceFree; rw [if_neg h2.1, if_neg h2.2]
            · exact absurd (List.mem_cons_self ..) h2
          rw [hnf]
          simp only [Bool.and_false, Bool.false_eq_true, if_false]
          exact ⟨h, fun k' h => List.mem_append_left _ h, fun _ => List.mem_append_right _ (List.mem_singleton.mpr rfl)⟩
        · split
          · refine ⟨?_, fun k' h => List.mem_append_left _ h, fun e' => absurd e' e⟩
            show Tab.find (Tab.put acc.1.cmds x _) u = _
            rw [Tab.find_put_ne _ _ (Ne.symm e)]; exact h
          · exact ⟨h, fun k' h => List.mem_append_left _ h, fun e' => absurd e' e⟩
    rw [List.foldl_cons]
    obtain ⟨a, b, c⟩ := ih (fenceStep acc x) u k hstep.1 (h2.imp id fun hn hm => hn (List.mem_cons_of_mem _ hm))
    refine ⟨a, fun k' hk' => b _ (hstep.2.1 _ hk'), fun hm => ?_⟩
    rcases List.mem_cons.mp hm with e | hm
    · exact b _ (hstep.2.2 e)
    · exact c hm

/-- What holds of every command of a ring, and survives becoming ready, holds of the commands seen. -/
theorem fenceSteps_all (P : Cmd → Prop) (hf : ∀ k t, P k → P (k.finish t 0)) (l : List Nat) : ∀ (acc : State × List Cmd),
    (∀ u ∈ l, ∀ k, acc.1.cmd u = some k → P k) → (∀ k ∈ acc.2, P k) → ∀ k ∈ (l.foldl fenceStep acc).2, P k := by
  induction l with
  | nil => intro acc _ h; exact h
  | cons x l ih =>
    intro acc h1 h2
    rw [List.foldl_cons]
    unfold fenceStep
    split
    · exact ih _ (fun u hu => h1 u (List.mem_cons_of_mem _ hu)) h2
    · rename_i k hk
      have hP := h1 x (List.mem_cons_self ..) k hk
      split
      · refine ih _ (fun u hu k' hk' => ?_) fun k' hk' => ?_
        · by_cases e : x = u
          · subst e
            have : Tab.find (Tab.put acc.1.cmds x (k.finish acc.1.tick 0)) x = some k' := hk'
            rw [Tab.find_put_same] at this
            cases this; exact hf _ _ hP
          · have : Tab.find (Tab.put acc.1.cmds x (k.finish acc.1.tick 0)) u = some k' := hk'
            rw [Tab.find_put_ne _ _ e] at this
            exact h1 u (List.mem_cons_of_mem _ hu) k' this
        · rcases List.mem_append.mp hk' with h | h
          · exact h2 _ h
          · rw [List.mem_singleton] at h; subst h; exact hf _ _ hP
      · refine ih _ (fun u hu => h1 u (List.mem_cons_of_mem _ hu)) fun k' hk' => ?_
        rcases List.mem_append.mp hk' with h | h
        · exact h2 _ h
        · rw [List.mem_singleton] at h; subst h; exact hP

theorem fenceSteps_tick (l : List Nat) : ∀ (acc : State × List Cmd), (l.foldl fenceStep acc).1 = { acc.1 with cmds := (l.foldl fenceStep acc).1.cmds } := by
  induction l with
  | nil => intro acc; rfl
  | cons x l ih =>
    intro acc
    rw [List.foldl_cons, ih]
    have : (fenceStep acc x).1 = { acc.1 with cmds := (fenceStep acc x).1.cmds } := by
      unfold fenceStep; split
      · rfl
      · split <;> rfl
    rw [this]

/-- A FENCE or CANCEL last in its ring, all before it ready: it becomes ready now. -/
theorem State.releaseFences_free {s : State} {i u : Nat} {l : List Nat} {k : Cmd} (hr : (s.ring i).rob = l ++ [u]) (hk : s.cmd u = some k)
    (h0 : k.ready = false ∧ k.status = 0) (hop : hOp k.header = 4 ∨ hOp k.header = 5)
    (hl : ∀ v ∈ l, ∃ k, s.cmd v = some k ∧ k.ready = true) : (s.releaseFences i).cmd u = some (k.finish s.tick 0) := by
  rw [State.releaseFences_eq, hr, List.foldl_append]
  obtain ⟨e1, e2⟩ := fenceSteps_ready l (s, []) hl (fun k h => by cases h)
  generalize l.foldl fenceStep (s, []) = acc at *
  have hfree : fenceFree k acc.2 = true := by
    unfold fenceFree
    split
    · exact List.all_eq_true.mpr e2
    · rw [if_pos (by rcases hop with h | h; exact absurd h (by assumption); exact h)]
      exact List.all_eq_true.mpr fun b hb => by rw [e2 b hb]; rfl
  have : [u].foldl fenceStep acc = ({ acc.1 with cmds := Tab.put acc.1.cmds u (k.finish acc.1.tick 0) }, acc.2 ++ [k.finish acc.1.tick 0]) := by
    rw [List.foldl_cons, List.foldl_nil]
    unfold fenceStep
    have : acc.1.cmd u = some k := by rw [e1]; exact hk
    simp [this, h0.1, h0.2, hfree]
  rw [this]
  have e1 : acc.1 = s := e1
  rw [e1]
  exact Tab.find_put_same ..

/-- A CANCEL last in its ring, no other command of its context before it in the ring unready: it becomes ready now. -/
theorem State.releaseFences_cancel {s : State} {i u : Nat} {l : List Nat} {k : Cmd} (hr : (s.ring i).rob = l ++ [u]) (hk : s.cmd u = some k)
    (h0 : k.ready = false ∧ k.status = 0) (hop : hOp k.header = 5) (hu : u ∉ l)
    (hl : ∀ v ∈ l, ∀ k', s.cmd v = some k' → k'.ready = true ∨ k'.ctx ≠ k.ctx) : (s.releaseFences i).cmd u = some (k.finish s.tick 0) := by
  rw [State.releaseFences_eq, hr, List.foldl_append]
  have e2 := fenceSteps_all (fun k' => k'.ready = true ∨ k'.ctx ≠ k.ctx) (fun k' t _ => Or.inl rfl) l (s, []) hl (fun k h => by cases h)
  obtain ⟨b1, -, -⟩ := fenceSteps_keep l (s, []) u k hk (Or.inr hu)
  have c1 := fenceSteps_tick l (s, [])
  generalize l.foldl fenceStep (s, []) = acc at *
  have hfree : fenceFree k acc.2 = true := by
    unfold fenceFree
    rw [if_neg (by omega), if_pos hop]
    exact List.all_eq_true.mpr fun b hb => by
      rcases e2 b hb with h | h
      · rw [h]; rfl
      · have : (b.ctx == k.ctx) = false := by simpa using h
        rw [this]; simp
  have : [u].foldl fenceStep acc = ({ acc.1 with cmds := Tab.put acc.1.cmds u (k.finish acc.1.tick 0) }, acc.2 ++ [k.finish acc.1.tick 0]) := by
    rw [List.foldl_cons, List.foldl_nil]
    unfold fenceStep
    simp [b1, h0.1, h0.2, hfree]
  rw [this]
  have ht : acc.1.tick = s.tick := by
    have c1 : acc.1 = { s with cmds := acc.1.cmds } := c1
    rw [c1]
  rw [ht]
  exact Tab.find_put_same ..

/-- A FENCE last in its ring behind a command neither FENCE nor CANCEL that is not ready: it waits, and holds the ring. -/
theorem State.releaseFences_held {s : State} {i u v : Nat} {l : List Nat} {k kv : Cmd} (hr : (s.ring i).rob = l ++ [u]) (hk : s.cmd u = some k)
    (h0 : k.ready = false) (hop : hOp k.header = 4) (hu : u ∉ l) (hv : v ∈ l) (hkv : s.cmd v = some kv) (hv0 : kv.ready = false)
    (hvop : hOp kv.header ≠ 4 ∧ hOp kv.header ≠ 5) :
    (s.releaseFences i).cmd u = some k ∧ ((s.releaseFences i).ring i).fenceWait = true := by
  rw [State.releaseFences_eq, hr, List.foldl_append]
  obtain ⟨a1, a2, a3⟩ := fenceSteps_keep l (s, []) v kv hkv (Or.inl hvop)
  obtain ⟨b1, -, -⟩ := fenceSteps_keep l (s, []) u k hk (Or.inr hu)
  have c1 := fenceSteps_tick l (s, [])
  generalize l.foldl fenceStep (s, []) = acc at *
  have hfree : fenceFree k acc.2 = false := by
    unfold fenceFree
    rw [if_pos hop]
    rw [List.all_eq_false]
    exact ⟨kv, a3 hv, by rw [hv0]; decide⟩
  have : [u].foldl fenceStep acc = (acc.1, acc.2 ++ [k]) := by
    rw [List.foldl_cons, List.foldl_nil]
    unfold fenceStep
    simp [b1, hfree]
  rw [this]
  refine ⟨b1, ?_⟩
  show (Tab.get {} (Tab.set {} acc.1.rings i _) i).fenceWait = true
  rw [Tab.get_set_same]
  have hrob : (acc.1.ring i).rob = l ++ [u] := by
    have c1 : acc.1 = { s with cmds := acc.1.cmds } := c1
    rw [c1]; exact hr
  have hr2 : (Tab.get {} acc.1.rings i).rob = l ++ [u] := hrob
  show List.any (Tab.get {} acc.1.rings i).rob _ = true
  rw [hr2, List.any_append]
  simp [b1, hop, h0]

/-! ## Ring memory -/

theorem State.hostRead_holds {s : State} (hc : s.checks = []) {h a n : Nat} {l : List Byte} (hh : s.hostHolds h a n l) : s.hostRead h a n = (0, l, s) := by
  unfold State.hostHolds at hh
  unfold State.hostRead
  split at hh
  · rename_i p e
    rw [e]; simp only [State.readLoc]
    rw [hh.1, hh.2]
  · rename_i p e
    rw [e]; simp only [State.readLoc]; rw [hh, State.storeRead_clean _ _ _ _ _ hc]; rfl
  · exact hh.elim

theorem State.hostHolds_eq (h : t.objs = s.objs) (hb : t.bufs = s.bufs) (hm : t.memStatus = s.memStatus) (hd : t.mem = s.mem) (hl : t.landing = s.landing) :
    t.hostHolds = s.hostHolds := by
  have e : t.landingRead = s.landingRead := by funext a b; simp only [State.landingRead, hl]
  funext a b c d; simp only [State.hostHolds, State.xlt_eq h hb, State.memBad_eq hm, State.memRead_eq hd, e]

theorem State.hostRead_seen {s : State} (hc : s.checks = []) {h a n q : Nat} {l : List Byte} (hh : s.hostHolds h a n l) :
    (s.seen q).hostRead h a n = (0, l, s.seen q) := by
  refine State.hostRead_holds (s := s.seen q) hc ?_
  rw [State.hostHolds_eq (s := s) (t := s.seen q) rfl rfl rfl rfl rfl]; exact hh

theorem State.ringRead_holds {s : State} (hc : s.checks = []) {i host fr n : Nat} {l : List Byte} (hh : s.ringHolds i host fr n l) :
    s.ringRead host (s.rd Reg.submitBase i) (s.submitSlots i) 64 fr n = (0, l, s) := by
  unfold State.ringHolds at hh
  unfold State.ringRead
  dsimp only at hh ⊢
  split at hh
  · rename_i e
    rw [if_pos e, e]
    exact State.hostRead_holds hc hh
  · rename_i e
    rw [if_neg e]
    obtain ⟨l1, l2, rfl, h1, h2⟩ := hh
    rw [State.hostRead_holds hc h1]
    dsimp only
    rw [State.hostRead_holds hc h2]
    rfl

theorem State.fetchNext_holds {s : State} (hc : s.checks = []) {i host : Nat} {H : Word512} {payload : List Byte} (ha : s.admits i host H payload)
    (h1 : s.ringHolds i host (s.ring i).submitHead 64 (leBytes 64 H.toNat))
    (h2 : s.ringHolds i host ((s.ring i).submitHead + 1) (hPayloadBytes H) payload) : s.fetchNext i = s.submitted i H payload := by
  unfold State.fetchNext State.submitted
  rw [if_pos ha.1, if_pos ha.1, ha.2.1]
  dsimp only
  rw [State.ringRead_holds hc h1]
  simp only [Nat.zero_ne_one, if_false]
  have e : BitVec.ofNat 512 (leNat (leBytes 64 H.toNat)) = H := by
    rw [leNat_leBytes, Nat.mod_eq_of_lt (by have := H.isLt; rw [show 256 ^ 64 = 2 ^ 512 from by rw [show (256 : Nat) = 2 ^ 8 from rfl, ← Nat.pow_mul]]; exact this)]; simp
  rw [e]
  unfold State.fetchHeader
  rw [ha.2.1]
  dsimp only
  rw [State.ringRead_holds hc h2]

/-- A RUN or DISPATCH taken into flight: what stands in its context, and the commands. -/
theorem State.submitted_run {s : State} {i host : Nat} {H : Word512} {payload : List Byte} {c : Ctx} (hu : s.untraced)
    (hop : hOp H = 1 ∨ hOp H = 2) (hadm : s.admits i host H payload) (hc : s.ctx (hContext H) = some c) (hrun : s.running c.seq = none) :
    s.taken i (s.fetched i host H payload) (s.submitted i H payload) ∧ (∀ v, v ≠ s.nextUid → (s.submitted i H payload).cmd v = s.cmd v) ∧
      (∀ p ∈ (s.submitted i H payload).cmds, hOp p.2.header = hOp H ∨ ∃ k0, (p.1, k0) ∈ s.cmds ∧ p.2.header = k0.header ∧ p.2.ready = k0.ready) ∧
      (s.submitted i H payload).ctx (hContext H) = some (if c.state = 1 ∧ c.cmd = none then { c with state := 2, readyTick := s.tick } else c) ∧
      s.keepsContexts (s.submitted i H payload) (hContext H) ∧
      s.submitted i H payload = { s with cmds := (s.submitted i H payload).cmds, nextUid := s.nextUid + 1, rings := (s.submitted i H payload).rings, ctxs := (s.submitted i H payload).ctxs } := by
  obtain ⟨u, hu1, hu2, hu3, -, hu4, hu5⟩ := State.submitted_admits hadm hu
  generalize hk : s.fetched i host H payload = k at *
  have hkc : k.header = H ∧ k.ctx = hContext H := by rw [← hk]; exact ⟨rfl, rfl⟩
  have est : u.startCommand s.nextUid = u.offerWork (hContext H) := by
    unfold State.startCommand
    simp only [hu2.1, hkc.1, hkc.2, hop, if_true]
  have huc : u.ctx (hContext H) = some c := by rw [hu5]; exact hc
  have hurun : u.running c.seq = none := by unfold State.running at *; rw [hu5]; exact hrun
  have hx : ∀ w : State, w = { u with ctxs := w.ctxs } →
      w = { s with cmds := w.cmds, nextUid := s.nextUid + 1, rings := w.rings, ctxs := w.ctxs } := by
    intro w hw; rw [hw, hu5]
  have hu4' : ∀ p ∈ u.cmds, hOp p.2.header = hOp H ∨ ∃ k0, (p.1, k0) ∈ s.cmds ∧ p.2.header = k0.header ∧ p.2.ready = k0.ready := by
    intro p hp
    rcases hu4 p hp with ⟨-, e | e⟩ | e
    · left; rw [e]
    · right; exact e
    · right; exact ⟨p.2, e, rfl, rfl⟩
  rw [hu1, est]
  unfold State.offerWork
  simp only [huc]
  by_cases h1 : c.state = 1 ∧ c.cmd = none
  · rw [if_pos (by simpa using h1)]
    have hct : u.wakeContext (hContext H) = u.modCtx (hContext H) fun c => c.runnable u.tick := by
      unfold State.wakeContext State.contend
      rw [State.ctx_modCtx_same, huc]
      simp only [Option.map_some]
      split
      · rfl
      · have hr : (u.modCtx (hContext H) fun c => c.runnable u.tick).running (c.runnable u.tick).seq = none := by
          unfold State.running at *
          rw [List.find?_eq_none] at *
          intro p hp
          simp only [State.modCtx, Tab.modify, List.mem_map] at hp
          obtain ⟨p0, hp0, rfl⟩ := hp
          by_cases e : p0.1 = hContext H
          · rw [if_pos e]; simp [Ctx.runnable, Ctx.busy]
          · rw [if_neg e]; exact hurun p0 hp0
        simp only [hr]
    rw [hct]
    refine ⟨hu2, hu3, hu4', ?_, ?_, ?_⟩
    · rw [State.ctx_modCtx_same, huc, if_pos h1, hu5]; rfl
    · intro y hy; rw [State.ctx_modCtx_ne _ _ hy, State.ctx_eq (s := s) (by rw [hu5])]
    · exact hx _ rfl
  · rw [if_neg (by simpa using h1)]
    refine ⟨hu2, hu3, hu4', ?_, ?_, ?_⟩
    · rw [huc, if_neg h1]
    · intro y hy; rw [State.ctx_eq (s := s) (by rw [hu5])]
    · exact hx u rfl

end Sys2Proof.Machine
end

