-- ==== Sys2Proof/Laws/Writes.lean ====
section
/-! SUPPORT. How the row of a dictionary write runs where the write is accepted (R511). -/

set_option Elab.async false

namespace Sys2Proof.Machine

theorem State.rouse_awake {s : State} (h : s.power = 0) : s.rouse = s.seen s.tick := by
  have hp : (s.rd Reg.powerState 0) = 0 := h
  simp [h, State.rouse, State.entering, State.wake]

theorem State.lockedWrite_seen (s : State) (q p : Nat) (o : Obj) (i v : Nat) : (s.seen q).lockedWrite p o i v = s.lockedWrite p o i v := rfl
theorem State.badWrite_seen (s : State) (q p : Nat) (o : Obj) (i v : Nat) : (s.seen q).badWrite p o i v = s.badWrite p o i v := rfl
theorem State.mayWrite_seen (s : State) (q p : Nat) (o : Obj) (i : Nat) : (s.seen q).mayWrite p o i = s.mayWrite p o i := rfl
theorem State.unitRuns_seen (s : State) (q n : Nat) : (s.seen q).unitRuns n = s.unitRuns n := rfl
theorem State.lookup_seen (s : State) (q p ix sub i : Nat) : (s.seen q).lookup p ix sub i = s.lookup p ix sub i := rfl

/-- What an accepted write answers. -/
theorem State.writeObj_ok {s : State} {p : Nat} {o : Obj} {i v : Nat} (hl : s.lookup p o.ix o.sub i = some o)
    (h : (s.writeObj p o.ix o.sub i o.len v).1 = 0) (q : Nat) :
    (s.seen q).writeObj p o.ix o.sub i o.len v = (0, (s.seen q).applyWrite p o i v) := by
  unfold State.writeObj at *
  rw [hl] at h
  rw [State.lookup_seen, hl]
  dsimp only at h ⊢
  rw [State.mayWrite_seen, State.unitRuns_seen, State.lockedWrite_seen, State.badWrite_seen]
  by_cases a1 : o.acc = 0 ∨ o.acc = 4
  · rw [if_pos a1] at h; cases h
  by_cases a2 : (!s.mayWrite p o i) = true
  · rw [if_neg a1, if_pos a2] at h; cases h
  by_cases a4 : o.acc = 3 ∧ s.unitRuns o.haltUnit = true
  · rw [if_neg a1, if_neg a2, if_neg (by simp), if_pos a4] at h; cases h
  by_cases a5 : s.lockedWrite p o i v = true
  · rw [if_neg a1, if_neg a2, if_neg (by simp), if_neg a4, if_pos a5] at h; cases h
  by_cases a6 : o.badValue v = true ∨ s.badWrite p o i v = true
  · rw [if_neg a1, if_neg a2, if_neg (by simp), if_neg a4, if_neg a5, if_pos a6] at h; cases h
  rw [if_neg a1, if_neg a2, if_neg (by simp), if_neg a4, if_neg a5, if_neg a6]

/-- What an accepted write has passed. -/
theorem State.writable_free {s : State} {p : Nat} {o : Obj} {i v : Nat} (h : s.writable p o i v) :
    s.lockedWrite p o i v = false ∧ s.badWrite p o i v = false ∧ o.badValue v = false ∧ s.mayWrite p o i = true := by
  obtain ⟨-, -, hl, h⟩ := h
  unfold State.writeObj at h
  rw [hl] at h
  dsimp only at h
  by_cases a1 : o.acc = 0 ∨ o.acc = 4
  · rw [if_pos a1] at h; cases h
  by_cases a2 : (!s.mayWrite p o i) = true
  · rw [if_neg a1, if_pos a2] at h; cases h
  by_cases a4 : o.acc = 3 ∧ s.unitRuns o.haltUnit = true
  · rw [if_neg a1, if_neg a2, if_neg (by simp), if_pos a4] at h; cases h
  by_cases a5 : s.lockedWrite p o i v = true
  · rw [if_neg a1, if_neg a2, if_neg (by simp), if_neg a4, if_pos a5] at h; cases h
  by_cases a6 : o.badValue v = true ∨ s.badWrite p o i v = true
  · rw [if_neg a1, if_neg a2, if_neg (by simp), if_neg a4, if_neg a5, if_pos a6] at h; cases h
  simp only [not_or, Bool.not_eq_true, Bool.not_eq_true', Bool.not_eq_false] at a2 a5 a6
  exact ⟨a5, a6.2, a6.1, a2⟩

/-- An accepted write is its effect, counted as one op. -/
theorem State.regWrite_writable {s : State} {p : Nat} {o : Obj} {i v : Nat} (h : s.power = 0) (ha : s.writable p o i v) :
    s.regWrite p o i v = ((s.seen s.tick).applyWrite p o i v).inc Reg.aapOps 0 1 := by
  obtain ⟨h1, h2, h3, h4⟩ := ha
  unfold State.regWrite
  rw [if_pos h1, State.rouse_awake h]
  unfold State.dictWrite
  rw [if_pos ⟨h1, h2⟩, State.writeObj_ok h3 h4]

/-- A state that differs from u in registers and pins alone, and in no register but one that counts. -/
def State.counted (u z : State) : Prop :=
  z = { u with objs := z.objs, krdInt := z.krdInt, boundaries := [] } ∧ ∀ o j, o.key j ≠ Reg.aapOps.key 0 → z.rd o j = u.rd o j

theorem writes_run {s : State} {p : Nat} {r : Instr} {o : Obj} {i v : Nat} {but : List (Obj × Nat)} {P : State → Prop}
    (hi : exec r s = .next (State.settle (s.regWrite p o i v))) (ha : s.awake)
    (h : ∀ q, s.writable p o i v → ((s.seen q).applyWrite p o i v).boundaries = [] ∧ s.keepsObjects ((s.seen q).applyWrite p o i v) ((Reg.aapOps, 0) :: but) ∧
      ((s.seen q).applyWrite p o i v).rd Reg.aapOps 0 = s.rd Reg.aapOps 0 ∧
      ∀ z, ((s.seen q).applyWrite p o i v).counted z → P z) : s.writeRuns p r o i v but P := by
  intro hacc
  obtain ⟨h1, h2, h3, h4⟩ := h s.tick hacc
  rw [State.regWrite_writable ha.1 hacc] at hi
  generalize (s.seen s.tick).applyWrite p o i v = u at *
  refine runs_direct hi h1 ⟨h4 _ ⟨rfl, fun o j hne => State.rd_inc_ne _ _ _ _ _ _ (Ne.symm hne)⟩, ?_, ?_⟩
  · intro o j hb
    show (u.inc Reg.aapOps 0 1).rd o j = _
    rw [State.rd_inc_ne _ _ _ _ _ _ (hb (Reg.aapOps, 0) (by simp))]
    exact h2 o j hb
  · show (u.inc Reg.aapOps 0 1).rd Reg.aapOps 0 = _
    rw [State.rd_inc_same, h3]; rfl

theorem State.keeps_wr {s u : State} {o : Obj} {i v : Nat} {l : List (Obj × Nat)} (hu : u.objs = (s.wr o i v).objs) (hm : (o, i) ∈ l) : s.keepsObjects u l := by
  intro o' j hb
  rw [State.rd_congr hu, State.rd_wr_ne _ _ _ _ _ _ (hb _ hm)]

theorem State.rd_of_wr {s u : State} {o : Obj} {i v : Nat} (hu : u.objs = (s.wr o i v).objs) (o' : Obj) (j : Nat)
    (h : o.ix * 2 ^ 8 + o.sub ≠ o'.ix * 2 ^ 8 + o'.sub) : u.rd o' j = s.rd o' j := by
  rw [State.rd_congr hu, State.rd_wr_ne _ _ _ _ _ _ (Obj.key_ne _ _ h)]

/-- A row that is a plain register write. -/
theorem plain_write {s : State} {p : Nat} {r : Instr} {o : Obj} {i v : Nat} {o' : Obj} {v' : Nat} {i' : Nat}
    (hi : exec r s = .next (State.settle (s.regWrite p o i v))) (ha : s.awake)
    (hap : ∀ q, s.writable p o i v → (s.seen q).applyWrite p o i v = (s.seen q).wr o' i' v')
    (hk : o'.ix * 2 ^ 8 + o'.sub ≠ Reg.aapOps.ix * 2 ^ 8 + Reg.aapOps.sub) :
    s.writeRuns p r o i v [(o', i')] (fun t => t.rd o' i' = v' ∧ s.onlyObjects t) := by
  refine writes_run hi ha fun q hw => ?_
  rw [hap q hw]
  refine ⟨ha.2, State.keeps_wr (v := v') rfl (by simp), State.rd_of_wr (v := v') rfl _ _ hk, fun z hz => ⟨?_, ?_⟩⟩
  · rw [hz.2 _ _ (Obj.key_ne _ _ hk), State.rd_wr_same]
  · unfold State.onlyObjects; rw [hz.1, ← ha.2]; rfl

/-- A read of another object after a write: the addresses differ. -/
theorem State.rd_wr_other (s : State) {o o' : Obj} (i j v : Nat) (h : o.ix * 2 ^ 8 + o.sub ≠ o'.ix * 2 ^ 8 + o'.sub) :
    (s.wr o i v).rd o' j = s.rd o' j := State.rd_wr_ne _ _ _ _ _ _ (Obj.key_ne _ _ h)

theorem State.keepsObjects.refl (s : State) (l : List (Obj × Nat)) : s.keepsObjects s l := fun _ _ _ => rfl

theorem State.keepsObjects.congr {s t u : State} {l : List (Obj × Nat)} (h : s.keepsObjects t l) (e : ∀ o j, u.rd o j = t.rd o j) : s.keepsObjects u l :=
  fun o j hb => (e o j).trans (h o j hb)

theorem State.keepsObjects.congr' {s s' t : State} {l : List (Obj × Nat)} (h : s.keepsObjects t l) (e : ∀ o j, s.rd o j = s'.rd o j) : s'.keepsObjects t l :=
  fun o j hb => (h o j hb).trans (e o j)

theorem State.keepsObjects.wr {s t : State} {l : List (Obj × Nat)} (h : s.keepsObjects t l) {o : Obj} {i : Nat} (v : Nat) (hm : (o, i) ∈ l) :
    s.keepsObjects (t.wr o i v) l := fun o' j hb => by
  rw [State.rd_wr_ne _ _ _ _ _ _ (hb _ hm)]; exact h o' j hb

theorem State.keepsObjects.inc {s t : State} {l : List (Obj × Nat)} (h : s.keepsObjects t l) {o : Obj} {i : Nat} (v : Nat) (hm : (o, i) ∈ l) :
    s.keepsObjects (t.inc o i v) l := h.wr _ hm

theorem State.keepsObjects.trans {s t u : State} {l : List (Obj × Nat)} (h : s.keepsObjects t l) (g : t.keepsObjects u l) : s.keepsObjects u l :=
  fun o j hb => (g o j hb).trans (h o j hb)

theorem State.counted.rd {u z : State} (h : u.counted z) {o : Obj} (j : Nat) (hk : Reg.aapOps.ix * 2 ^ 8 + Reg.aapOps.sub ≠ o.ix * 2 ^ 8 + o.sub) :
    z.rd o j = u.rd o j := h.2 _ _ (Obj.key_ne _ _ (Ne.symm hk))

/-- Only the register file differs. -/
def State.registers (s t : State) : Prop := t = { s with objs := t.objs }

theorem State.registers.refl (s : State) : s.registers s := rfl
theorem State.registers.wr {s t : State} (h : s.registers t) (o : Obj) (i v : Nat) : s.registers (t.wr o i v) := by
  unfold State.registers at *
  rw [State.wr]; rw [h]
theorem State.registers.inc {s t : State} (h : s.registers t) (o : Obj) (i v : Nat) : s.registers (t.inc o i v) := h.wr ..

theorem State.registers.onlyObjects {s u z : State} {q : Nat} (h : (s.seen q).registers u) (hz : u.counted z) (hb : s.boundaries = []) : s.onlyObjects z := by
  unfold State.onlyObjects State.registers at *
  rw [hz.1]; rw [h, ← hb]; rfl

theorem State.registers.boundaries {s u : State} {q : Nat} (h : (s.seen q).registers u) (hb : s.boundaries = []) : u.boundaries = [] := by
  unfold State.registers at h
  rw [h]; exact hb

theorem State.releaseFences_objs (s : State) (i : Nat) : (s.releaseFences i).objs = s.objs := by rw [(State.releaseFences_spec s i).2]

/-- A command that is neither RUN nor DISPATCH made ready changes no register but its host's count of missed deadlines. -/
theorem State.makeReady_keeps {s : State} {u st : Nat} {k : Cmd} (hk : s.cmd u = some k) (h1 : hOp k.header ≠ 1) (h2 : hOp k.header ≠ 2) :
    s.keepsObjects (s.makeReady u st) [(Reg.hostDeadlineMisses, k.host)] := by
  unfold State.makeReady
  simp only [hk, h1, h2, or_self, false_and, if_false]
  split
  · exact .refl s _
  · generalize k.finish s.tick st = k'
    have a1 : s.keepsObjects { s with cmds := Tab.put s.cmds u k' } [(Reg.hostDeadlineMisses, k.host)] := fun _ _ _ => rfl
    generalize ({ s with cmds := Tab.put s.cmds u k' } : State) = s1 at *
    generalize (isRefusal st || k.denied) = rf
    have a2 : s.keepsObjects (if rf = true then s1.modRing k.ring fun r => { r with lastRefusal := st } else s1) [(Reg.hostDeadlineMisses, k.host)] := by
      split
      · exact a1.congr fun _ _ => rfl
      · exact a1
    generalize (if rf = true then s1.modRing k.ring fun r => { r with lastRefusal := st } else s1) = s2 at *
    have a3 : s.keepsObjects (if (k'.late s2.tick && !rf) = true then
        (s2.modCtx k.ctx fun c => { c with deadlineMisses := satAdd 32 c.deadlineMisses 1 }).inc Reg.hostDeadlineMisses k.host 1 else s2) [(Reg.hostDeadlineMisses, k.host)] := by
      split
      · exact State.keepsObjects.inc (a2.congr fun _ _ => rfl) _ (by simp)
      · exact a2
    generalize (if (k'.late s2.tick && !rf) = true then
        (s2.modCtx k.ctx fun c => { c with deadlineMisses := satAdd 32 c.deadlineMisses 1 }).inc Reg.hostDeadlineMisses k.host 1 else s2) = s3 at *
    refine a3.congr fun o j => ?_
    rw [State.rd_congr (State.releaseFences_objs _ _)]
    rfl

end Sys2Proof.Machine
end

