-- ==== Sys2Proof/Laws/Recover.lean ====
section
/-! SUPPORT. What waking, sleeping, the fatal stop and the restarts leave (R477, R478, R487 to R490, R545 to R547). -/

set_option Elab.async false

namespace Sys2Proof.Machine

/-! ## Waking and reaching a sleep state -/

/-- A wake from a shallow sleep. -/
theorem State.wake_spec (s : State) (p : Nat) (hp : p = s.power) (h : p = 1 ∨ p = 2 ∨ p = 3) :
    s.wake.power = 0 ∧ s.wake.rd Reg.stateTicks p = (s.rd Reg.stateTicks p + s.since s.stateSince) % 2 ^ 64 ∧
    s.wake.rd Reg.stateEntries 0 = (s.rd Reg.stateEntries 0 + 1) % 2 ^ 64 ∧ s.rd Reg.wakeMaxTicks p ≤ s.wake.rd Reg.wakeMaxTicks p ∧
    s.keepsObjects s.wake [(Reg.powerState, 0), (Reg.stateTicks, p), (Reg.stateEntries, 0), (Reg.wakeMaxTicks, p)] ∧
    s.wake = { s with objs := s.wake.objs, stateSince := s.tick, quietSince := s.tick } := by
  generalize hu : s.wake = u
  unfold State.wake at hu
  rw [← hp] at hu
  dsimp only at hu
  rw [if_neg (by omega)] at hu
  generalize (if p = 1 then 1 else if p = 2 then 122 else 1825) = lat at hu
  have e : ((s.inc Reg.stateTicks p (s.since s.stateSince)).rd Reg.wakeMaxTicks p) = s.rd Reg.wakeMaxTicks p := State.rd_inc_ne _ _ _ _ _ _ (Obj.key_ne _ _ (by decide))
  rw [e] at hu
  have uo : u.objs = ((((s.inc Reg.stateTicks p (s.since s.stateSince)).wr Reg.wakeMaxTicks p (max (s.rd Reg.wakeMaxTicks p) lat)).wr Reg.powerState 0 0).inc Reg.stateEntries 0 1).objs := by rw [← hu]
  have ur : u = { s with objs := u.objs, stateSince := s.tick, quietSince := s.tick } := by
    rw [uo, ← hu]
    generalize (s.rd Reg.wakeMaxTicks p) = m
    generalize s.since s.stateSince = g
    have e1 : s.inc Reg.stateTicks p g = { s with objs := (s.inc Reg.stateTicks p g).objs } := rfl
    generalize s.inc Reg.stateTicks p g = a at *
    have e2 : a.wr Reg.wakeMaxTicks p (max m lat) = { a with objs := (a.wr Reg.wakeMaxTicks p (max m lat)).objs } := rfl
    generalize a.wr Reg.wakeMaxTicks p (max m lat) = b at *
    have e3 : b.wr Reg.powerState 0 0 = { b with objs := (b.wr Reg.powerState 0 0).objs } := rfl
    generalize b.wr Reg.powerState 0 0 = c at *
    have e4 : c.inc Reg.stateEntries 0 1 = { c with objs := (c.inc Reg.stateEntries 0 1).objs } := rfl
    generalize c.inc Reg.stateEntries 0 1 = d at *
    rw [e4, e3, e2, e1]
  refine ⟨?_, ?_, ?_, ?_, ?_, ur⟩
  · show u.rd Reg.powerState 0 = 0
    rw [State.rd_congr uo, State.rd_inc_ne _ _ _ _ _ _ (Obj.key_ne _ _ (by decide)), State.rd_wr_same]
  · rw [State.rd_congr uo, State.rd_inc_ne _ _ _ _ _ _ (Obj.key_ne _ _ (by decide)), State.rd_wr_ne _ _ _ _ _ _ (Obj.key_ne _ _ (by decide)),
      State.rd_wr_ne _ _ _ _ _ _ (Obj.key_ne _ _ (by decide)), State.rd_inc_same]; rfl
  · rw [State.rd_congr uo, State.rd_inc_same, State.rd_wr_ne _ _ _ _ _ _ (Obj.key_ne _ _ (by decide)), State.rd_wr_ne _ _ _ _ _ _ (Obj.key_ne _ _ (by decide)),
      State.rd_inc_ne _ _ _ _ _ _ (Obj.key_ne _ _ (by decide))]; rfl
  · rw [State.rd_congr uo, State.rd_inc_ne _ _ _ _ _ _ (Obj.key_ne _ _ (by decide)), State.rd_wr_ne _ _ _ _ _ _ (Obj.key_ne _ _ (by decide)), State.rd_wr_same]
    exact Nat.le_max_left ..
  · intro o j hk
    rw [State.rd_congr uo, State.rd_inc_ne _ _ _ _ _ _ (hk (Reg.stateEntries, 0) (by simp)), State.rd_wr_ne _ _ _ _ _ _ (hk (Reg.powerState, 0) (by simp)),
      State.rd_wr_ne _ _ _ _ _ _ (hk (Reg.wakeMaxTicks, p) (by simp)), State.rd_inc_ne _ _ _ _ _ _ (hk (Reg.stateTicks, p) (by simp))]

/-- What reaching a sleep state leaves. -/
theorem State.reach_spec (s : State) (n : Nat) (hu : s.untraced) : ∀ t, s.reach n = t → s.asleepIn n t ∧
        s.keepsObjects t [(Reg.powerState, 0), (Reg.stateTicks, s.power), (Reg.stateEntries, n)] ∧
        t = { s with objs := t.objs, stateSince := s.tick, quietSince := s.tick } := by
  intro t ht
  unfold State.reach at ht
  dsimp only at ht
  rw [State.trace_untraced (by
    show ((((s.inc Reg.stateTicks s.power (s.since s.stateSince)).wr Reg.powerState 0 n).inc Reg.stateEntries n 1)).rd Reg.traceUnitMask 0 = 0
    rw [State.rd_inc_ne _ _ _ _ _ _ (Obj.key_ne _ _ (by decide)), State.rd_wr_ne _ _ _ _ _ _ (Obj.key_ne _ _ (by decide)), State.rd_inc_ne _ _ _ _ _ _ (Obj.key_ne _ _ (by decide))]
    exact hu)] at ht
  have uo : t.objs = (((s.inc Reg.stateTicks s.power (s.since s.stateSince)).wr Reg.powerState 0 n).inc Reg.stateEntries n 1).objs := by rw [← ht]
  have ur : t = { s with objs := t.objs, stateSince := s.tick, quietSince := s.tick } := by
    rw [uo, ← ht]
    generalize s.since s.stateSince = g
    generalize s.power = p
    have e1 : s.inc Reg.stateTicks p g = { s with objs := (s.inc Reg.stateTicks p g).objs } := rfl
    generalize s.inc Reg.stateTicks p g = a at *
    have e3 : a.wr Reg.powerState 0 n = { a with objs := (a.wr Reg.powerState 0 n).objs } := rfl
    generalize a.wr Reg.powerState 0 n = c at *
    have e4 : c.inc Reg.stateEntries n 1 = { c with objs := (c.inc Reg.stateEntries n 1).objs } := rfl
    generalize c.inc Reg.stateEntries n 1 = d at *
    rw [e4, e3, e1]
  refine ⟨⟨?_, ?_, ?_⟩, ?_, ur⟩
  · show t.rd Reg.powerState 0 = n
    rw [State.rd_congr uo, State.rd_inc_ne _ _ _ _ _ _ (Obj.key_ne _ _ (by decide)), State.rd_wr_same]
  · rw [State.rd_congr uo, State.rd_inc_ne _ _ _ _ _ _ (Obj.key_ne _ _ (by decide)), State.rd_wr_ne _ _ _ _ _ _ (Obj.key_ne _ _ (by decide)), State.rd_inc_same]; rfl
  · rw [State.rd_congr uo, State.rd_inc_same, State.rd_wr_ne _ _ _ _ _ _ (Obj.key_ne _ _ (by decide)), State.rd_inc_ne _ _ _ _ _ _ (Obj.key_ne _ _ (by decide))]; rfl
  · intro o j hk
    rw [State.rd_congr uo, State.rd_inc_ne _ _ _ _ _ _ (hk (Reg.stateEntries, n) (by simp)), State.rd_wr_ne _ _ _ _ _ _ (hk (Reg.powerState, 0) (by simp)),
      State.rd_inc_ne _ _ _ _ _ _ (hk (Reg.stateTicks, s.power) (by simp))]

/-! ## The fatal stop -/

/-- One port's lanes stop driving. -/
theorem State.lanesOff_spec (s : State) : s.lanesOff = { s with out := s.lanesOff.out, ports := s.lanesOff.ports } ∧ ∀ p, p < s.variant.ports → s.lanesOff.portUp p = false := by
  unfold State.lanesOff
  generalize hf : (fun (s : State) (p : Nat) =>
    let s := if s.rb Reg.portEnable p then (s.emit (.pin 1 (2 * p) 0)).emit (.pin 1 (2 * p + 1) 0) else s
    if s.portUp p then s.modPort p fun q => { q with up := false, laneLock := 0, align := false, fec := false } else s) = f
  have h1 : ∀ a p, f a p = { a with out := (f a p).out, ports := (f a p).ports } := by
    intro a p
    rw [← hf]
    dsimp only
    have e : (if a.rb Reg.portEnable p then (a.emit (.pin 1 (2 * p) 0)).emit (.pin 1 (2 * p + 1) 0) else a) =
        { a with out := (if a.rb Reg.portEnable p then (a.emit (.pin 1 (2 * p) 0)).emit (.pin 1 (2 * p + 1) 0) else a).out } := by
      split <;> rfl
    generalize (if a.rb Reg.portEnable p then (a.emit (.pin 1 (2 * p) 0)).emit (.pin 1 (2 * p + 1) 0) else a) = b at *
    split
    · have e2 : b.modPort p (fun q => { q with up := false, laneLock := 0, align := false, fec := false }) =
          { b with ports := (b.modPort p (fun q => { q with up := false, laneLock := 0, align := false, fec := false })).ports } := rfl
      generalize b.modPort p (fun q => { q with up := false, laneLock := 0, align := false, fec := false }) = c at *
      rw [e2, e]
    · rw [e]
  have h2 : ∀ a p, (f a p).portUp p = false ∧ ∀ q, a.portUp q = false → (f a p).portUp q = false := by
    intro a p
    rw [← hf]
    dsimp only
    have e : (if a.rb Reg.portEnable p then (a.emit (.pin 1 (2 * p) 0)).emit (.pin 1 (2 * p + 1) 0) else a).ports = a.ports := by split <;> rfl
    generalize (if a.rb Reg.portEnable p then (a.emit (.pin 1 (2 * p) 0)).emit (.pin 1 (2 * p + 1) 0) else a) = b at *
    split
    · refine ⟨by simp [State.portUp, State.portRec, State.modPort], fun q hq => ?_⟩
      by_cases hqp : q = p
      · subst hqp; simp [State.portUp, State.portRec, State.modPort]
      · simpa [State.portUp, State.portRec, State.modPort, Tab.get_set_ne _ _ _ _ (Ne.symm hqp), e] using hq
    · rename_i hb
      refine ⟨by simpa using hb, fun q hq => ?_⟩
      simpa [State.portUp, State.portRec, e] using hq
  have key : ∀ (l : List Nat) (a : State), l.foldl f a = { a with out := (l.foldl f a).out, ports := (l.foldl f a).ports } ∧
      (∀ q, a.portUp q = false → (l.foldl f a).portUp q = false) ∧ ∀ p ∈ l, (l.foldl f a).portUp p = false := by
    intro l
    induction l with
    | nil => exact fun a => ⟨rfl, fun q h => h, fun p h => absurd h List.not_mem_nil⟩
    | cons p l ih =>
      intro a
      obtain ⟨i1, i2, i3⟩ := ih (f a p)
      have g1 := h1 a p
      obtain ⟨g2, g3⟩ := h2 a p
      simp only [List.foldl_cons]
      generalize List.foldl f (f a p) l = c at *
      generalize f a p = b at *
      refine ⟨by rw [i1, g1], fun q h => i2 q (g3 q h), fun q hq => ?_⟩
      rcases List.mem_cons.mp hq with rfl | hq
      · exact i2 _ g2
      · exact i3 q hq
  obtain ⟨k1, _, k3⟩ := key (List.range s.variant.ports) s
  exact ⟨k1, fun p hp => k3 p (List.mem_range.mpr hp)⟩

/-- No context has its image in the context cache. -/
def State.noneCached (s : State) : Prop := ∀ x c, s.ctx x = some c → c.residency ≠ 2

theorem State.saveImages_none (s : State) (h : State.noneCached s) (lost : Bool) (l : List Nat) : l.foldl (fun s x => s.saveImage lost x) s = s := by
  induction l with
  | nil => rfl
  | cons x l ih =>
    have : s.saveImage lost x = s := by
      unfold State.saveImage
      split
      · rfl
      · rename_i c hc
        rw [if_pos (h x c hc)]
    rw [List.foldl_cons, this, ih]

theorem State.stopSteps_spec (s : State) (h : State.noneCached s) (lost : Bool) : ∀ t, s.stopSteps lost = t →
    t = { s with ports := t.ports, out := t.out, rings := t.rings, ctxs := t.ctxs } ∧ (∀ p, p < s.variant.ports → t.portUp p = false) ∧
    (∀ i, t.ring i = if (s.ring i).rob = [] then s.ring i else { s.ring i with state := 3 }) ∧
    ∀ x, t.ctx x = (s.ctx x).map fun c =>
      if c.state ≠ 7 ∧ (c.residency = 1 ∨ c.imageBad = true) then { c with state := 7, replayPending := false, killTick := s.tick, residency := 3, place := 0 } else c := by
  intro t ht
  obtain ⟨l1, l2⟩ := State.lanesOff_spec s
  unfold State.stopSteps at ht
  dsimp only at ht
  generalize s.lanesOff = a at *
  have hr : a.haltRings = { a with rings := a.haltRings.rings } := rfl
  have hrr : ∀ i, a.haltRings.ring i = if (s.ring i).rob = [] then s.ring i else { s.ring i with state := 3 } := by
    intro i
    have e : a.rings = s.rings := by rw [l1]
    simp only [State.ring, State.haltRings, Tab.get_eq_find, Tab.find_mapVals, e]
    cases hfi : Tab.find s.rings i with
    | none => simp
    | some r =>
      simp only [Option.map_some, Option.getD_some, List.isEmpty_iff]
  generalize a.haltRings = b at *
  have hn : State.noneCached b := by
    intro x c hc
    refine h x c ?_
    rw [hr, l1] at hc
    exact hc
  rw [State.saveImages_none b hn] at ht
  have bc : b.ctxs = s.ctxs ∧ b.tick = s.tick := by rw [hr, l1]; exact ⟨rfl, rfl⟩
  refine ⟨by rw [← ht, hr, l1], fun p hp => ?_, fun i => ?_, fun x => ?_⟩
  · have := l2 p hp
    rw [← ht]
    simp only [State.portUp, State.portRec] at this ⊢
    rw [show b.ports = a.ports by rw [hr]]; exact this
  · rw [← ht]; exact hrr i
  · rw [← ht]
    simp only [State.ctx, Tab.find_mapVals, bc.1, bc.2]
    cases Tab.find s.ctxs x with
    | none => rfl
    | some c =>
      simp only [Option.map_some]
      congr 1
      simp [Ctx.stopped]

theorem State.stopEngine_spec (s : State) (h : State.noneCached s) (lost : Bool) : ∀ t, s.stopEngine lost = t →
    s.halted t ∧ t.rd Reg.fatalStops 0 = (s.rd Reg.fatalStops 0 + 1) % 2 ^ 64 ∧ s.keepsObjects t [(Reg.fatalState, 0), (Reg.fatalStops, 0)] ∧
      t = { s with ports := t.ports, rings := t.rings, ctxs := t.ctxs, out := t.out, objs := t.objs, stopDeadline := none } := by
  intro t ht
  obtain ⟨a1, a2, a3, a4⟩ := State.stopSteps_spec s h lost _ rfl
  unfold State.stopEngine at ht
  generalize s.stopSteps lost = a at *
  have ao : a.objs = s.objs := by rw [a1]
  have tobj : t.objs = ((a.wr Reg.fatalState 0 2).inc Reg.fatalStops 0 1).objs := by rw [← ht]
  have tt : t = { a with objs := t.objs, stopDeadline := none } := by rw [tobj, ← ht]; rfl
  refine ⟨⟨?_, fun p hp => ?_, fun i => ?_, fun x => ?_⟩, ?_, ?_, ?_⟩
  · rw [State.rd_congr tobj, State.rd_inc_ne _ _ _ _ _ _ (Obj.key_ne _ _ (by decide)), State.rd_wr_same]
  · rw [tt]; exact a2 p hp
  · rw [tt]; exact a3 i
  · rw [tt]; exact a4 x
  · rw [State.rd_congr tobj, State.rd_inc_same, State.rd_wr_ne _ _ _ _ _ _ (Obj.key_ne _ _ (by decide)), State.rd_congr ao]; rfl
  · intro o j hk
    rw [State.rd_congr tobj, State.rd_inc_ne _ _ _ _ _ _ (hk (Reg.fatalStops, 0) (by simp)), State.rd_wr_ne _ _ _ _ _ _ (hk (Reg.fatalState, 0) (by simp)), State.rd_congr ao]
  · rw [tt, a1]

theorem State.noneCached.seen {s : State} (h : State.noneCached s) (q : Nat) : State.noneCached (s.seen q) := fun x c hc => h x c hc

theorem State.raise_fatal (s : State) (e : Ev) (row : SourceRow) (hr : sourceRow e.src = some row) (h1 : row.cls ≠ 0) (h2 : e.reaction row = 5) : s.recorded (s.raise e) := by
  unfold State.raise
  simp only [hr]
  have a1 := State.inc_recorded s Reg.eventCount e.src 1
  generalize s.inc Reg.eventCount e.src 1 = s1 at *
  have a2 := a1.trans (State.wr_recorded s1 Reg.faultStatus (e.src / 256) (setBit (s1.rd Reg.faultStatus (e.src / 256)) (e.src % 256)))
  generalize s1.wr Reg.faultStatus (e.src / 256) (setBit (s1.rd Reg.faultStatus (e.src / 256)) (e.src % 256)) = s2 at *
  rw [if_neg h1]
  simp only [Bool.false_eq_true, if_false]
  rw [if_neg h1, h2, if_neg h1, if_pos rfl]
  exact ((a2.trans (State.recordEvent_recorded _ _)).trans (State.captureFirst_recorded _ _)).trans (State.enterFatal_recorded ..)

/-! ## The restarts -/

theorem Tab.find_keep_key {α : Type} (t : Tab α) (f : Nat → Bool) (k : Nat) : Tab.find (Tab.keep t fun k _ => f k) k = if f k then Tab.find t k else none := by
  induction t with
  | nil => simp [Tab.keep, Tab.find]
  | cons p t ih =>
    obtain ⟨k', v⟩ := p
    by_cases h : k' = k
    · subst h
      cases hf : f k' with
      | true => simp [Tab.keep, Tab.find, hf]
      | false => rw [hf] at ih; simpa [Tab.keep, Tab.find, hf] using ih
    · cases hf : f k' with
      | true => simpa [Tab.keep, Tab.find, hf, h] using ih
      | false => simpa [Tab.keep, Tab.find, hf, h] using ih

/-- What the states a warm reset restarts from have in common with the state it began in. -/
structure RestartsFrom (s a : State) : Prop where
  objs : ∀ o i, (∀ b ∈ [Reg.fatalState, Reg.fatalSource, Reg.fatalStops, Reg.dormantRestoreFailures], o.address ≠ b.address) → a.rd o i = s.rd o i
  held : a.heldPages = s.heldPages
  mem : a.mem = s.mem
  withdrawn : a.withdrawnList = s.withdrawnList
  tick : a.tick = s.tick
  boundaries : a.boundaries = s.boundaries
  rings : ∀ i, (s.ring i).state = 3 → (a.ring i).state = 3
  idle : ∀ x c, s.ctx x = some c → c.state ≠ 7 → c.residency ≠ 1 → c.imageBad = false → a.ctx x = some c
  killed : ∀ x c, s.ctx x = some c → c.state = 7 → a.ctx x = some c

theorem keep_address {o : Obj} {i : Nat} (b : Obj) (hb : keepKey (b.key i) = false ∧ carriedKey (b.key i) = false)
    (h : keepKey (o.key i) = true ∨ carriedKey (o.key i) = true) : o.address ≠ b.address := by
  intro e
  have hk : ∀ c : Obj, c.key i = c.address * 2 ^ 16 + i % 2 ^ 16 := by
    intro c
    simp only [Obj.key, Obj.address]
    generalize i % 2 ^ 16 = m
    omega
  have : o.key i = b.key i := by rw [hk, hk, e]
  rw [this, hb.1, hb.2] at h
  rcases h with h | h <;> cases h

theorem obj_key_parts (o : Obj) (i : Nat) (h : o.sub < 2 ^ 8) : o.key i / 2 ^ 24 = o.ix ∧ o.key i / 2 ^ 16 % 2 ^ 8 = o.sub ∧ o.key i % 2 ^ 16 = i % 2 ^ 16 := by
  simp only [Obj.key]; omega

theorem keepKey_of (k ix sub : Nat) (h1 : k / 2 ^ 24 = ix) (h2 : k / 2 ^ 16 % 2 ^ 8 = sub) : keepKey k = (match findObj ix sub with
    | some o => o.keep
    | none => false) := by
  subst h1 h2; rfl

theorem fatalState_cleared (i : Nat) : keepKey (Reg.fatalState.key i) = false ∧ carriedKey (Reg.fatalState.key i) = false := by
  obtain ⟨h1, h2, h3⟩ := obj_key_parts Reg.fatalState i (by decide)
  constructor
  · rw [keepKey_of _ _ _ h1 h2]; decide +kernel
  · unfold carriedKey
    rw [h1, h3]
    dsimp only
    have d : ∀ b : Obj, Reg.fatalState.ix * 2 ^ 8 + Reg.fatalState.sub ≠ b.ix * 2 ^ 8 + b.sub → (Reg.fatalState.key i == b.key 0) = false := fun b hb => by
      simpa using Obj.key_ne i 0 hb
    rw [d Reg.contextImageWindow (by decide), d Reg.dormantSaveWindow (by decide), d Reg.replyCacheWindow (by decide), d Reg.peerDirectoryWindow (by decide)]
    rfl

theorem find_map_const {α β : Type} (t : Tab α) (f : α → Bool) (v : β) (k : Nat) :
    (Tab.find ((Tab.keep t fun _ r => f r).map fun p => (p.1, v)) k = none ∨ Tab.find ((Tab.keep t fun _ r => f r).map fun p => (p.1, v)) k = some v) ∧
    ∀ r, Tab.find t k = some r → f r = true → Tab.find ((Tab.keep t fun _ r => f r).map fun p => (p.1, v)) k = some v := by
  induction t with
  | nil => simp [Tab.keep, Tab.find]
  | cons p t ih =>
    obtain ⟨k', r⟩ := p
    by_cases h : k' = k
    · subst h
      cases hf : f r with
      | true => simp [Tab.keep, Tab.find, hf]
      | false =>
        refine ⟨by simpa [Tab.keep, Tab.find, hf] using ih.1, fun r' h1 h2 => ?_⟩
        simp only [Tab.find] at h1
        rw [if_pos trivial] at h1
        cases h1
        rw [hf] at h2; cases h2
    · cases hf : f r with
      | true => simpa [Tab.keep, Tab.find, hf, h] using ih
      | false => simpa [Tab.keep, Tab.find, hf, h] using ih

theorem restarted_idle (c : Ctx) (n : Nat) (h : c.state ≠ 7) : (c.restarted n).state = 1 ∧ (c.restarted n).heat = (c.heat + 1) % 2 ^ 16 ∧ (c.restarted n).step = c.step := by
  unfold Ctx.restarted
  rw [if_neg h]
  exact ⟨rfl, rfl, rfl⟩

theorem restarted_killed (c : Ctx) (n : Nat) (h : c.state = 7) : (c.restarted n).state = 7 := by
  unfold Ctx.restarted
  rw [if_pos h]
  exact h

theorem State.restart_spec {s a : State} (h : RestartsFrom s a) (hh : s.heldPages = []) : ∀ t, a.restart = t →
      t.rd Reg.incarnation 0 = (s.rd Reg.incarnation 0 + 1) % 2 ^ 16 ∧ t.rd Reg.bootState 0 = 2 ∧
      (∀ o i, keepKey (o.key i) = false → carriedKey (o.key i) = false → o.address ≠ Reg.bootState.address → t.rd o i = o.reset) ∧
      (∀ o i, keepKey (o.key i) = true ∨ carriedKey (o.key i) = true →
        (∀ b ∈ [Reg.incarnation, Reg.fatalSource, Reg.fatalStops, Reg.dormantRestoreFailures, Reg.bootState], o.address ≠ b.address) → t.rd o i = s.rd o i) ∧
      t.tallies = [] ∧ t.cmds = [] ∧ t.plans = [] ∧ t.patterns = [] ∧ t.peers = [] ∧ t.flasks = [] ∧ t.blocks = [] ∧ t.subs = [] ∧
      (∀ i, (t.ring i).state ≠ 0 → t.ring i = { state := 3 }) ∧ (∀ i, (s.ring i).state = 3 → (t.ring i).state = 3) ∧
      (∀ x c, s.ctx x = some c → c.state ≠ 7 → c.residency ≠ 1 → c.imageBad = false → ∃ d, t.ctx x = some d ∧ d.state = 1 ∧ d.heat = (c.heat + 1) % 2 ^ 16 ∧ d.step = c.step) ∧
      (∀ x c, s.ctx x = some c → c.state = 7 → ∃ d, t.ctx x = some d ∧ d.state = 7) ∧
      t.mem = s.mem ∧ t.withdrawnList = s.withdrawnList ∧ t.tick = s.tick ∧ t.heldPages = [] ∧ t.boundaries = [] ∧ t.heldAap = [] ∧
      (∀ x c, a.ctx x = some c → c.state = 7 → ∃ d, t.ctx x = some d ∧ d.state = 7) ∧
      (∀ o i, keepKey (o.key i) = true ∨ carriedKey (o.key i) = true → o.address ≠ Reg.incarnation.address → o.address ≠ Reg.bootState.address → t.rd o i = a.rd o i) := by
  intro t ht
  have hi : a.rd Reg.incarnation 0 = s.rd Reg.incarnation 0 := h.objs _ _ (by decide)
  unfold State.restart at ht
  dsimp only at ht
  rw [hi] at ht
  generalize hx : (s.rd Reg.incarnation 0 + 1) % 2 ^ 16 = n at *
  have tobj : ∃ u : State, u.objs = Tab.keep a.objs (fun k _ => keepKey k || carriedKey k) ∧ t.objs = ((u.wr Reg.incarnation 0 n).wr Reg.bootState 0 2).objs := by
    exact ⟨_, rfl, by rw [← ht]⟩
  obtain ⟨u, uo, tobj⟩ := tobj
  have ur : ∀ o i, u.rd o i = if keepKey (o.key i) || carriedKey (o.key i) then a.rd o i else o.reset := by
    intro o i
    simp only [State.rd, uo, Tab.get_eq_find]
    rw [Tab.find_keep_key a.objs (fun k => keepKey k || carriedKey k)]
    split <;> rfl
  have tr : ∀ o i, o.address ≠ Reg.incarnation.address → o.address ≠ Reg.bootState.address → t.rd o i = u.rd o i := by
    intro o i h1 h2
    rw [State.rd_congr tobj, State.rd_wr_ne _ _ _ _ _ _ (Obj.key_ne _ _ (Ne.symm h2)), State.rd_wr_ne _ _ _ _ _ _ (Obj.key_ne _ _ (Ne.symm h1))]
  have tg : t.rings = (Tab.keep a.rings fun _ r => r.state == 3).map fun p => (p.1, ({ state := 3 } : Ring)) := by rw [← ht]; rfl
  have tc : t.ctxs = Tab.mapVals a.ctxs fun _ c => c.restarted a.tick := by rw [← ht]; rfl
  have kill : ∀ x c, a.ctx x = some c → c.state = 7 → ∃ d, t.ctx x = some d ∧ d.state = 7 := by
    intro x c h1 h2
    refine ⟨c.restarted a.tick, ?_, restarted_killed _ _ h2⟩
    simp only [State.ctx, tc, Tab.find_mapVals]
    rw [show Tab.find a.ctxs x = some c from h1]; rfl
  refine ⟨?_, ?_, fun o i h1 h2 h3 => ?_, fun o i h1 h2 => ?_, by rw [← ht]; rfl, by rw [← ht]; rfl, by rw [← ht]; rfl, by rw [← ht]; rfl, by rw [← ht]; rfl,
    by rw [← ht]; rfl, by rw [← ht]; rfl, by rw [← ht]; rfl, fun i hi => ?_, fun i hi => ?_, fun x c h1 h2 h3 h4 => ?_, fun x c h1 h2 => kill x c (h.killed x c h1 h2) h2,
    by rw [← ht, ← h.mem]; rfl, by rw [← ht, ← h.withdrawn]; rfl, by rw [← ht, ← h.tick]; rfl, by rw [← ht, ← hh, ← h.held]; rfl, by rw [← ht]; rfl, by rw [← ht]; rfl, kill,
    fun o i h1 h2 h3 => by rw [tr o i h2 h3, ur, if_pos (by simpa using h1)]⟩
  · rw [State.rd_congr tobj, State.rd_wr_ne _ _ _ _ _ _ (Obj.key_ne _ _ (by decide)), State.rd_wr_same]
  · rw [State.rd_congr tobj, State.rd_wr_same]
  · have hinc : o.address ≠ Reg.incarnation.address := by
      intro e
      have : keepKey (o.key i) = true := by
        have hk : ∀ c : Obj, c.key i = c.address * 2 ^ 16 + i % 2 ^ 16 := by
          intro c
          simp only [Obj.key, Obj.address]
          generalize i % 2 ^ 16 = m
          omega
        obtain ⟨k1, k2, k3⟩ := obj_key_parts Reg.incarnation i (by decide)
        rw [hk, e, ← hk, keepKey_of _ _ _ k1 k2]; decide +kernel
      rw [this] at h1; cases h1
    rw [tr o i hinc h3, ur, h1, h2]; rfl
  · have hm : ∀ b, b ∈ [Reg.incarnation, Reg.fatalSource, Reg.fatalStops, Reg.dormantRestoreFailures, Reg.bootState] → o.address ≠ b.address := h2
    rw [tr o i (hm _ (by simp)) (hm _ (by simp)), ur, if_pos (by simpa using h1)]
    refine h.objs o i fun b hb => ?_
    simp only [List.mem_cons, List.not_mem_nil, or_false] at hb
    rcases hb with rfl | rfl | rfl | rfl
    · exact keep_address _ (fatalState_cleared i) h1
    · exact hm _ (by simp)
    · exact hm _ (by simp)
    · exact hm _ (by simp)
  · simp only [State.ring, Tab.get_eq_find, tg] at hi ⊢
    rcases (find_map_const a.rings (fun r => r.state == 3) ({ state := 3 } : Ring) i).1 with e | e
    · rw [e] at hi; exact absurd rfl hi
    · rw [e]; rfl
  · have h3 := h.rings i hi
    simp only [State.ring, Tab.get_eq_find, tg] at h3 ⊢
    cases hf : Tab.find a.rings i with
    | none => rw [hf] at h3; cases h3
    | some r =>
      rw [hf] at h3
      rw [(find_map_const a.rings (fun r => r.state == 3) ({ state := 3 } : Ring) i).2 r hf (by simpa using h3)]; rfl
  · obtain ⟨r1, r2, r3⟩ := restarted_idle c a.tick h2
    refine ⟨c.restarted a.tick, ?_, r1, r2, r3⟩
    simp only [State.ctx, tc, Tab.find_mapVals]
    rw [show Tab.find a.ctxs x = some c from h.idle x c h1 h2 h3 h4]; rfl

theorem restartsFrom_wr {s a : State} (h : RestartsFrom s a) {b : State} {o : Obj} {i v : Nat}
    (ho : o ∈ [Reg.fatalState, Reg.fatalSource, Reg.fatalStops, Reg.dormantRestoreFailures]) (hb : b = a.wr o i v) : RestartsFrom s b := by
  have e : b = { a with objs := (a.wr o i v).objs } := hb
  refine ⟨fun o' j hk => ?_, ?_, ?_, ?_, ?_, ?_, ?_, ?_, ?_⟩
  · rw [hb, State.rd_wr_ne _ _ _ _ _ _ (Obj.key_ne _ _ (Ne.symm (hk o ho)))]
    exact h.objs o' j hk
  · rw [e]; exact h.held
  · rw [e]; exact h.mem
  · rw [e]; exact h.withdrawn
  · rw [e]; exact h.tick
  · rw [e]; exact h.boundaries
  · rw [e]; exact h.rings
  · rw [e]; exact h.idle
  · rw [e]; exact h.killed

theorem restartsFrom_refl (s : State) : RestartsFrom s s := ⟨fun _ _ _ => rfl, rfl, rfl, rfl, rfl, rfl, fun _ h => h, fun _ _ h _ _ _ => h, fun _ _ h _ => h⟩

theorem stopped_context {s a : State} (h : ∀ x, a.ctx x = (s.ctx x).map fun c =>
      if c.state ≠ 7 ∧ (c.residency = 1 ∨ c.imageBad = true) then { c with state := 7, replayPending := false, killTick := s.tick, residency := 3, place := 0 } else c) :
    (∀ x c, s.ctx x = some c → c.state ≠ 7 → c.residency ≠ 1 → c.imageBad = false → a.ctx x = some c) ∧
    (∀ x c, s.ctx x = some c → c.state = 7 → a.ctx x = some c) ∧ (∀ x c, s.ctx x = some c → c.residency = 1 → ∃ d, a.ctx x = some d ∧ d.state = 7) := by
  refine ⟨fun x c h1 h2 h3 h4 => ?_, fun x c h1 h2 => ?_, fun x c h1 h2 => ?_⟩
  · rw [h, h1, Option.map_some, if_neg (by simp [h3, h4])]
  · rw [h, h1, Option.map_some, if_neg (by simp [h2])]
  · rw [h, h1, Option.map_some]
    by_cases h7 : c.state = 7
    · exact ⟨c, by rw [if_neg (by simp [h7])], h7⟩
    · exact ⟨_, by rw [if_pos ⟨h7, .inl h2⟩], rfl⟩

theorem stopped_rings {s a : State} (h : ∀ i, a.ring i = if (s.ring i).rob = [] then s.ring i else { s.ring i with state := 3 }) :
    ∀ i, (s.ring i).state = 3 → (a.ring i).state = 3 := by
  intro i hi
  rw [h]
  split
  · exact hi
  · rfl

theorem restartsFrom_steps (s : State) (hn : State.noneCached s) : ∀ a, s.stopSteps false = a → RestartsFrom s a ∧ ∀ x c, s.ctx x = some c → c.residency = 1 → ∃ d, a.ctx x = some d ∧ d.state = 7 := by
  intro a ha
  obtain ⟨f1, f2, f3, f4⟩ := State.stopSteps_spec s hn false a ha
  obtain ⟨c1, c2, c3⟩ := stopped_context f4
  have fr := stopped_rings f3
  have fo : a.objs = s.objs := by rw [f1]
  refine ⟨⟨fun o i _ => State.rd_congr fo o i, by rw [f1], by rw [f1], by rw [f1], by rw [f1], by rw [f1], fr, c1, c2⟩, c3⟩

theorem restartsFrom_engine (s : State) (hn : State.noneCached s) : ∀ a, s.stopEngine false = a → RestartsFrom s a ∧ ∀ x c, s.ctx x = some c → c.residency = 1 → ∃ d, a.ctx x = some d ∧ d.state = 7 := by
  intro a ha
  obtain ⟨⟨_, _, f3, f4⟩, _, fk, f1⟩ := State.stopEngine_spec s hn false a ha
  obtain ⟨c1, c2, c3⟩ := stopped_context f4
  have fr := stopped_rings f3
  refine ⟨⟨fun o i hk => fk o i fun b hb => ?_, by rw [f1], by rw [f1], by rw [f1], by rw [f1], by rw [f1], fr, c1, c2⟩, c3⟩
  simp only [List.mem_cons, List.not_mem_nil, or_false] at hb
  rcases hb with rfl | rfl
  · exact Obj.key_ne _ _ (Ne.symm (hk Reg.fatalState (by simp)))
  · exact Obj.key_ne _ _ (Ne.symm (hk Reg.fatalStops (by simp)))

theorem State.warmReset_base (s : State) (hn : State.noneCached s) (hbt : s.booted = true) : ∃ a, s.warmReset = a.restart ∧ RestartsFrom s a ∧
    (∀ x c, s.ctx x = some c → (s.power ≠ 4 ∧ s.rd Reg.fatalState 0 < 2 ∧ c.residency = 1) → ∃ d, a.ctx x = some d ∧ d.state = 7) := by
  unfold State.warmReset
  have h2 : 2 ≤ s.rd Reg.bootState 0 := by simpa [State.booted] using hbt
  rw [if_neg (by omega)]
  split
  · rename_i h4
    refine ⟨_, rfl, ?_, fun x c _ h => absurd h4 h.1⟩
    exact restartsFrom_wr (o := Reg.dormantRestoreFailures) (restartsFrom_refl s) (by simp) rfl
  · split
    · rename_i h4 h0
      obtain ⟨r, k⟩ := restartsFrom_steps s hn _ rfl
      exact ⟨_, rfl, restartsFrom_wr (o := Reg.fatalSource) r (by simp) rfl, fun x c hx h => k x c hx h.2.2⟩
    · split
      · obtain ⟨r, k⟩ := restartsFrom_engine s hn _ rfl
        exact ⟨_, rfl, r, fun x c hx h => k x c hx h.2.2⟩
      · refine ⟨s, rfl, restartsFrom_refl s, fun x c _ h => ?_⟩
        omega

/-! ## Dormant -/

theorem State.memWrite_only (s : State) (a : Nat) (l : List Byte) : s.memWrite a l = { s with mem := (s.memWrite a l).mem } := rfl
theorem State.modCtx_only (s : State) (x : Nat) (f : Ctx → Ctx) : s.modCtx x f = { s with ctxs := (s.modCtx x f).ctxs } := rfl
theorem State.since_congr {s t : State} (h : t.tick = s.tick) (x : Nat) : t.since x = s.since x := by unfold State.since; rw [h]

theorem State.writeImage_frame (s u v : State) (y : Nat) (e : u = { s with mem := u.mem }) (hv : u.modCtx y (fun c => { c with dirty := false }) = v) :
  v = { s with ctxs := v.ctxs, mem := v.mem } ∧ ∀ x c, s.ctx x = some c → ∃ d, v.ctx x = some d ∧ d = { c with dirty := d.dirty } := by
  have e2 : v = { u with ctxs := v.ctxs } := by rw [← hv]; exact State.modCtx_only u y _
  refine ⟨by rw [e2, e], fun x c' hx => ?_⟩
  have hx' : u.ctx x = some c' := by rw [e]; exact hx
  by_cases h : x = y
  · subst h; exact ⟨{ c' with dirty := false }, by rw [← hv, State.ctx_modCtx_same, hx', Option.map_some], rfl⟩
  · exact ⟨c', by rw [← hv, State.ctx_modCtx_ne _ _ h, hx'], rfl⟩

theorem State.writeImage_eq (s : State) (y : Nat) : s.writeImage y = s ∨ ∃ a l, s.writeImage y = (s.memWrite a l).modCtx y (fun c => { c with dirty := false }) := by
  unfold State.writeImage
  split
  · rename_i c a hc ha
    exact .inr ⟨a, imageBytes c, rfl⟩
  · exact .inl rfl
/-- What the write-back of an image leaves: the image in memory, and the context no longer dirty (R436). -/
theorem State.writeImage_spec (s : State) (y : Nat) : s.writeImage y = { s with ctxs := (s.writeImage y).ctxs, mem := (s.writeImage y).mem } ∧
    ∀ x c, s.ctx x = some c → ∃ d, (s.writeImage y).ctx x = some d ∧ d = { c with dirty := d.dirty } := by
  rcases State.writeImage_eq s y with h | ⟨a, l, h⟩
  · rw [h]; exact ⟨rfl, fun x c h => ⟨c, h, rfl⟩⟩
  · rw [h]
    exact State.writeImage_frame s _ _ y (State.memWrite_only s a l) rfl

/-- Every image written back: each context has its image in the table and no other place (R496). -/
theorem State.imagesOut_spec (l : List Nat) : ∀ s : State,
    let t := l.foldl (fun s x => (s.writeImage x).modCtx x fun c => { c with residency := 3, place := 0 }) s
    t = { s with ctxs := t.ctxs, mem := t.mem } ∧ ∀ x c, s.ctx x = some c → ∃ d, t.ctx x = some d ∧
      (d = { c with dirty := d.dirty } ∧ x ∉ l ∨ d = { c with residency := 3, place := 0, dirty := d.dirty }) := by
  induction l with
  | nil => exact fun s => ⟨rfl, fun x c h => ⟨c, h, .inl ⟨rfl, List.not_mem_nil⟩⟩⟩
  | cons y l ih =>
    intro s
    simp only [List.foldl_cons]
    obtain ⟨w1, w2⟩ := State.writeImage_spec s y
    generalize s.writeImage y = a at *
    have m1 : a.modCtx y (fun c => { c with residency := 3, place := 0 }) = { a with ctxs := (a.modCtx y (fun c => { c with residency := 3, place := 0 })).ctxs } := rfl
    have m2 : ∀ x, x ≠ y → (a.modCtx y (fun c => { c with residency := 3, place := 0 })).ctx x = a.ctx x := fun x h => State.ctx_modCtx_ne _ _ h
    have m3 : (a.modCtx y (fun c => { c with residency := 3, place := 0 })).ctx y = (a.ctx y).map (fun c => { c with residency := 3, place := 0 }) := State.ctx_modCtx_same ..
    generalize a.modCtx y (fun c => { c with residency := 3, place := 0 }) = b at *
    obtain ⟨i1, i2⟩ := ih b
    generalize List.foldl (fun s x => (s.writeImage x).modCtx x fun c => { c with residency := 3, place := 0 }) b l = t at *
    refine ⟨by rw [i1, m1, w1], fun x c hx => ?_⟩
    obtain ⟨d, d1, d2⟩ := w2 x c hx
    by_cases h : x = y
    · subst h
      rw [d1] at m3
      obtain ⟨e, e1, e2⟩ := i2 x _ m3
      refine ⟨e, e1, .inr ?_⟩
      rcases e2 with ⟨e2, _⟩ | e2 <;> rw [e2, d2]
    · obtain ⟨e, e1, e2⟩ := i2 x d (by rw [m2 x h]; exact d1)
      refine ⟨e, e1, ?_⟩
      rcases e2 with ⟨e2, e3⟩ | e2
      · exact .inl ⟨by rw [e2, d2], fun hm => by rcases List.mem_cons.mp hm with h' | h'; exact h h'; exact e3 h'⟩
      · exact .inr (by rw [e2, d2])

theorem Tab.key_of_find {α : Type} {t : Tab α} {k : Nat} {v : α} (h : Tab.find t k = some v) : k ∈ t.map (·.1) :=
  List.mem_map.mpr ⟨(k, v), Tab.mem_of_find h, rfl⟩

theorem State.dormantUnset_addr {s : State} (hd : s.dormantUnset = false) : ∃ base, s.engineAddr (s.rd Reg.dormantSaveWindow 0) 0 (80 * 2 ^ 20) = some base := by
  unfold State.dormantUnset at hd
  have h2 := (Bool.or_eq_false_iff.mp hd).2
  cases h : s.engineAddr (s.rd Reg.dormantSaveWindow 0) 0 (80 * 2 ^ 20) with
  | none => rw [h] at h2; cases h2
  | some base => exact ⟨base, rfl⟩

/-- What the save of the images in memory does to the state (R496). -/
def State.savedAs (b : State) (mem saved : Tab Byte) (w : Nat × Nat) : State := { b with mem := mem, saved := saved, savedAt := some w }

theorem State.saveTo (b : State) (base : Nat) : ∃ m v w, ({ b with
      mem := (b.saveImage4 base).1.foldl (fun (t : Tab Byte) (p : Nat × Byte) => Tab.set memDefault t p.1 p.2) (Tab.clearRange b.mem base (b.saveImage4 base).2)
      saved := (b.saveImage4 base).1, savedAt := some (base, (b.saveImage4 base).2) } : State) = b.savedAs m v w := ⟨_, _, _, rfl⟩

theorem State.goDormant_eq (s : State) : ∃ peers, s.goDormant =
    let b := ((s.ctxs.map (·.1)).foldl (fun s x => (s.writeImage x).modCtx x fun c => { c with residency := 3, place := 0 }) { s with peers := peers })
    (({ (match b.engineAddr (b.rd Reg.dormantSaveWindow 0) 0 (80 * 2 ^ 20) with
      | none => b
      | some base => { b with
        mem := (b.saveImage4 base).1.foldl (fun (t : Tab Byte) (p : Nat × Byte) => Tab.set memDefault t p.1 p.2) (Tab.clearRange b.mem base (b.saveImage4 base).2)
        saved := (b.saveImage4 base).1, savedAt := some (base, (b.saveImage4 base).2) } : State).lanesOff with mainReq := false } : State).emit (.pin 0 0 0)).reach 4 :=
  ⟨_, rfl⟩

theorem State.goDormant_saved (s : State) (hd : s.dormantUnset = false) : ∃ peers b m v w,
    b = ((s.ctxs.map (·.1)).foldl (fun s x => (s.writeImage x).modCtx x fun c => { c with residency := 3, place := 0 }) { s with peers := peers }) ∧
    s.goDormant = (({ (b.savedAs m v w).lanesOff with mainReq := false } : State).emit (.pin 0 0 0)).reach 4 := by
  obtain ⟨peers, h⟩ := State.goDormant_eq s
  dsimp only at h
  have i1 := (State.imagesOut_spec (s.ctxs.map (·.1)) { s with peers := peers }).1
  generalize hb : List.foldl (fun s x => (s.writeImage x).modCtx x fun c => { c with residency := 3, place := 0 }) ({ s with peers := peers } : State) (s.ctxs.map (·.1)) = b at *
  have bo : b.objs = s.objs := by rw [i1]
  obtain ⟨base, hx⟩ := State.dormantUnset_addr hd
  rw [State.engineAddr_eq bo, State.rd_congr bo, hx] at h
  dsimp only at h
  obtain ⟨m, v, w, e⟩ := State.saveTo b base
  exact ⟨peers, b, m, v, w, hb.symm, by rw [h, e]⟩

/-- What the last part of a Dormant entry leaves (R496). -/
theorem State.goDormant_spec (s : State) (hu : s.untraced) (hd : s.dormantUnset = false) (t : State) (ht : s.goDormant = t) :
    s.asleepIn 4 t ∧ t.mainReq = false ∧ (∃ l, t.out = .pin 0 0 0 :: l) ∧ (∀ p, p < s.variant.ports → t.portUp p = false) ∧
        (∀ x c, s.ctx x = some c → ∃ d, t.ctx x = some d ∧ d = { c with residency := 3, place := 0, dirty := d.dirty }) ∧
        t.tallies = s.tallies ∧ t.plans = s.plans ∧ t.rings = s.rings ∧ t.boundaries = s.boundaries ∧ t.savedAt.isSome = true ∧
        s.keepsObjects t [(Reg.powerState, 0), (Reg.stateTicks, s.power), (Reg.stateEntries, 4)] := by
  obtain ⟨peers, b, m, v, w, hb, ht'⟩ := State.goDormant_saved s hd
  rw [ht'] at ht
  obtain ⟨i1, i2⟩ := State.imagesOut_spec (s.ctxs.map (·.1)) { s with peers := peers }
  rw [← hb] at i1 i2
  have c1 : b.savedAs m v w = { b with mem := (b.savedAs m v w).mem, saved := (b.savedAs m v w).saved, savedAt := (b.savedAs m v w).savedAt } ∧ (b.savedAs m v w).savedAt.isSome = true := ⟨rfl, rfl⟩
  generalize b.savedAs m v w = c at *
  clear ht' hb
  obtain ⟨l1, l2⟩ := State.lanesOff_spec c
  generalize c.lanesOff = d at *
  generalize he : ({ d with mainReq := false } : State).emit (.pin 0 0 0) = e at ht
  have e1 : e = { d with mainReq := false, out := .pin 0 0 0 :: d.out } := by rw [← he]; rfl
  clear he
  have eo : e.objs = s.objs := by rw [e1, l1, c1.1, i1]
  have er : ∀ o i, e.rd o i = s.rd o i := fun o i => State.rd_congr eo o i
  have ep : e.power = s.power := er _ _
  have es : e.since e.stateSince = s.since s.stateSince := by
    rw [State.since_congr (s := s) (by rw [e1, l1, c1.1, i1]), show e.stateSince = s.stateSince by rw [e1, l1, c1.1, i1]]
  obtain ⟨⟨r1, r2, r3⟩, r4, r5⟩ := State.reach_spec e 4 (by unfold State.untraced; rw [er]; exact hu) t ht
  refine ⟨⟨r1, ?_, ?_⟩, by rw [r5, e1], ⟨d.out, by rw [r5, e1]⟩, fun p hp => ?_, fun x c' hx => ?_, by rw [r5, e1, l1, c1.1, i1], by rw [r5, e1, l1, c1.1, i1], by rw [r5, e1, l1, c1.1, i1],
    by rw [r5, e1, l1, c1.1, i1], by rw [r5, e1, l1]; exact c1.2, ?_⟩
  · rw [ep, er, es] at r2; exact r2
  · rw [er] at r3; exact r3
  · rw [r5, e1]; exact l2 p (by rw [c1.1, i1]; exact hp)
  · obtain ⟨d', d1, d2⟩ := i2 x c' hx
    refine ⟨d', by rw [r5, e1, l1, c1.1]; exact d1, ?_⟩
    rcases d2 with ⟨_, h⟩ | h
    · exact absurd (Tab.key_of_find hx) h
    · exact h
  · intro o i hk
    rw [r4 o i (by rw [ep]; exact hk), er]

theorem State.reloadKeys_none (s : State) (h : ∀ q n, (s.layerState q n).usable = false) : s.reloadKeys = { s with gate := s.reloadKeys.gate } := by
  unfold State.reloadKeys
  split
  · rfl
  · have inner : ∀ (p : Nat × Plan) (l : List (Layer × Nat)) (a : State), a.layerStates = s.layerStates →
        l.foldl (fun s l =>
          let ls := s.layerState p.1 l.2
          if !ls.usable then s
          else
            let r := s.readKeys p.2.host l.1
            if r.1 ∧ crc32c r.2.1 = ls.keyCrc then r.2.2.keysIn p.1 l.2 l.1 r.2.1
            else { r.2.2 with plans := Tab.modify r.2.2.plans p.1 fun q => { q with state := 3 } }) a = a := by
      intro p l a ha
      induction l with
      | nil => rfl
      | cons x l ih =>
        have hl : a.layerState p.1 x.2 = s.layerState p.1 x.2 := by simp only [State.layerState, ha]
        simp only [List.foldl_cons, hl, h, Bool.not_false, if_true]
        simpa only [Bool.not_eq_true'] using ih
    have outer : ∀ (l : List (Nat × Plan)) (a : State), a.layerStates = s.layerStates →
        l.foldl (fun s p =>
      p.2.layers.zipIdx.foldl (fun s l =>
        let ls := s.layerState p.1 l.2
        if !ls.usable then s
        else
          let r := s.readKeys p.2.host l.1
          if r.1 ∧ crc32c r.2.1 = ls.keyCrc then r.2.2.keysIn p.1 l.2 l.1 r.2.1
          else { r.2.2 with plans := Tab.modify r.2.2.plans p.1 fun q => { q with state := 3 } }) s) a = a := by
      intro l a ha
      induction l with
      | nil => rfl
      | cons x l ih =>
        rw [List.foldl_cons, inner x _ a ha]; exact ih
    rw [outer s.plans { s with gate := [] } rfl]

theorem State.exitCounted_eq (s : State) : ∃ v, s.exitCounted = ({ s.inc Reg.calibrationRuns 0 1 with timers := Tab.put s.timers 0 s.tick } : State).wr Reg.wakeMaxTicks 4 v := ⟨_, rfl⟩

theorem State.exitCounted_spec (s : State) : s.exitCounted = { s with objs := s.exitCounted.objs, timers := s.exitCounted.timers } ∧
    s.exitCounted.rd Reg.calibrationRuns 0 = (s.rd Reg.calibrationRuns 0 + 1) % 2 ^ 64 ∧ s.keepsObjects s.exitCounted [(Reg.wakeMaxTicks, 4), (Reg.calibrationRuns, 0)] := by
  obtain ⟨v, h⟩ := State.exitCounted_eq s
  rw [h]
  have c1 : s.inc Reg.calibrationRuns 0 1 = { s with objs := (s.inc Reg.calibrationRuns 0 1).objs } := rfl
  have cr : ∀ (o : Obj) (j : Nat), Reg.calibrationRuns.key 0 ≠ o.key j → (s.inc Reg.calibrationRuns 0 1).rd o j = s.rd o j :=
    fun o j h => State.rd_inc_ne _ _ _ _ _ _ h
  have cs : (s.inc Reg.calibrationRuns 0 1).rd Reg.calibrationRuns 0 = (s.rd Reg.calibrationRuns 0 + 1) % 2 ^ 64 := by rw [State.rd_inc_same]; rfl
  generalize s.inc Reg.calibrationRuns 0 1 = c at *
  generalize he : ({ c with timers := Tab.put s.timers 0 s.tick } : State) = e
  have e1 : e = { c with timers := e.timers } := by rw [← he]
  have eo : ∀ o j, e.rd o j = c.rd o j := fun o j => State.rd_congr (by rw [e1]) o j
  have f1 : e.wr Reg.wakeMaxTicks 4 v = { e with objs := (e.wr Reg.wakeMaxTicks 4 v).objs } := rfl
  have fr : ∀ o j, Reg.wakeMaxTicks.key 4 ≠ o.key j → (e.wr Reg.wakeMaxTicks 4 v).rd o j = e.rd o j := fun o j h => State.rd_wr_ne _ _ _ _ _ _ h
  generalize e.wr Reg.wakeMaxTicks 4 v = f at *
  refine ⟨by rw [f1, e1, c1], by rw [fr _ _ (Obj.key_ne _ _ (by decide)), eo, cs], fun o j hk => ?_⟩
  rw [fr o j (hk (Reg.wakeMaxTicks, 4) (by simp)), eo, cr o j (hk (Reg.calibrationRuns, 0) (by simp))]

theorem State.tellAwake_none (s : State) (h : ∀ p ∈ s.peers, p.2.state ≠ 2) : s.tellAwake = s := by
  unfold State.tellAwake
  have : s.peers.filter (fun p => p.2.state == 2) = [] := by
    rw [List.filter_eq_nil_iff]
    intro p hp
    simpa using h p hp
  rw [this]; rfl

/-- What an exit from Dormant leaves where no peer is Live and no layer's keys must be read again (R497). -/
theorem State.leaveDormant_spec (s : State) (hu : s.untraced) (hp : ∀ p ∈ s.peers, p.2.state ≠ 2) (hk : ∀ q n, (s.layerState q n).usable = false) (t : State)
    (ht : s.leaveDormant = t) : s.asleepIn 0 t ∧ t.rd Reg.calibrationRuns 0 = (s.rd Reg.calibrationRuns 0 + 1) % 2 ^ 64 ∧
      s.keepsObjects t [(Reg.powerState, 0), (Reg.stateTicks, s.power), (Reg.stateEntries, 0), (Reg.wakeMaxTicks, 4), (Reg.calibrationRuns, 0)] ∧
      t.landing = s.landingKept.landing ∧
      t = { s with landing := t.landing, scratch := t.scratch, checks := t.checks, ports := t.ports, saved := t.saved, savedAt := t.savedAt, gate := t.gate, objs := t.objs
                   timers := t.timers, stateSince := t.stateSince, quietSince := t.quietSince } := by
  unfold State.leaveDormant at ht
  have a1 : s.storesLeft = { s with landing := s.storesLeft.landing, scratch := s.storesLeft.scratch, checks := s.storesLeft.checks, ports := s.storesLeft.ports, saved := s.storesLeft.saved
                                    savedAt := s.storesLeft.savedAt } ∧ s.storesLeft.landing = s.landingKept.landing := ⟨rfl, rfl⟩
  obtain ⟨a, ha⟩ : ∃ a, a = s.storesLeft := ⟨_, rfl⟩
  rw [← ha] at ht a1
  have b1 := State.reloadKeys_none a (by intro q n; rw [a1.1]; exact hk q n)
  obtain ⟨b, hb⟩ : ∃ b, b = a.reloadKeys := ⟨_, rfl⟩
  rw [← hb] at ht b1
  have bo : ∀ o j, b.rd o j = s.rd o j := fun o j => State.rd_congr (by rw [b1, a1.1]) o j
  obtain ⟨f1, f2, f3⟩ := State.exitCounted_spec b
  obtain ⟨f, hf⟩ : ∃ f, f = b.exitCounted := ⟨_, rfl⟩
  rw [← hf] at ht f1 f2 f3
  have kf : ∀ o j, Reg.wakeMaxTicks.key 4 ≠ o.key j → Reg.calibrationRuns.key 0 ≠ o.key j → f.rd o j = s.rd o j := by
    intro o j h1 h2
    rw [f3 o j (by intro x hx; simp only [List.mem_cons, List.not_mem_nil, or_false] at hx; rcases hx with rfl | rfl; exact h1; exact h2), bo]
  have fp : f.power = s.power := kf _ _ (Obj.key_ne _ _ (by decide)) (Obj.key_ne _ _ (by decide))
  have ft : f.since f.stateSince = s.since s.stateSince := by
    unfold State.since
    rw [f1, b1, a1.1]
  obtain ⟨⟨r1, r2, r3⟩, r4, r5⟩ := State.reach_spec f 0 (by unfold State.untraced; rw [kf _ _ (Obj.key_ne _ _ (by decide)) (Obj.key_ne _ _ (by decide))]; exact hu) _ rfl
  obtain ⟨g, hg⟩ : ∃ g, g = f.reach 0 := ⟨_, rfl⟩
  rw [← hg] at ht r1 r2 r3 r4 r5
  rw [State.tellAwake_none g (by rw [r5, f1, b1, a1.1]; exact hp)] at ht
  subst ht
  refine ⟨⟨r1, ?_, ?_⟩, ?_, ?_, by rw [r5, f1, b1]; exact a1.2, by rw [r5, f1, b1, a1.1]⟩
  · rw [← fp, r2, kf _ _ (Obj.key_ne _ _ (by decide)) (Obj.key_ne _ _ (by decide)), ft]
  · rw [r3, kf _ _ (Obj.key_ne _ _ (by decide)) (Obj.key_ne _ _ (by decide))]
  · rw [r4 _ _ (by
      intro x hx
      simp only [List.mem_cons, List.not_mem_nil, or_false] at hx
      rcases hx with rfl | rfl | rfl
      · exact Obj.key_ne _ _ (by decide)
      · exact Obj.key_ne (o := Reg.stateTicks) (o' := Reg.calibrationRuns) _ _ (by decide)
      · exact Obj.key_ne _ _ (by decide)), f2, bo]
  · intro o j h
    rw [r4 o j (by
      intro x hx
      rw [fp] at hx
      exact h x (by simp only [List.mem_cons] at hx ⊢; rcases hx with hx | hx | hx | hx; exact .inl hx; exact .inr (.inl hx); exact .inr (.inr (.inl hx)); cases hx)),
      kf o j (h (Reg.wakeMaxTicks, 4) (by simp)) (h (Reg.calibrationRuns, 0) (by simp))]

end Sys2Proof.Machine
end

