-- ==== Sys2Proof/Laws/Ports.lean ====
section
/-! SUPPORT. What link events and a port that goes down leave (R214, R268, R269, R556). -/

set_option Elab.async false

namespace Sys2Proof.Machine

/-- State t differs from s at most in the register file, memory, the units' records and the summaries. -/
def State.noted (s t : State) : Prop := t = { s with objs := t.objs, mem := t.mem, units := t.units, summary := t.summary }

theorem State.noted.trans {s t u : State} (h : s.noted t) (g : t.noted u) : s.noted u := by
  unfold State.noted at *
  rw [g, h]

theorem State.noted.refl (s : State) : s.noted s := rfl

theorem State.inc_noted (s : State) (o : Obj) (i n : Nat) : s.noted (s.inc o i n) := rfl
theorem State.wr_noted (s : State) (o : Obj) (i n : Nat) : s.noted (s.wr o i n) := rfl

theorem State.ringRecord_noted (s : State) (win lg size n r : Nat) (o : Obj) (l : List Byte) : s.noted (s.ringRecord win lg size n r o l) := by
  unfold State.ringRecord
  dsimp only
  split
  · exact .refl s
  · split
    · exact State.inc_noted ..
    · exact State.noted.trans (t := s.memWrite _ _) rfl (State.inc_noted ..)

theorem State.alarm_noted (s : State) (r : FaultRec) : s.noted (s.alarm r) := by
  unfold State.alarm State.telemetryPut
  dsimp only
  split
  · exact (State.ringRecord_noted ..).trans (State.inc_noted ..)
  · exact .refl s

theorem State.appendHistory_noted (s : State) (u : Nat) (r : FaultRec) : s.noted (s.appendHistory u r) := by
  unfold State.appendHistory
  dsimp only
  have h := State.alarm_noted s r
  split
  · exact h.trans (u := (s.alarm r).modUnit u _) rfl
  · exact (h.trans (u := (s.alarm r).modUnit u _) rfl).trans (State.inc_noted ..)

theorem State.closeSummary_noted (s : State) (src : Nat) : s.noted (s.closeSummary src) := by
  unfold State.closeSummary
  split
  · exact .refl s
  · dsimp only
    split
    · exact .refl s
    · split
      · rfl
      · exact State.noted.trans (t := { s with summary := Tab.drop s.summary src }) rfl (State.appendHistory_noted ..)

theorem State.recordEvent_noted (s : State) (r : FaultRec) : s.noted (s.recordEvent r) := by
  unfold State.recordEvent
  dsimp only
  have h := State.closeSummary_noted s r.source
  generalize s.closeSummary r.source = a at *
  split <;> split
  all_goals first
    | exact (h.trans (u := { a with summary := _ }) rfl).trans (State.appendHistory_noted ..)
    | exact (h.trans (u := { a with summary := _ }) rfl).trans (State.inc_noted ..)

/-- A link event: recorded, and pending (R556). -/
theorem State.linkEvent_spec (s : State) (p code : Nat) : s.noted (s.linkEvent p code) ∧ (s.linkEvent p code).rd Reg.linkEventPending 0 = 1 ∧
    s.keepsFamilies (s.linkEvent p code) (Reg.linkEventPending :: faultObjects) := by
  unfold State.linkEvent
  have h1 := State.recordEvent_noted s
    { source := 0x0740, cls := 0, reaction := 6, promoted := false, ctxValid := false, host := 0, ctx := 0, heat := 0
      tick := s.tick, status := 0, detailA := p * 2 ^ 8 + code, detailB := 0 }
  have h2 := State.recordEvent_keeps s
    { source := 0x0740, cls := 0, reaction := 6, promoted := false, ctxValid := false, host := 0, ctx := 0, heat := 0
      tick := s.tick, status := 0, detailA := p * 2 ^ 8 + code, detailB := 0 }
  generalize s.recordEvent _ = a at *
  refine ⟨h1.trans (State.wr_noted ..), State.rd_wr_same .., ?_⟩
  exact (h2.mono (m := Reg.linkEventPending :: faultObjects) (by decide)).trans (State.keepsFamilies_wr (t := a.wr Reg.linkEventPending 0 1) rfl (by decide))

/-! ## Ports -/

@[simp] theorem State.portRec_modPort_same (s : State) (p : Nat) (f : Port → Port) : (s.modPort p f).portRec p = f (s.portRec p) := by
  simp [State.portRec, State.modPort]

theorem State.portRec_modPort_ne (s : State) {p q : Nat} (f : Port → Port) (h : q ≠ p) : (s.modPort p f).portRec q = s.portRec q := by
  simp [State.portRec, State.modPort, Tab.get_set_ne _ _ _ _ (Ne.symm h)]

theorem State.portRec_congr {s t : State} (h : t.ports = s.ports) (p : Nat) : t.portRec p = s.portRec p := by simp [State.portRec, h]

theorem Tab.find_filter_none {α : Type} (t : Tab α) (f : Nat × α → Bool) (k : Nat) (h : ∀ v, f (k, v) = false) : Tab.find (t.filter f) k = none := by
  induction t with
  | nil => rfl
  | cons e t ih =>
    obtain ⟨k', v⟩ := e
    by_cases hk : k' = k
    · subst hk; rw [List.filter_cons_of_neg (by simp [h])]; exact ih
    · cases hf : f (k', v) with
      | false => rw [List.filter_cons_of_neg (by simp [hf])]; exact ih
      | true => rw [List.filter_cons_of_pos hf]; simpa [Tab.find, hk] using ih

/-- Transit buffers freed: no port's state, and nothing beside the ports, differs. -/
theorem State.freeTransits_spec (l : List (Nat × Nat × Nat × Nat × RFrame)) : ∀ s : State,
    l.foldl (fun s t => s.freeTransit t.2.2.1 t.1) s = { s with ports := (l.foldl (fun s t => s.freeTransit t.2.2.1 t.1) s).ports } ∧
    ∀ q, (l.foldl (fun s t => s.freeTransit t.2.2.1 t.1) s).portUp q = s.portUp q := by
  induction l with
  | nil => exact fun s => ⟨rfl, fun q => rfl⟩
  | cons t l ih =>
    intro s
    obtain ⟨i1, i2⟩ := ih (s.freeTransit t.2.2.1 t.1)
    simp only [List.foldl_cons]
    have e : s.freeTransit t.2.2.1 t.1 = { s with ports := (s.freeTransit t.2.2.1 t.1).ports } := rfl
    have e2 : ∀ q, (s.freeTransit t.2.2.1 t.1).portUp q = s.portUp q := by
      intro q
      by_cases h : q = t.2.2.1
      · subst h; simp [State.portUp, State.freeTransit]
      · simp [State.portUp, State.freeTransit, State.portRec_modPort_ne _ _ h]
    generalize s.freeTransit t.2.2.1 t.1 = a at *
    exact ⟨by rw [i1, e], fun q => (i2 q).trans (e2 q)⟩

/-- The frames last sent on a port, due again with no way. -/
def SendRec.detach (p : Nat) (r : SendRec) : SendRec := if r.route.any (fun w => w.port == p) then { r with due := true, route := none } else r

theorem State.resendPort_spec (s : State) (p : Nat) : s.resendPort p = { s with peers := (s.resendPort p).peers, control := (s.resendPort p).control } ∧
    (s.resendPort p).control = s.control.filter (fun r => !r.route.any fun w => w.port == p) ∧
    ∀ n c k, Tab.find (((s.resendPort p).peer n).flow c).sent k = (Tab.find ((s.peer n).flow c).sent k).map (SendRec.detach p) := by
  have hm : (fun (r : SendRec) => match r.route with
    | some w => if w.port = p then { r with due := true, route := none } else r
    | none => r) = SendRec.detach p := by
    funext r
    unfold SendRec.detach
    split <;> simp [*]
  have hg : (fun (r : SendRec) => !(match r.route with
    | some w => w.port == p
    | none => false)) = (fun r => !r.route.any fun w => w.port == p) := by
    funext r
    split <;> simp [*]
  have e : s.resendPort p = { s with
      peers := Tab.mapVals s.peers fun _ q => { q with
        data := { q.data with sent := Tab.mapVals q.data.sent fun _ r => SendRec.detach p r }
        atomic := { q.atomic with sent := Tab.mapVals q.atomic.sent fun _ r => SendRec.detach p r }
        coll := { q.coll with sent := Tab.mapVals q.coll.sent fun _ r => SendRec.detach p r } }
      control := s.control.filter (fun r => !r.route.any fun w => w.port == p) } := by
    rw [← hm, ← hg]; rfl
  rw [e]
  refine ⟨rfl, rfl, fun n c k => ?_⟩
  simp only [State.peer, Tab.get_eq_find, Tab.find_mapVals]
  cases Tab.find s.peers n with
  | none =>
    have : ∀ c, ((({} : Peer)).flow c).sent = [] := by
      intro c; unfold Peer.flow; split
      · rfl
      · split <;> rfl
    simp [this, Tab.find]
  | some q =>
    simp only [Option.map_some, Option.getD_some, Peer.flow]
    split
    · simp [Tab.find_mapVals]
    · split <;> simp [Tab.find_mapVals]

/-- A port that is up and holds no hop buffer goes down. -/
theorem State.portDown_spec (s : State) (p code : Nat) (h : s.portUp p = true) (hh : (s.portRec p).hopBufs = []) : ∀ t, s.portDown p code = t →
    t.portUp p = false ∧ (∀ q, q ≠ p → t.portUp q = s.portUp q) ∧ t.rd Reg.linkEventPending 0 = 1 ∧
    t.rd Reg.linkDownEvents p = (s.rd Reg.linkDownEvents p + 1) % 2 ^ 64 ∧
    t.rd Reg.forwardDrops p = (s.rd Reg.forwardDrops p + (s.portRec p).transit.length) % 2 ^ 64 ∧ (t.portRec p).transit = [] ∧ (t.portRec p).paused = [] ∧
    (∀ plan ret, p < 2 ^ 8 → t.planBucket plan p ret = bucketFull) ∧
    (∀ n c k, Tab.find ((t.peer n).flow c).sent k = (Tab.find ((s.peer n).flow c).sent k).map (SendRec.detach p)) ∧
    t.control = s.control.filter (fun r => !r.route.any fun w => w.port == p) ∧
    s.keepsFamilies t (Reg.linkDownEvents :: Reg.forwardDrops :: Reg.linkEventPending :: faultObjects) ∧
    t = { s with objs := t.objs, ports := t.ports, peers := t.peers, control := t.control, planBuckets := t.planBuckets, mem := t.mem, units := t.units, summary := t.summary } := by
  intro t ht
  unfold State.portDown at ht
  rw [if_neg (by simp [h])] at ht
  dsimp only at ht
  obtain ⟨a1, a2⟩ := State.freeTransits_spec (s.portRec p).transit s
  obtain ⟨a, ha⟩ : ∃ a, a = (s.portRec p).transit.foldl (fun s t => s.freeTransit t.2.2.1 t.1) s := ⟨_, rfl⟩
  rw [← ha] at a1 a2 ht
  have hha : (a.portRec p).hopBufs = [] := by
    have : ∀ (l : List (Nat × Nat × Nat × Nat × RFrame)) (s : State), ((l.foldl (fun s t => s.freeTransit t.2.2.1 t.1) s).portRec p).hopBufs = (s.portRec p).hopBufs := by
      intro l
      induction l with
      | nil => exact fun s => rfl
      | cons t l ih =>
        intro s
        simp only [List.foldl_cons]
        rw [ih]
        unfold State.freeTransit
        by_cases hp : p = t.2.2.1
        · rw [← hp, State.portRec_modPort_same]
        · rw [State.portRec_modPort_ne _ _ hp]
    rw [ha, this, hh]
  obtain ⟨n, hn⟩ : ∃ n, n = (s.portRec p).transit.length := ⟨_, rfl⟩
  rw [← hn] at ht ⊢
  have b1 : a.inc Reg.forwardDrops p n = { a with objs := (a.inc Reg.forwardDrops p n).objs } := rfl
  have bo : ∀ o j, (a.inc Reg.forwardDrops p n).rd o j = (s.inc Reg.forwardDrops p n).rd o j := by
    intro o j
    rw [a1]; rfl
  obtain ⟨b, hb⟩ : ∃ b, b = a.inc Reg.forwardDrops p n := ⟨_, rfl⟩
  rw [← hb] at ht b1 bo
  have bp : b.ports = a.ports := by rw [b1]
  obtain ⟨c, hc⟩ : ∃ c, c = b.modPort p fun q => { q with
      up := false, lossTick := none, lossCode := 0, fecCount := 0, buckets := [], transit := [], paused := [], creditUsed := []
      creditSeen := [], freed := [], creditDue := false, classPtr := 0 } := ⟨_, rfl⟩
  rw [← hc] at ht
  have c1 : c = { b with ports := c.ports } := by rw [hc]; rfl
  have c2 : (c.portRec p).up = false ∧ (c.portRec p).transit = [] ∧ (c.portRec p).paused = [] ∧ (c.portRec p).hopBufs = [] := by
    rw [hc, State.portRec_modPort_same, State.portRec_congr bp]
    exact ⟨rfl, rfl, rfl, hha⟩
  have c3 : ∀ q, q ≠ p → c.portUp q = s.portUp q := by
    intro q hq
    rw [← a2 q, hc]
    unfold State.portUp
    rw [State.portRec_modPort_ne _ _ hq, State.portRec_congr bp]
  obtain ⟨d, hd⟩ : ∃ d : State, d = { c with planBuckets := c.planBuckets.filter fun x => x.1 % 2 ^ 8 != p } := ⟨_, rfl⟩
  rw [← hd] at ht
  have dp : d.ports = c.ports := by rw [hd]
  obtain ⟨e1, e2, e3⟩ := State.resendPort_spec d p
  obtain ⟨e, he⟩ : ∃ e, e = d.resendPort p := ⟨_, rfl⟩
  rw [← he] at e1 e2 e3 ht
  have ep : e.ports = c.ports := by rw [e1, dp]
  obtain ⟨f, hf⟩ : ∃ f, f = e.freeHopBufs p := ⟨_, rfl⟩
  rw [← hf] at ht
  have ehb : (e.portRec p).hopBufs = [] := by rw [State.portRec_congr ep]; exact c2.2.2.2
  have f0 : f = e.modPort p fun q => { q with hopBufs := [] } := by
    rw [hf]; unfold State.freeHopBufs; rw [ehb]; rfl
  have f1 : f = { e with ports := f.ports } := by rw [f0]; rfl
  have f2 : (f.portRec p).up = false ∧ (f.portRec p).transit = [] ∧ (f.portRec p).paused = [] := by
    rw [f0, State.portRec_modPort_same, State.portRec_congr ep]
    exact ⟨c2.1, c2.2.1, c2.2.2.1⟩
  have f3 : ∀ q, q ≠ p → f.portUp q = s.portUp q := by
    intro q hq
    rw [← c3 q hq, f0]
    unfold State.portUp
    rw [State.portRec_modPort_ne _ _ hq, State.portRec_congr ep]
  have g1 : f.inc Reg.linkDownEvents p 1 = { f with objs := (f.inc Reg.linkDownEvents p 1).objs } := rfl
  have fo : f.objs = b.objs := by rw [f1, e1, hd, c1]
  have go : (f.inc Reg.linkDownEvents p 1).objs = (b.inc Reg.linkDownEvents p 1).objs := by simp only [State.inc, State.wr, State.rd_congr fo, fo]
  obtain ⟨g, hg⟩ : ∃ g, g = f.inc Reg.linkDownEvents p 1 := ⟨_, rfl⟩
  rw [← hg] at ht g1 go
  obtain ⟨l1, l2, l3⟩ := State.linkEvent_spec g p code
  rw [ht] at l1 l2 l3
  unfold State.noted at l1
  have tp : t.ports = f.ports := by rw [l1, g1]
  have tq : t.peers = e.peers := by rw [l1, g1, f1]
  refine ⟨?_, fun q hq => ?_, l2, ?_, ?_, ?_, ?_, fun plan ret hp => ?_, fun n c' k => ?_, ?_, ?_, ?_⟩
  · unfold State.portUp; rw [State.portRec_congr tp]; exact f2.1
  · rw [← f3 q hq]; unfold State.portUp; rw [State.portRec_congr tp]
  · rw [l3 Reg.linkDownEvents (by decide), State.rd_congr go, State.rd_inc_same, bo, State.rd_inc_ne _ _ _ _ _ _ (Obj.key_ne _ _ (by decide))]; rfl
  · rw [l3 Reg.forwardDrops (by decide), State.rd_congr go, State.rd_inc_ne _ _ _ _ _ _ (Obj.key_ne _ _ (by decide)), bo, State.rd_inc_same]; rfl
  · rw [State.portRec_congr tp]; exact f2.2.1
  · rw [State.portRec_congr tp]; exact f2.2.2
  · have hk : t.planBuckets = c.planBuckets.filter fun x => x.1 % 2 ^ 8 != p := by rw [l1, g1, f1, e1, hd]
    unfold State.planBucket
    rw [Tab.get_eq_find, hk, Tab.find_filter_none]
    · rfl
    · intro v
      have : planBucketKey plan p ret % 2 ^ 8 = p := by
        have e : planBucketKey plan p ret = p + 2 ^ 8 * (plan + b2n ret * 2 ^ 24) := by unfold planBucketKey; omega
        rw [e, Nat.add_mul_mod_self_left, Nat.mod_eq_of_lt hp]
      simp only [this]; simp
  · have hs : d.peer n = s.peer n := by rw [hd, c1, b1, a1]; rfl
    have ht' : t.peer n = e.peer n := by simp only [State.peer, tq]
    rw [ht', e3, hs]
  · have : t.control = e.control := by rw [l1, g1, f1]
    rw [this, e2, hd, c1, b1, a1]
  · intro o ho i
    rw [l3 o (fun x hx => ho x (by
        simp only [List.mem_cons] at hx ⊢
        rcases hx with rfl | hx
        · simp
        · simp [hx])) i, State.rd_congr go, State.rd_inc_ne _ _ _ _ _ _ (Obj.key_ne _ _ (Ne.symm (ho Reg.linkDownEvents (by simp)))), bo,
      State.rd_inc_ne _ _ _ _ _ _ (Obj.key_ne _ _ (Ne.symm (ho Reg.forwardDrops (by simp))))]
  · rw [l1, g1, f1, e1, hd, c1, b1, a1]

/-! ## Frames counted in (R271) -/

/-- A frame counted in on its port. -/
theorem State.rxCount_spec (s : State) (rx : Rx) : s.countedIn rx [] (s.rxCount rx) ∧ s.rxCount rx = { s with objs := (s.rxCount rx).objs } := by
  unfold State.rxCount
  refine ⟨⟨?_, ?_, ?_, ?_⟩, rfl⟩
  · rw [State.rd_inc_ne _ _ _ _ _ _ (Obj.key_ne _ _ (by decide)), State.rd_inc_ne _ _ _ _ _ _ (Obj.key_ne _ _ (by decide)), State.rd_inc_same]; rfl
  · rw [State.rd_inc_ne _ _ _ _ _ _ (Obj.key_ne _ _ (by decide)), State.rd_inc_same, State.rd_inc_ne _ _ _ _ _ _ (Obj.key_ne _ _ (by decide))]; rfl
  · rw [State.rd_inc_same, State.rd_inc_ne _ _ _ _ _ _ (Obj.key_ne _ _ (by decide)), State.rd_inc_ne _ _ _ _ _ _ (Obj.key_ne _ _ (by decide))]; rfl
  · intro o i hk
    rw [State.rd_inc_ne _ _ _ _ _ _ (hk (Reg.ecnCe, rx.port) (by simp)), State.rd_inc_ne _ _ _ _ _ _ (hk (Reg.rxBytes, rx.port) (by simp)), State.rd_inc_ne _ _ _ _ _ _ (hk (Reg.rxFrames, rx.port) (by simp))]

theorem State.countedIn.congr {s t u : State} {rx : Rx} {l : List (Obj × Nat)} (h : s.countedIn rx l t) (e : ∀ o i, u.rd o i = t.rd o i) : s.countedIn rx l u := by
  obtain ⟨h1, h2, h3, h4⟩ := h
  exact ⟨by rw [e, h1], by rw [e, h2], by rw [e, h3], fun o i hk => by rw [e, h4 o i hk]⟩

/-- A frame counted in, and one counter more. -/
theorem State.countedIn.inc {s a : State} {rx : Rx} {l : List (Obj × Nat)} (h : s.countedIn rx l a) (o : Obj) (i : Nat) (ho : o.len = 8)
    (hn : ∀ b ∈ l, b.1.key b.2 ≠ o.key i) (hne : ∀ b ∈ [Reg.rxFrames, Reg.rxBytes, Reg.ecnCe], b.ix * 2 ^ 8 + b.sub ≠ o.ix * 2 ^ 8 + o.sub) :
    (a.inc o i 1).rd o i = (s.rd o i + 1) % 2 ^ 64 ∧ s.countedIn rx ((o, i) :: l) (a.inc o i 1) := by
  obtain ⟨h1, h2, h3, h4⟩ := h
  refine ⟨?_, ?_, ?_, ?_, ?_⟩
  · rw [State.rd_inc_same, ho, h4]
    intro b hb
    simp only [List.mem_cons] at hb
    rcases hb with rfl | rfl | rfl | hb
    · exact Obj.key_ne _ _ (hne _ (by simp))
    · exact Obj.key_ne _ _ (hne _ (by simp))
    · exact Obj.key_ne _ _ (hne _ (by simp))
    · exact hn b hb
  · rw [State.rd_inc_ne _ _ _ _ _ _ (Obj.key_ne _ _ (Ne.symm (hne _ (by simp)))), h1]
  · rw [State.rd_inc_ne _ _ _ _ _ _ (Obj.key_ne _ _ (Ne.symm (hne _ (by simp)))), h2]
  · rw [State.rd_inc_ne _ _ _ _ _ _ (Obj.key_ne _ _ (Ne.symm (hne _ (by simp)))), h3]
  · intro o' j hk
    rw [State.rd_inc_ne _ _ _ _ _ _ (hk (o, i) (by simp)), h4 o' j (fun b hb => hk b (by
      simp only [List.mem_cons] at hb ⊢
      rcases hb with h | h | h | h <;> simp [h]))]

end Sys2Proof.Machine
end

