-- ==== Sys2Proof/Laws/Peers.lean ====
section
/-! SUPPORT. What an arriving frame's checks, a route, a handshake frame and a flush leave (R203, R206, R236, R244, R249). -/

set_option Elab.async false

namespace Sys2Proof.Machine

@[simp] theorem State.peer_modPeer_same (s : State) (n : Nat) (f : Peer → Peer) : (s.modPeer n f).peer n = f (s.peer n) := by
  simp [State.peer, State.modPeer]

theorem State.peer_modPeer_ne (s : State) {n m : Nat} (f : Peer → Peer) (h : m ≠ n) : (s.modPeer n f).peer m = s.peer m := by
  simp [State.peer, State.modPeer, Tab.get_set_ne _ _ _ _ (Ne.symm h)]

theorem State.peer_congr {s t : State} (h : t.peers = s.peers) (n : Nat) : t.peer n = s.peer n := by simp [State.peer, h]

/-! ## Checks 1 to 4 -/

/-- Checks 1 to 3 of a frame for this node. -/
theorem State.arriveHeader_reaches {s : State} {rx : Rx} {f : RFrame} (h0 : s.power = 0) (h : s.reaches rx f) (ha : rx.again = false) :
    ∃ t, s.arriveHeader rx f = (true, t) ∧ s.took rx [] t ∧ ∃ q, t = { s with objs := t.objs, quietSince := q } := by
  obtain ⟨h1, h2, h3, h4, h5, h6, h7⟩ := h
  refine ⟨((s.wake).rxCount rx).inc Reg.framesReceived 0 1, ?_, ?_⟩
  · have hn : ((s.wake.rxCount rx)).nodeId = s.nodeId := by
      have hw : s.wake = { s with quietSince := s.tick } := by unfold State.wake; rw [h0]; rfl
      unfold State.nodeId
      rw [(State.rxCount_spec s.wake rx).1.2.2.2 Reg.nodeId 0 (by
        intro b hb
        simp only [List.mem_cons, List.not_mem_nil, or_false] at hb
        rcases hb with rfl | rfl | rfl
        · exact Obj.key_ne (o := Reg.rxFrames) (o' := Reg.nodeId) _ _ (by decide)
        · exact Obj.key_ne (o := Reg.rxBytes) (o' := Reg.nodeId) _ _ (by decide)
        · exact Obj.key_ne (o := Reg.ecnCe) (o' := Reg.nodeId) _ _ (by decide)), hw]
      rfl
    unfold State.arriveHeader
    rw [h1, h2, h3, ha]
    simp only [Bool.and_self, Bool.not_true, Bool.false_eq_true, if_false, h4, ne_eq, not_true_eq_false, Bool.not_false, h6, h7, hn, h5, and_true, if_true]
    have hn2 : ((s.wake.rxCount rx).inc Reg.framesReceived 0 1).nodeId = s.nodeId := by
      unfold State.nodeId
      rw [State.rd_inc_ne _ _ _ _ _ _ (Obj.key_ne _ _ (by decide))]
      exact hn
    rw [hn2]
    simp
  · have hw : s.wake = { s with quietSince := s.tick } := by unfold State.wake; rw [h0]; rfl
    rw [hw]
    obtain ⟨c1, c2⟩ := State.rxCount_spec { s with quietSince := s.tick } rx
    obtain ⟨c3, c4⟩ := State.countedIn.inc c1 Reg.framesReceived 0 (by decide) (by simp) (by decide)
    obtain ⟨a, ha⟩ : ∃ a, a = ({ s with quietSince := s.tick } : State).rxCount rx := ⟨_, rfl⟩
    rw [← ha] at c2 c3 c4 ⊢
    have e : a.inc Reg.framesReceived 0 1 = { a with objs := (a.inc Reg.framesReceived 0 1).objs } := rfl
    obtain ⟨b, hb⟩ : ∃ b, b = a.inc Reg.framesReceived 0 1 := ⟨_, rfl⟩
    rw [← hb] at c3 c4 e ⊢
    exact ⟨⟨⟨c4.1, c4.2.1, c4.2.2.1, c4.2.2.2⟩, c3⟩, s.tick, by rw [e, c2]⟩

/-- The entry of a sender in the cache is touched. -/

theorem State.hearsFrame.reaches {s : State} {rx : Rx} {f : RFrame} (h : s.hearsFrame rx f) : s.reaches rx f :=
  ⟨h.1, h.2.1, h.2.2.1, h.2.2.2.1, h.2.2.2.2.1, h.2.2.2.2.2.1, h.2.2.2.2.2.2.1⟩

theorem State.arriveHeader_spec {s : State} {rx : Rx} {f : RFrame} (h0 : s.power = 0) (h : s.hearsFrame rx f) (ha : rx.again = false) :
    ∃ t, s.arriveHeader rx f = (true, t) ∧ s.took rx [] t ∧ ∃ q, t = { s with objs := t.objs, quietSince := q } :=
  State.arriveHeader_reaches h0 h.reaches ha

/-- Checks 1 to 4 and 8 of a survey's frame for this node, whoever sent it (R264). -/
theorem State.arrivePlain_survey {s : State} {rx : Rx} {f : RFrame} (h0 : s.power = 0) (h : s.reaches rx f) (ha : rx.again = false) (hs : f.sound rx)
    (hc : f.cls = 5) (ho : f.op = 0x20 ∨ f.op = 0x21) :
    ∃ t, s.arrivePlain rx f = (true, t) ∧ s.took rx [] t ∧ ∃ q, t = { s with objs := t.objs, quietSince := q } := by
  obtain ⟨a, a1, a2, a3⟩ := State.arriveHeader_reaches h0 h ha
  refine ⟨a, ?_, a2, a3⟩
  unfold State.arrivePlain
  rw [a1]
  have : a.arrivePeer rx f = (true, a) := by
    unfold State.arrivePeer
    rw [if_pos ⟨hc, ho⟩]
  dsimp only
  rw [this]
  unfold State.arriveTrailer
  rw [hs.1, hs.2]
  rfl

/-- A register that counts no arriving frame is as it was after checks 1 to 4. -/
theorem State.took.rd {s a : State} {rx : Rx} (h : s.took rx [] a) (o : Obj) (i : Nat)
    (hn : ∀ b ∈ [Reg.rxFrames, Reg.rxBytes, Reg.ecnCe, Reg.framesReceived], b.ix * 2 ^ 8 + b.sub ≠ o.ix * 2 ^ 8 + o.sub) : a.rd o i = s.rd o i := by
  refine h.1.2.2.2 o i fun b hb => ?_
  simp only [List.mem_cons, List.not_mem_nil, or_false] at hb
  rcases hb with rfl | rfl | rfl | rfl
  · exact Obj.key_ne _ _ (hn _ (by simp))
  · exact Obj.key_ne _ _ (hn _ (by simp))
  · exact Obj.key_ne _ _ (hn _ (by simp))
  · exact Obj.key_ne _ _ (hn _ (by simp))

/-- What a row does after checks 1 to 4 beside the counting of the frame. -/
theorem State.took.more {s a b : State} {rx : Rx} {l : List (Obj × Nat)} (h : s.took rx [] a) (h2 : a.keepsObjects b l)
    (hl : ∀ o ∈ [Reg.rxFrames, Reg.rxBytes, Reg.ecnCe, Reg.framesReceived], ∀ x ∈ l, x.1.ix * 2 ^ 8 + x.1.sub ≠ o.ix * 2 ^ 8 + o.sub) : s.took rx l b := by
  have hk : ∀ o ∈ [Reg.rxFrames, Reg.rxBytes, Reg.ecnCe, Reg.framesReceived], ∀ i, b.rd o i = a.rd o i := fun o ho i =>
    h2 o i fun x hx => Obj.key_ne _ _ (hl o ho x hx)
  refine ⟨⟨?_, ?_, ?_, fun o i hb => ?_⟩, ?_⟩
  · rw [hk _ (by simp)]; exact h.1.1
  · rw [hk _ (by simp)]; exact h.1.2.1
  · rw [hk _ (by simp)]; exact h.1.2.2.1
  · rw [h2 o i fun x hx => hb x (by simp [hx]), h.1.2.2.2 o i fun x hx => hb x (by simp at hx ⊢; rcases hx with rfl | rfl | rfl | rfl <;> simp)]
  · rw [hk _ (by simp)]; exact h.2

theorem State.touchPeer_cached {s : State} {n : Nat} (h : (s.peer n).cached = true) : s.touchPeer n = (true, s.modPeer n fun p => { p with used := s.tick }) := by
  unfold State.touchPeer
  dsimp only
  rw [if_pos h]

/-- Checks 1 to 4 and 8 of a MGMT frame for this node whose sender's entry lets it pass. -/
theorem State.arrivePlain_mgmt {s : State} {rx : Rx} {f : RFrame} (h0 : s.power = 0) (h : s.hearsFrame rx f) (ha : rx.again = false) (hs : f.sound rx)
    (hc : f.cls = 5) (hp : mgmtPasses (s.peer f.src) f.op = true) (ho : f.op ≠ 0x20 ∧ f.op ≠ 0x21) :
    ∃ t, s.arrivePlain rx f = (true, t) ∧ s.took rx [] t ∧ (∃ q, t = { s with objs := t.objs, peers := t.peers, quietSince := q }) ∧
      t.peer f.src = { s.peer f.src with used := s.tick } ∧ ∀ n, n ≠ f.src → t.peer n = s.peer n := by
  obtain ⟨a, a1, a2, q, a3⟩ := State.arriveHeader_spec h0 h ha
  have ap : ∀ n, a.peer n = s.peer n := fun n => State.peer_congr (by rw [a3]) n
  obtain ⟨b, hb⟩ : ∃ b, b = a.modPeer f.src fun p => { p with used := a.tick } := ⟨_, rfl⟩
  have b1 : b.peer f.src = { s.peer f.src with used := s.tick } := by
    rw [hb, State.peer_modPeer_same, ap, show a.tick = s.tick by rw [a3]]
  have b2 : b = { a with peers := b.peers } := by rw [hb]; rfl
  refine ⟨b, ?_, ⟨State.countedIn.congr a2.1 fun o i => ?_, ?_⟩, ⟨q, ?_⟩, b1, fun n hn => ?_⟩
  · unfold State.arrivePlain
    rw [a1]
    have : a.arrivePeer rx f = (true, b) := by
      unfold State.arrivePeer
      rw [if_neg (by simp [ho.1, ho.2])]
      rw [State.touchPeer_cached (by rw [ap]; exact h.2.2.2.2.2.2.2), ← hb]
      dsimp only
      have hp' : mgmtPasses (b.peer f.src) f.op = true := by
        rw [b1]
        exact hp
      rw [if_neg (by decide), show (b.peer f.src).cached = true by rw [b1]; exact h.2.2.2.2.2.2.2, if_pos hc, hp']
      rfl
    dsimp only
    rw [this]
    unfold State.arriveTrailer
    rw [hs.1, hs.2]
    rfl
  · rw [b2]; rfl
  · rw [b2]; exact a2.2
  · rw [b2, a3]
  · rw [hb, State.peer_modPeer_ne _ _ hn, ap]

/-! ## Ways and control frames -/

theorem State.wayTo_congr {s t : State} (n : Nat) (h1 : t.ports = s.ports) (h2 : t.versions = s.versions) (h3 : t.plans = s.plans)
    (h4 : t.rd Reg.activeVersion 0 = s.rd Reg.activeVersion 0) (h5 : (t.peer n).routePtr = (s.peer n).routePtr) : t.wayTo n = s.wayTo n := by
  have ea : t.activeTable = s.activeTable := by unfold State.activeTable; rw [h2, h4]
  have ek : t.pathKnown = s.pathKnown := by funext p; unfold State.pathKnown; rw [ea]
  have ep : t.portUp = s.portUp := by funext p; unfold State.portUp State.portRec; rw [h1]
  have ew : t.nodeWays n = s.nodeWays n := by unfold State.nodeWays; rw [ea, h3]
  have epick : ∀ w k ok, t.pickWay w k ok = s.pickWay w k ok := by intro w k ok; unfold State.pickWay; rw [ek, ep]
  unfold State.wayTo State.pickRoute
  rw [ew, epick, h5]
  dsimp only
  generalize (s.pickWay (s.nodeWays n) (s.peer n).routePtr fun _ => true) = r
  obtain ⟨a, b⟩ := r
  cases a with
  | none => rfl
  | some x => rfl

/-- What a queued control frame may change, and the frame. -/
theorem State.queueControl_spec (s : State) (f : RFrame) (pace : Nat) : ∀ t, t = s.queueControl f pace →
    t = { s with objs := t.objs, peers := t.peers, control := t.control, queueSeq := t.queueSeq } ∧
    s.keepsObjects t [(Reg.noRoute, 0)] ∧ (t.peer f.dst = { s.peer f.dst with routePtr := (t.peer f.dst).routePtr }) ∧ (∀ n, n ≠ f.dst → t.peer n = s.peer n) ∧
    (s.wayTo f.dst = none → t.control = s.control) ∧
    ∀ w, s.wayTo f.dst = some w → ∃ r, t.control = s.control ++ [r] ∧ r.route = some w ∧ r.due = true ∧ r.pace = pace ∧ r.frame = f ∧ r.udpSrc = none := by
  intro t ht
  unfold State.wayTo State.pickRoute
  unfold State.queueControl State.pickRoute at ht
  dsimp only at ht ⊢
  generalize (s.pickWay (s.nodeWays f.dst) (s.peer f.dst).routePtr fun _ => true) = r at *
  obtain ⟨a, b⟩ := r
  cases a with
  | none =>
    dsimp only at ht ⊢
    have t1 : t = { s with objs := t.objs } := by rw [ht]; rfl
    have tp := fun n => State.peer_congr (s := s) (t := t) (by rw [t1]) n
    refine ⟨by rw [t1], fun o i hk => ?_, by rw [tp], fun n _ => tp n, fun _ => by rw [t1], fun w h => by cases h⟩
    · rw [ht, State.rd_inc_ne _ _ _ _ _ _ (hk (Reg.noRoute, 0) (by simp)), State.rd_inc_ne _ _ _ _ _ _ (hk (Reg.noRoute, 0) (by simp))]
  | some x =>
    dsimp only at ht ⊢
    have t1 : t = { s with objs := t.objs, peers := t.peers, control := t.control, queueSeq := t.queueSeq } := by rw [ht]; rfl
    have tp : t.peers = (s.modPeer f.dst fun p => { p with routePtr := x.1 + 1 }).peers := by rw [ht]; rfl
    refine ⟨t1, fun o i hk => ?_, by rw [State.peer_congr tp, State.peer_modPeer_same], fun n hn => by rw [State.peer_congr tp, State.peer_modPeer_ne _ _ hn],
      (fun h => by cases h), fun w h => ?_⟩
    · have tobj : t.objs = (s.inc Reg.noRoute 0 b).objs := by rw [ht]; rfl
      rw [State.rd_congr tobj, State.rd_inc_ne _ _ _ _ _ _ (hk (Reg.noRoute, 0) (by simp))]
    · cases h
      exact ⟨_, by rw [ht]; rfl, rfl, rfl, rfl, rfl, rfl⟩

theorem beBytes_length (n x : Nat) : (beBytes n x).length = n := by simp [beBytes, leBytes_length]

theorem beAt_beBytes (n x : Nat) : beAt (beBytes n x) 0 n = x % 256 ^ n := by
  unfold beAt beNat
  have : slice (beBytes n x) 0 n = beBytes n x := by
    unfold slice
    simp [beBytes_length, List.take_of_length_le]
  rw [this]
  simp [beBytes, leNat_leBytes]

/-- A MGMT frame queued: what may change, and the frame with its payload of this node's objects. -/
theorem State.sendMgmt_spec (s : State) (n op : Nat) : ∀ t, t = s.sendMgmt n op →
    t = { s with objs := t.objs, peers := t.peers, control := t.control, queueSeq := t.queueSeq } ∧
    s.keepsObjects t [(Reg.noRoute, 0)] ∧ t.peer n = { s.peer n with routePtr := (t.peer n).routePtr } ∧ (∀ m, m ≠ n → t.peer m = s.peer m) ∧ s.sendsMgmt n op (s.peer n) t := by
  intro t ht
  obtain ⟨q1, q2, q3, q3', q4, q5⟩ := State.queueControl_spec s _ 4 t ht
  refine ⟨q1, q2, q3, q3', ?_⟩
  unfold State.sendsMgmt
  dsimp only at q4 q5
  cases hw : s.wayTo n with
  | none => exact q4 hw
  | some w =>
    obtain ⟨r, r1, r2, r3, r4, r5, _⟩ := q5 w hw
    exact ⟨r, r1, r2, r3, r4, by rw [r5], by rw [r5], by rw [r5], by rw [r5], by rw [r5]⟩

theorem State.joinPayload_congr {s t : State} {p q : Peer} (k : Nat) (h1 : t.rd Reg.incarnation 0 = s.rd Reg.incarnation 0)
    (h2 : t.rd Reg.peerWakeTolerance 0 = s.rd Reg.peerWakeTolerance 0) (h3 : t.rd Reg.forwardEnable 0 = s.rd Reg.forwardEnable 0)
    (e1 : q.incKnown = p.incKnown) (e2 : q.inc = p.inc) (e3 : q.data = p.data) (e4 : q.atomic = p.atomic) (e5 : q.coll = p.coll) (e6 : q.granted = p.granted) :
    t.joinPayload q k = s.joinPayload p k := by
  unfold State.joinPayload State.rb
  rw [h1, h2, h3, e1, e2, e3, e4, e5, e6]

/-! ## A flush (R206, R225, R245) -/

/-- What frames that begin to wait no longer may change. -/
def State.flushes (s : State) (n : Nat) (t : State) : Prop :=
  t = { s with objs := t.objs, peers := t.peers, atomReqs := t.atomReqs, queueSeq := t.queueSeq } ∧ s.keepsObjects t [(Reg.noRoute, 0)] ∧
    (s.peer n).sentFrom (t.peer n) ∧ ∀ m, m ≠ n → t.peer m = s.peer m

theorem Peer.sentFrom.refl (p : Peer) : p.sentFrom p := ⟨rfl, rfl, rfl, rfl⟩
theorem Peer.sentFrom.trans {p q r : Peer} (h : p.sentFrom q) (g : q.sentFrom r) : p.sentFrom r := by
  obtain ⟨h1, h2, h3, h4⟩ := h
  obtain ⟨g1, g2, g3, g4⟩ := g
  exact ⟨by rw [g1, h1], g2.trans h2, g3.trans h3, g4.trans h4⟩

theorem State.flushes.refl (s : State) (n : Nat) : s.flushes n s := ⟨rfl, .refl s _, .refl _, fun _ _ => rfl⟩
theorem State.flushes.trans {s t u : State} {n : Nat} (h : s.flushes n t) (g : t.flushes n u) : s.flushes n u := by
  obtain ⟨h1, h2, h3, h4⟩ := h
  obtain ⟨g1, g2, g3, g4⟩ := g
  exact ⟨by rw [g1, h1], h2.trans g2, h3.trans g3, fun m hm => (g4 m hm).trans (h4 m hm)⟩

theorem State.modPeer_flushes (s : State) (n : Nat) (f : Peer → Peer) (h : ∀ p : Peer, p.sentFrom (f p)) : s.flushes n (s.modPeer n f) :=
  ⟨rfl, fun _ _ _ => rfl, by rw [State.peer_modPeer_same]; exact h _, fun m e => State.peer_modPeer_ne _ _ e⟩

theorem State.pickRoute_flushes (s : State) (n : Nat) : s.flushes n (s.pickRoute n).2 := by
  unfold State.pickRoute
  dsimp only
  have h : s.flushes n (s.inc Reg.noRoute 0 (s.pickWay (s.nodeWays n) (s.peer n).routePtr fun _ => true).2) :=
    ⟨rfl, State.keepsObjects.inc (.refl s _) _ (by simp), Peer.sentFrom.refl (s.peer n), fun _ _ => rfl⟩
  split
  · exact h
  · rename_i i w _
    exact h.trans (State.modPeer_flushes _ n (fun p => { p with routePtr := i + 1 }) fun p => ⟨rfl, rfl, rfl, rfl⟩)

theorem State.pickRunner_flushes (s : State) (p n c : Nat) : s.flushes n (s.pickRunner p n c).2 := by
  unfold State.pickRunner
  split
  · exact .refl s _
  · split
    · exact .refl s _
    · dsimp only
      split
      · exact .refl s _
      · rename_i i w _
        exact State.flushes.trans (t := s.inc Reg.noRoute 0 _) ⟨rfl, State.keepsObjects.inc (.refl s _) _ (by simp), Peer.sentFrom.refl (s.peer n), fun _ _ => rfl⟩
          (State.modPeer_flushes _ n (fun p => { p with runnerPtr := i + 1 }) fun p => ⟨rfl, rfl, rfl, rfl⟩)

theorem Peer.modFlow_sentFrom (p : Peer) (c : Nat) (f : SendFlow → SendFlow) (h : ∀ x, (f x).base = x.base) : p.sentFrom (p.modFlow c f) := by
  unfold Peer.modFlow
  split
  · exact ⟨rfl, h _, rfl, rfl⟩
  · split
    · exact ⟨rfl, rfl, h _, rfl⟩
    · exact ⟨rfl, rfl, rfl, h _⟩

/-- A frame numbered in its flow. -/
theorem State.launch_flushes (s : State) (n : Nat) (r : SendRec) : s.flushes n (s.launch n r) := by
  unfold State.launch
  dsimp only
  have hw : s.flushes n (if r.route.isSome then (r.route, s) else if decide (r.pace ≤ 1) then s.pickRunner r.plan n r.pace else s.pickRoute n).2 := by
    split
    · exact .refl s _
    · split
      · exact State.pickRunner_flushes ..
      · exact State.pickRoute_flushes ..
  generalize (if r.route.isSome then (r.route, s) else if decide (r.pace ≤ 1) then s.pickRunner r.plan n r.pace else s.pickRoute n) = w at *
  have ho : s.flushes n w.2.nextOrd.2 := hw.trans ⟨rfl, fun _ _ _ => rfl, Peer.sentFrom.refl (w.2.peer n), fun _ _ => rfl⟩
  generalize w.2.nextOrd = o at *
  have hm := fun x => ho.trans (State.modPeer_flushes o.2 n (fun p => p.modFlow r.frame.cls fun f => { f with sent := Tab.put f.sent f.next x, next := f.next + 1 })
    fun p => Peer.modFlow_sentFrom p _ _ fun _ => rfl)
  split
  · exact State.flushes.trans ((hm _).trans (State.modPeer_flushes _ n (fun p => { p with creditsOut := p.creditsOut + 1 }) fun p => ⟨rfl, rfl, rfl, rfl⟩)) ⟨rfl, fun _ _ _ => rfl, Peer.sentFrom.refl _, fun _ _ => rfl⟩
  · exact hm _

theorem State.flushOne_flushes (s : State) (n : Nat) {t : State} (h : s.flushOne n = some t) : s.flushes n t := by
  unfold State.flushOne at h
  dsimp only at h
  split at h
  · cases h
  · rename_i i _
    split at h
    · cases h
    · cases h
      exact (State.modPeer_flushes s n (fun p => { p with waiting := p.waiting.eraseIdx i }) fun p => ⟨rfl, rfl, rfl, rfl⟩).trans (State.launch_flushes ..)

theorem State.launch_waiting (s : State) (n : Nat) (r : SendRec) : ((s.launch n r).peer n).waiting = (s.peer n).waiting := by
  have hf : ∀ (u : State) (f : SendFlow → SendFlow), ((u.modPeer n fun p => p.modFlow r.frame.cls f).peer n).waiting = (u.peer n).waiting := by
    intro u f
    rw [State.peer_modPeer_same]
    unfold Peer.modFlow
    split
    · rfl
    · split <;> rfl
  have hg : ∀ (u : State) (f : SendFlow → SendFlow) (x : Tab AtomReq), (({ (u.modPeer n fun p => p.modFlow r.frame.cls f).modPeer n
      (fun p => { p with creditsOut := p.creditsOut + 1 }) with atomReqs := x } : State).peer n).waiting = (u.peer n).waiting := by
    intro u f x
    show ((((u.modPeer n fun p => p.modFlow r.frame.cls f)).modPeer n fun p => { p with creditsOut := p.creditsOut + 1 }).peer n).waiting = _
    rw [State.peer_modPeer_same]
    exact hf u f
  have h1 : ((s.pickRoute n).2.peer n).waiting = (s.peer n).waiting := by
    unfold State.pickRoute
    dsimp only
    split
    · rfl
    · rw [State.peer_modPeer_same]; rfl
  have h2 : ((s.pickRunner r.plan n r.pace).2.peer n).waiting = (s.peer n).waiting := by
    unfold State.pickRunner
    split
    · rfl
    · split
      · rfl
      · dsimp only
        split
        · rfl
        · rw [State.peer_modPeer_same]; rfl
  unfold State.launch
  dsimp only
  have hw : ((if r.route.isSome then (r.route, s) else if decide (r.pace ≤ 1) then s.pickRunner r.plan n r.pace else s.pickRoute n).2.peer n).waiting = (s.peer n).waiting := by
    split
    · rfl
    · split
      · exact h2
      · exact h1
  generalize (if r.route.isSome then (r.route, s) else if decide (r.pace ≤ 1) then s.pickRunner r.plan n r.pace else s.pickRoute n) = w at *
  have hn : (w.2.nextOrd.2.peer n).waiting = (s.peer n).waiting := hw
  generalize w.2.nextOrd = o at *
  split
  · exact (hg o.2 _ _).trans hn
  · exact (hf o.2 _).trans hn

theorem State.flushOne_none {s : State} {n : Nat} (h : s.flushOne n = none) : (s.peer n).flushed := by
  unfold State.flushOne at h
  dsimp only at h
  split at h
  · rename_i hf
    intro r hr
    rw [List.findIdx?_eq_none_iff] at hf
    simpa using hf r hr
  · rename_i i hi
    split at h
    · rename_i hg
      obtain ⟨hl, _⟩ := List.findIdx?_eq_some_iff_getElem.mp hi
      rw [List.getElem?_eq_getElem hl] at hg
      cases hg
    · cases h

theorem State.flushOne_some {s t : State} {n : Nat} (h : s.flushOne n = some t) : (s.peer n).waiting.length = (t.peer n).waiting.length + 1 := by
  unfold State.flushOne at h
  dsimp only at h
  split at h
  · cases h
  · rename_i i hi
    obtain ⟨hl, _⟩ := List.findIdx?_eq_some_iff_getElem.mp hi
    split at h
    · cases h
    · cases h
      rw [State.launch_waiting, State.peer_modPeer_same]
      dsimp only
      rw [List.length_eraseIdx, if_pos hl]
      omega

/-- After a flush nothing that may go waits. -/
theorem State.flush_done (s : State) (n : Nat) : ((s.flush n).peer n).flushed := by
  unfold State.flush
  generalize hk : (s.peer n).waiting.length = k
  induction k generalizing s with
  | zero =>
    intro r hr
    have hr : r ∈ (s.peer n).waiting := hr
    rw [show (s.peer n).waiting = [] from List.length_eq_zero_iff.mp hk] at hr
    cases hr
  | succ k ih =>
    unfold State.flush.go
    split
    · rename_i hn; exact State.flushOne_none hn
    · rename_i t ht
      have := State.flushOne_some ht
      exact ih t (by omega)

theorem State.flush_flushes (s : State) (n : Nat) : s.flushes n (s.flush n) := by
  unfold State.flush
  generalize (s.peer n).waiting.length = k
  induction k generalizing s with
  | zero => exact .refl s _
  | succ k ih =>
    unfold State.flush.go
    split
    · exact .refl s _
    · rename_i t ht
      exact (State.flushOne_flushes s n ht).trans (ih t)

end Sys2Proof.Machine
end

