-- ==== Sys2Proof/Laws/Frames.lean ====
section
/-! SUPPORT. What checks 1 to 6 leave of a FRESH frame, and what its settlement does (R203, R207 to R212). -/

set_option Elab.async false

namespace Sys2Proof.Machine

/-- What stands after checks 1 to 6 of a FRESH frame. -/
structure FreshAt (s : State) (rx : Rx) (f : RFrame) (a : State) : Prop where
  took : s.took rx [(Reg.expired, 0)] a
  rest : ∃ q, a = { s with objs := a.objs, peers := a.peers, quietSince := q }
  entry : a.peer f.src = { (s.peer f.src).modRflow f.cls fun fl => (fl.check f.seq).2.2 with used := s.tick }
  others : ∀ n, n ≠ f.src → a.peer n = s.peer n

theorem Peer.rflow_modRflow (p : Peer) (c : Nat) (f : RecvFlow → RecvFlow) : (p.modRflow c f).rflow c = f (p.rflow c) := by
  unfold Peer.modRflow Peer.rflow
  by_cases h0 : c = 0
  · simp [h0]
  · by_cases h1 : c = 1
    · simp [h1]
    · simp [h0, h1]

theorem Peer.modRflow_modRflow (p : Peer) (c : Nat) (f g : RecvFlow → RecvFlow) : (p.modRflow c f).modRflow c g = p.modRflow c fun x => g (f x) := by
  unfold Peer.modRflow
  by_cases h0 : c = 0
  · simp [h0]
  · by_cases h1 : c = 1
    · simp [h1]
    · simp [h0, h1]

theorem Peer.modRflow_congr (p : Peer) (c : Nat) (f g : RecvFlow → RecvFlow) (h : f (p.rflow c) = g (p.rflow c)) : p.modRflow c f = p.modRflow c g := by
  unfold Peer.modRflow Peer.rflow at *
  by_cases h0 : c = 0
  · simp [h0] at h ⊢; rw [h]
  · by_cases h1 : c = 1
    · simp [h1] at h ⊢; rw [h]
    · simp [h0, h1] at h ⊢; rw [h]

/-- An entry with a flow, the time of its last use and its route pointer changed. -/
theorem Peer.modRflow_with (p : Peer) (c u r : Nat) (f : RecvFlow → RecvFlow) :
    ({ p with used := u, routePtr := r } : Peer).modRflow c f = { p.modRflow c f with used := u, routePtr := r } := by
  unfold Peer.modRflow
  split
  · rfl
  · split <;> rfl

theorem Peer.rflow_with (p : Peer) (c u r : Nat) : ({ p with used := u, routePtr := r } : Peer).rflow c = p.rflow c := rfl

/-- Checks 1 to 6 of a FRESH frame. -/
theorem State.arrive_fresh {s : State} {rx : Rx} {f : RFrame} (h0 : s.power = 0) (h : s.hearsFresh rx f) (ha : rx.again = false) :
    ∃ a, s.arrive rx f = (true, a) ∧ FreshAt s rx f a := by
  obtain ⟨hf, hs, hc, h2, ht, hq⟩ := h
  obtain ⟨a, a1, a2, q, a3⟩ := State.arriveHeader_spec h0 hf ha
  have ap : ∀ n, a.peer n = s.peer n := fun n => State.peer_congr (by rw [a3]) n
  obtain ⟨b, hb⟩ : ∃ b, b = a.modPeer f.src fun p => { p with used := a.tick } := ⟨_, rfl⟩
  have b1 : b.peer f.src = { s.peer f.src with used := s.tick } := by
    rw [hb, State.peer_modPeer_same, ap, show a.tick = s.tick by rw [a3]]
  have b2 : b = { a with peers := b.peers } := by rw [hb]; rfl
  have ep : a.arrivePeer rx f = (true, b) := by
    unfold State.arrivePeer
    rw [if_neg (by omega)]
    rw [State.touchPeer_cached (by rw [ap]; exact hf.2.2.2.2.2.2.2), ← hb]
    dsimp only
    rw [if_neg (by decide), b1]
    dsimp only
    rw [hf.2.2.2.2.2.2.2, if_neg (by decide), if_neg (by omega), if_pos h2]
  have efl : (b.peer f.src).rflow f.cls = (s.peer f.src).rflow f.cls := by rw [b1]; rfl
  obtain ⟨c, hcc⟩ : ∃ c, c = b.inc Reg.expired 0 (((s.peer f.src).rflow f.cls).check f.seq).2.1 := ⟨_, rfl⟩
  obtain ⟨d, hd⟩ : ∃ d, d = c.modPeer f.src fun p => p.modRflow f.cls fun _ => (((s.peer f.src).rflow f.cls).check f.seq).2.2 := ⟨_, rfl⟩
  have c1 : c = { b with objs := c.objs } := by rw [hcc]; rfl
  have cp : ∀ n, c.peer n = b.peer n := fun n => State.peer_congr (by rw [c1]) n
  have d1 : d = { c with peers := d.peers } := by rw [hd]; rfl
  have ee : s.arrive rx f = (true, d) := by
    unfold State.arrive
    rw [a1]
    dsimp only
    rw [if_neg (by decide), ep]
    dsimp only
    rw [if_neg (by decide), ht, if_neg (by decide)]
    unfold State.arriveSeq
    dsimp only
    rw [efl, if_pos hq, ← hcc, ← hd]
  refine ⟨d, ee, ?_, ⟨q, ?_⟩, ?_, fun n hn => ?_⟩
  · refine State.took.more a2 (fun o i hk => ?_) (by decide)
    rw [State.rd_congr (s := c) (by rw [d1]), hcc, State.rd_inc_ne _ _ _ _ _ _ (hk (Reg.expired, 0) (by simp)), State.rd_congr (s := a) (by rw [b2])]
  · rw [d1, c1, b2, a3]
  · rw [hd, State.peer_modPeer_same, cp, b1]
    rw [show ({ s.peer f.src with used := s.tick } : Peer) = { s.peer f.src with used := s.tick, routePtr := (s.peer f.src).routePtr } from rfl, Peer.modRflow_with]
    rw [Peer.modRflow_congr (g := fun fl => (fl.check f.seq).2.2) _ _ _ rfl]
    unfold Peer.modRflow
    split
    · rfl
    · split <;> rfl
  · rw [hd, State.peer_modPeer_ne _ _ hn, cp, hb, State.peer_modPeer_ne _ _ hn, ap]

/-! ## ACK frames and settlement -/

theorem State.sendBlocks_spec (s : State) (n : Nat) (l : List Nat) : ∀ t, t = s.sendBlocks n l →
    t = { s with objs := t.objs, peers := t.peers, control := t.control, queueSeq := t.queueSeq } ∧ s.keepsObjects t [(Reg.noRoute, 0)] ∧
    t.peer n = { s.peer n with routePtr := (t.peer n).routePtr } ∧ (∀ m, m ≠ n → t.peer m = s.peer m) ∧ ∀ r ∈ s.control, r ∈ t.control := by
  intro t ht
  unfold State.sendBlocks at ht
  split at ht
  · subst ht; exact ⟨rfl, .refl _ _, rfl, fun _ _ => rfl, fun _ h => h⟩
  · obtain ⟨q1, q2, q3, q4, q5, q6⟩ := State.queueControl_spec s _ 5 t ht
    refine ⟨q1, q2, q3, q4, fun r hr => ?_⟩
    dsimp only at q5 q6
    cases hw : s.wayTo n with
    | none => rw [q5 hw]; exact hr
    | some w => obtain ⟨x, hx, -⟩ := q6 w hw; rw [hx]; exact List.mem_append_left _ hr

theorem State.sendEach_spec (l : List Nat) (n : Nat) : ∀ s : State, ∀ t, t = l.foldl (fun s b => s.sendBlocks n [b]) s →
    t = { s with objs := t.objs, peers := t.peers, control := t.control, queueSeq := t.queueSeq } ∧ s.keepsObjects t [(Reg.noRoute, 0)] ∧
    t.peer n = { s.peer n with routePtr := (t.peer n).routePtr } ∧ (∀ m, m ≠ n → t.peer m = s.peer m) ∧ ∀ r ∈ s.control, r ∈ t.control := by
  induction l with
  | nil => intro s t ht; subst ht; exact ⟨rfl, .refl _ _, rfl, fun _ _ => rfl, fun _ h => h⟩
  | cons b l ih =>
    intro s t ht
    rw [List.foldl_cons] at ht
    obtain ⟨a, ha⟩ : ∃ a, a = s.sendBlocks n [b] := ⟨_, rfl⟩
    rw [← ha] at ht
    obtain ⟨q1, q2, q3, q4, q5⟩ := State.sendBlocks_spec s n [b] a ha
    obtain ⟨i1, i2, i3, i4, i5⟩ := ih a t ht
    refine ⟨by rw [i1, q1], q2.trans i2, by rw [i3, q3], fun m hm => (i4 m hm).trans (q4 m hm), fun r hr => i5 r (q5 r hr)⟩

/-- An ACK of one flow at once. -/
theorem State.ackFlow_spec (s : State) (n c : Nat) : ∀ t, t = s.ackFlow n c →
    t = { s with objs := t.objs, peers := t.peers, control := t.control, queueSeq := t.queueSeq } ∧ s.keepsObjects t [(Reg.noRoute, 0)] ∧
    t.peer n = { (s.peer n).modRflow c RecvFlow.acked with routePtr := (t.peer n).routePtr } ∧ (∀ m, m ≠ n → t.peer m = s.peer m) ∧
    ∀ r ∈ s.control, r ∈ t.control := by
  intro t ht
  unfold State.ackFlow at ht
  dsimp only at ht
  obtain ⟨a, ha⟩ : ∃ a, a = (((s.peer n).rflow c).blocks c).foldl (fun s b => s.sendBlocks n [b]) s := ⟨_, rfl⟩
  rw [← ha] at ht
  obtain ⟨q1, q2, q3, q4, q5⟩ := State.sendEach_spec _ n s a ha
  have t1 : t = { a with peers := t.peers } := by rw [ht]; rfl
  refine ⟨by rw [t1, q1], fun o i hk => ?_, ?_, fun m hm => ?_, fun r hr => ?_⟩
  · rw [State.rd_congr (s := a) (by rw [t1])]; exact q2 o i hk
  · rw [ht, State.peer_modPeer_same, q3]
    unfold Peer.modRflow
    split
    · rfl
    · split <;> rfl
  · rw [ht, State.peer_modPeer_ne _ _ hm]; exact q4 m hm
  · rw [t1]; exact q5 r hr

/-- A number of a flow of DATA or COLL settles. -/
theorem State.settleNum_spec (s : State) (n c q reason : Nat) : ∀ t, t = s.settleNum n c q reason →
    let fl := (s.peer n).rflow c
    let now := fl.ackNow.contains q || reason != 0 || decide (16 ≤ (fl.settle q reason).unacked)
    t = { s with objs := t.objs, peers := t.peers, control := t.control, queueSeq := t.queueSeq } ∧ s.keepsObjects t [(Reg.refusedSettles, 0), (Reg.noRoute, 0)] ∧
    t.peer n = { (s.peer n).modRflow c fun _ => if now then (fl.settle q reason).acked else fl.settle q reason with routePtr := (t.peer n).routePtr } ∧
    (∀ m, m ≠ n → t.peer m = s.peer m) ∧ (now = false → t.control = s.control) ∧ (∀ r ∈ s.control, r ∈ t.control) ∧
    (reason = 0 → s.keepsObjects t [(Reg.noRoute, 0)]) := by
  intro t ht fl now
  obtain ⟨a, ha⟩ : ∃ a, a = s.modPeer n fun p => p.modRflow c fun f => f.settle q reason := ⟨_, rfl⟩
  obtain ⟨b, hb⟩ : ∃ b, b = (if reason = 0 then a else a.inc Reg.refusedSettles 0 1) := ⟨_, rfl⟩
  have b1 : b = { a with objs := b.objs } := by rw [hb]; split <;> rfl
  have bk : a.keepsObjects b [(Reg.refusedSettles, 0)] := by
    rw [hb]; split
    · exact .refl _ _
    · exact (State.keepsObjects.refl _ _).inc 1 (by simp)
  have bk0 : reason = 0 → ∀ o i, b.rd o i = s.rd o i := fun h o i => by rw [hb, if_pos h, ha]; rfl
  have ap : a.peer n = (s.peer n).modRflow c fun f => f.settle q reason := by rw [ha, State.peer_modPeer_same]
  have bp : ∀ m, b.peer m = a.peer m := fun m => State.peer_congr (by rw [b1]) m
  have bfl : (b.peer n).rflow c = fl.settle q reason := by rw [bp, ap, Peer.rflow_modRflow]
  have am : ∀ m, m ≠ n → a.peer m = s.peer m := fun m hm => by rw [ha, State.peer_modPeer_ne _ _ hm]
  have a1 : a = { s with peers := a.peers } := by rw [ha]; rfl
  have et : t = if now = true then b.ackFlow n c else b := by
    rw [ht]
    unfold State.settleNum
    dsimp only
    rw [← ha, ← hb, bfl]
  have e0 : (s.peer n).modRflow c (fun f => f.settle q reason) = (s.peer n).modRflow c fun _ => fl.settle q reason := Peer.modRflow_congr _ _ _ _ rfl
  have ak : ∀ l, s.keepsObjects a l := fun l o i _ => by rw [ha]; rfl
  by_cases hn : now = true
  · rw [if_pos hn] at et
    obtain ⟨q1, q2, q3, q4, q5⟩ := State.ackFlow_spec b n c t et
    refine ⟨by rw [q1, b1, a1], fun o i hk => ?_, ?_, fun m hm => ?_, (fun h => by rw [hn] at h; cases h), fun r hr => q5 r (by rw [b1, a1]; exact hr), fun h0 o i hk => ?_⟩
    · rw [q2 o i fun x hx => hk x (by simp at hx ⊢; exact .inr hx), bk o i fun x hx => hk x (by simp at hx ⊢; exact .inl hx), ak [] o i (by simp)]
    · rw [q3, bp, ap, e0]
      dsimp only
      rw [hn, if_pos rfl, Peer.modRflow_modRflow]
    · rw [q4 m hm, bp, am m hm]
    · rw [q2 o i hk, bk0 h0]
  · rw [if_neg hn] at et
    have hn' : now = false := by simpa using hn
    refine ⟨by rw [et, b1, a1], fun o i hk => ?_, ?_, fun m hm => ?_, (fun _ => by rw [et, b1, a1]), (fun r hr => by rw [et, b1, a1]; exact hr), fun h0 o i hk => ?_⟩
    · rw [et, bk o i fun x hx => hk x (by simp at hx ⊢; exact .inl hx), ak [] o i (by simp)]
    · rw [et, bp, ap, e0, hn']
      rfl
    · rw [et, bp, am m hm]
    · rw [et, bk0 h0]

/-- A FRESH frame received and settled, from a state that has the flow as checks 1 to 6 left it. -/
theorem State.settleFrame_spec {s a b : State} {rx : Rx} {f : RFrame} (hf : FreshAt s rx f a) (reason : Nat) (hp : b.peers = a.peers) (hc : b.control = s.control) :
    ∀ t, t = b.settleFrame f reason → t = { b with objs := t.objs, peers := t.peers, control := t.control, queueSeq := t.queueSeq } ∧
      b.keepsObjects t [(Reg.refusedSettles, 0), (Reg.noRoute, 0)] ∧ s.settlesFrame f reason t ∧ (reason = 0 → b.keepsObjects t [(Reg.noRoute, 0)]) := by
  intro t ht
  have bp : ∀ n, b.peer n = a.peer n := fun n => State.peer_congr hp n
  obtain ⟨c, hcc⟩ : ∃ c, c = b.modPeer f.src fun p => p.modRflow f.cls fun fl =>
    let fl := fl.receive f.seq
    if f.ackNow then { fl with ackNow := f.seq :: fl.ackNow } else fl := ⟨_, rfl⟩
  have c1 : c = { b with peers := c.peers } := by rw [hcc]; rfl
  have et : t = c.settleNum f.src f.cls f.seq reason := by rw [ht]; unfold State.settleFrame; rw [← hcc]
  have cf : (c.peer f.src).rflow f.cls = ((s.peer f.src).rflow f.cls).got f := by
    rw [hcc, State.peer_modPeer_same, Peer.rflow_modRflow, bp, hf.entry]
    rw [show ∀ p : Peer, ({ p with used := s.tick } : Peer).rflow f.cls = p.rflow f.cls from fun _ => rfl, Peer.rflow_modRflow]
    rfl
  obtain ⟨q1, q2, q3, q4, q5, q6, q7⟩ := State.settleNum_spec c f.src f.cls f.seq reason t et
  rw [cf] at q3 q5
  have ck : ∀ o i, c.rd o i = b.rd o i := fun o i => State.rd_congr (by rw [c1]) o i
  have cc : c.control = s.control := by rw [c1]; exact hc
  refine ⟨by rw [q1, c1], q2.congr' ck, ⟨?_, fun n hn => ?_, fun h => (q5 h).trans cc, fun r hr => q6 r (by rw [cc]; exact hr)⟩, fun h => (q7 h).congr' ck⟩
  · rw [q3, hcc, State.peer_modPeer_same, bp, hf.entry]
    unfold RecvFlow.acksNow
    unfold Peer.modRflow
    split
    · rfl
    · split <;> rfl
  · rw [q4 n hn, hcc, State.peer_modPeer_ne _ _ hn, bp, hf.others n hn]

/-! ## Frames that need a Live peer and no number (R203) -/

/-- Checks 1 to 4 of a frame of a Live peer. -/
theorem State.arriveLive_spec {s : State} {rx : Rx} {f : RFrame} (h0 : s.power = 0) (h : s.hearsFrame rx f) (ha : rx.again = false) (hc : f.cls ≠ 5)
    (h2 : (s.peer f.src).state = 2) : ∃ a b, s.arriveHeader rx f = (true, a) ∧ a.arrivePeer rx f = (true, b) ∧ s.took rx [] b ∧
      (∃ q, b = { s with objs := b.objs, peers := b.peers, quietSince := q }) ∧ b.peer f.src = { s.peer f.src with used := s.tick } ∧
      ∀ n, n ≠ f.src → b.peer n = s.peer n := by
  obtain ⟨a, a1, a2, q, a3⟩ := State.arriveHeader_spec h0 h ha
  have ap : ∀ n, a.peer n = s.peer n := fun n => State.peer_congr (by rw [a3]) n
  obtain ⟨b, hb⟩ : ∃ b, b = a.modPeer f.src fun p => { p with used := a.tick } := ⟨_, rfl⟩
  have b1 : b.peer f.src = { s.peer f.src with used := s.tick } := by
    rw [hb, State.peer_modPeer_same, ap, show a.tick = s.tick by rw [a3]]
  have b2 : b = { a with peers := b.peers } := by rw [hb]; rfl
  refine ⟨a, b, a1, ?_, State.took.more a2 (fun o i _ => State.rd_congr (by rw [b2]) o i) (by simp), ⟨q, by rw [b2, a3]⟩, b1, fun n hn => by rw [hb, State.peer_modPeer_ne _ _ hn, ap]⟩
  unfold State.arrivePeer
  rw [if_neg (by omega)]
  rw [State.touchPeer_cached (by rw [ap]; exact h.2.2.2.2.2.2.2), ← hb]
  dsimp only
  rw [if_neg (by decide), b1]
  dsimp only
  rw [h.2.2.2.2.2.2.2, if_neg (by decide), if_neg hc, if_pos h2]

/-- Checks 1 to 8 of an ACK or REPLY of a Live peer. -/
theorem State.arrivePlain_live {s : State} {rx : Rx} {f : RFrame} (h0 : s.power = 0) (h : s.hearsFrame rx f) (ha : rx.again = false) (hs : f.sound rx)
    (hc : f.cls ≠ 5) (h2 : (s.peer f.src).state = 2) : ∃ b, s.arrivePlain rx f = (true, b) ∧ s.took rx [] b ∧
      (∃ q, b = { s with objs := b.objs, peers := b.peers, quietSince := q }) ∧ b.peer f.src = { s.peer f.src with used := s.tick } ∧
      ∀ n, n ≠ f.src → b.peer n = s.peer n := by
  obtain ⟨a, b, a1, a2, b1, b2, b3, b4⟩ := State.arriveLive_spec h0 h ha hc h2
  refine ⟨b, ?_, b1, b2, b3, b4⟩
  unfold State.arrivePlain
  rw [a1]
  dsimp only
  rw [a2]
  unfold State.arriveTrailer
  rw [hs.1, hs.2]
  rfl

/-! ## What a target reads, and its reply (R220, R226, R415) -/

theorem State.xltRemote_congr {s t : State} (h : ∀ o ∈ [Reg.winEnable, Reg.winId, Reg.winNodeLo, Reg.winNodeHi, Reg.winKind, Reg.winPerm, Reg.winLength, Reg.winTarget], ∀ i, t.rd o i = s.rd o i)
    (id src perm off n : Nat) : t.xltRemote id src perm off n = s.xltRemote id src perm off n := by
  unfold State.xltRemote State.rb
  simp only [h Reg.winEnable (by simp), h Reg.winId (by simp), h Reg.winNodeLo (by simp), h Reg.winNodeHi (by simp), h Reg.winKind (by simp), h Reg.winPerm (by simp),
    h Reg.winLength (by simp), h Reg.winTarget (by simp)]

theorem State.reply_spec (s : State) (f : RFrame) (status : Nat) (data : List Byte) : ∀ t, t = s.reply f status data →
    t = { s with objs := t.objs, peers := t.peers, control := t.control, queueSeq := t.queueSeq } ∧ s.keepsObjects t [(Reg.noRoute, 0)] ∧
    t.peer f.src = { s.peer f.src with routePtr := (t.peer f.src).routePtr } ∧ (∀ m, m ≠ f.src → t.peer m = s.peer m) ∧ s.replies f status data t := by
  intro t ht
  obtain ⟨q1, q2, q3, q4, q5, q6⟩ := State.queueControl_spec s _ _ t ht
  refine ⟨q1, q2, q3, q4, ?_⟩
  dsimp only at q5 q6
  unfold State.replies
  split
  · rename_i h; exact q5 h
  · rename_i w h
    obtain ⟨r, r1, r2, r3, r4, r5, r6⟩ := q6 w h
    exact ⟨r, r1, r2, r3, by rw [r5], by rw [r5], by rw [r5], by rw [r5], by rw [r5], by rw [r5], by rw [r5], by rw [r5]⟩

/-- A reply is the same frame on the same way in states that agree on the ways and the node. -/
theorem State.replies_congr {s b t : State} {f : RFrame} {status : Nat} {data : List Byte} (h : b.replies f status data t) (hw : b.wayTo f.src = s.wayTo f.src)
    (hn : b.nodeId = s.nodeId) (hc : b.control = s.control) : s.replies f status data t := by
  unfold State.replies at *
  rw [hw, hn, hc] at h
  exact h

end Sys2Proof.Machine
end

