-- ==== Sys2Proof/Laws/Kill.lean ====
section
/-! SUPPORT. What ending a context's commands leaves: tallies, heats, Killed contexts and every register but two counters (R472, R473, R548). -/

set_option Elab.async false

set_option linter.unusedVariables false

namespace Sys2Proof.Machine

/-- Whether an object is a counter that ending commands may count in. -/
def Obj.winds (o : Obj) : Prop := o.ix * 2 ^ 8 + o.sub = Reg.hostKills.ix * 2 ^ 8 + Reg.hostKills.sub ∨
  o.ix * 2 ^ 8 + o.sub = Reg.hostDeadlineMisses.ix * 2 ^ 8 + Reg.hostDeadlineMisses.sub

/-- What ending commands and patterns keeps. -/
def State.winds (s t : State) : Prop :=
  t.tallies = s.tallies ∧ t.tick = s.tick ∧ t.units = s.units ∧ t.power = s.power ∧ (∀ o : Obj, ¬ o.winds → ∀ j, t.rd o j = s.rd o j) ∧
    ∀ y c, s.ctx y = some c → ∃ d, t.ctx y = some d ∧ d.heat = c.heat ∧ d.host = c.host ∧ (c.state = 7 → d.state = 7)

theorem State.winds.refl (s : State) : s.winds s := ⟨rfl, rfl, rfl, rfl, fun _ _ _ => rfl, fun y c h => ⟨c, h, rfl, rfl, id⟩⟩

theorem State.winds.trans {s t u : State} (h : s.winds t) (g : t.winds u) : s.winds u := by
  obtain ⟨h1, h2, hu, h3, h4, h5⟩ := h
  obtain ⟨g1, g2, gu, g3, g4, g5⟩ := g
  refine ⟨g1.trans h1, g2.trans h2, gu.trans hu, g3.trans h3, fun o ho j => (g4 o ho j).trans (h4 o ho j), fun y c hc => ?_⟩
  obtain ⟨d, a1, a2, a3, a4⟩ := h5 y c hc
  obtain ⟨e, b1, b2, b3, b4⟩ := g5 y d a1
  exact ⟨e, b1, b2.trans a2, b3.trans a3, fun h => b4 (a4 h)⟩

/-- Records that ending commands may change freely. -/
theorem State.winds_of {s t : State} (h1 : t.tallies = s.tallies) (h2 : t.tick = s.tick) (h3 : t.objs = s.objs) (h4 : t.ctxs = s.ctxs) (h5 : t.units = s.units) : s.winds t :=
  ⟨h1, h2, h5, State.power_eq h3, fun o _ j => State.rd_congr h3 o j, fun y c hc => ⟨c, by rw [State.ctx_eq h4]; exact hc, rfl, rfl, id⟩⟩

theorem State.modCtx_winds (s : State) (x : Nat) (f : Ctx → Ctx) (h : ∀ c, (f c).heat = c.heat ∧ (f c).host = c.host ∧ (c.state = 7 → (f c).state = 7)) :
    s.winds (s.modCtx x f) := by
  refine ⟨rfl, rfl, rfl, rfl, fun _ _ _ => rfl, fun y c hc => ?_⟩
  by_cases e : y = x
  · subst e; exact ⟨f c, by rw [State.ctx_modCtx_same, hc]; rfl, (h c).1, (h c).2.1, (h c).2.2⟩
  · exact ⟨c, by rw [State.ctx_modCtx_ne _ _ e]; exact hc, rfl, rfl, id⟩

theorem State.inc_winds (s : State) (o : Obj) (i n : Nat) (h : o = Reg.hostKills ∨ o = Reg.hostDeadlineMisses) : s.winds (s.inc o i n) := by
  have hk : ∀ o' : Obj, ¬ o'.winds → o.ix * 2 ^ 8 + o.sub ≠ o'.ix * 2 ^ 8 + o'.sub := by
    intro o' ho' e
    apply ho'
    rcases h with rfl | rfl
    · exact .inl e.symm
    · exact .inr e.symm
  refine ⟨rfl, rfl, rfl, ?_, fun o' ho' j => State.rd_inc_ne _ _ _ _ _ _ (Obj.key_ne _ _ (hk o' ho')), fun y c hc => ⟨c, hc, rfl, rfl, id⟩⟩
  unfold State.power
  rw [State.rd_inc_ne _ _ _ _ _ _ (Obj.key_ne _ _ (hk _ (by unfold Obj.winds; decide)))]

theorem State.stopPattern_winds (s : State) (x : Nat) : s.winds (s.stopPattern x) := by
  unfold State.stopPattern
  split
  · exact .refl s
  · rename_i c hc
    refine State.winds.trans ?_ (State.modCtx_winds _ _ _ fun c => ?_)
    · have h1 : s.winds (s.dropWaits x) := State.winds_of rfl rfl rfl rfl rfl
      have h2 : s.winds (if (c.busy && c.residency == 1) = true then ((s.dropWaits x).clearScratch c.seq).modCtx x fun c => { c with take := false } else s.dropWaits x) := by
        split
        · exact (h1.trans (State.winds_of rfl rfl rfl rfl rfl)).trans (State.modCtx_winds _ _ _ fun c => ⟨rfl, rfl, id⟩)
        · exact h1
      refine State.winds.trans h2 ?_
      generalize (if (c.busy && c.residency == 1) = true then ((s.dropWaits x).clearScratch c.seq).modCtx x fun c => { c with take := false } else s.dropWaits x) = a
      by_cases e : c.state = 6 ∧ c.residency = 1
      · rw [if_pos e]; exact State.winds_of rfl rfl rfl rfl rfl
      · rw [if_neg e]; exact .refl _
    · split
      · exact ⟨rfl, rfl, id⟩
      · rename_i h; exact ⟨rfl, rfl, fun e => absurd e h⟩

theorem State.memWrite_winds (s : State) (a : Nat) (l : List Byte) : s.winds (s.memWrite a l) := State.winds_of rfl rfl rfl rfl rfl

theorem State.writeImage_winds (s : State) (x : Nat) : s.winds (s.writeImage x) := by
  unfold State.writeImage
  split
  · refine State.winds.trans ?_ (State.modCtx_winds _ _ _ fun c => ⟨rfl, rfl, id⟩)
    exact State.memWrite_winds ..
  · exact .refl s

theorem State.leaveEntry_winds (s : State) (x : Nat) : s.winds (s.leaveEntry x) := by
  unfold State.leaveEntry
  split
  · exact .refl s
  · dsimp only
    split
    · exact State.modCtx_winds _ _ _ fun c => ⟨rfl, rfl, id⟩
    · split
      · refine State.winds.trans ?_ (State.writeImage_winds ..)
        exact State.modCtx_winds _ _ _ fun c => ⟨rfl, rfl, id⟩
      · refine State.winds.trans ?_ (State.modCtx_winds _ _ _ fun c => ⟨rfl, rfl, id⟩)
        refine State.winds.trans ?_ (State.writeImage_winds ..)
        exact State.modCtx_winds _ _ _ fun c => ⟨rfl, rfl, id⟩

theorem State.afterReady_winds (s : State) (x : Nat) : s.winds (s.afterReady x) := by
  unfold State.afterReady
  split
  · refine State.modCtx_winds _ _ _ fun c => ?_
    split
    · exact ⟨rfl, rfl, id⟩
    · rename_i h; exact ⟨rfl, rfl, fun e => absurd e h⟩
  · refine State.modCtx_winds _ _ _ fun c => ?_
    split
    · exact ⟨rfl, rfl, id⟩
    · rename_i h; exact ⟨rfl, rfl, fun e => absurd e h⟩

theorem State.releaseFences_winds (s : State) (i : Nat) : s.winds (s.releaseFences i) := by
  have h := (State.releaseFences_spec s i).2
  rw [h]
  exact State.winds_of rfl rfl rfl rfl rfl

theorem State.dropCmdWaits_winds (s : State) (u : Nat) : s.winds (s.dropCmdWaits u) := State.winds_of rfl rfl rfl rfl rfl

theorem State.freeContext_winds (w : State) (u : Nat) (k : Cmd) (op : Nat) : w.winds (w.freeContext u k op) := by
  unfold State.freeContext
  dsimp only
  generalize hf : (fun c : Ctx => { c with
    commandsDone := (c.commandsDone + 1) % 2 ^ 64
    step := if op = 2 then (c.step + 1) % 2 ^ 32 else c.step
    abortCount := if c.cmd = some u then 0 else c.abortCount
    replayPending := if c.cmd = some u then false else c.replayPending }) = f
  have hff : ∀ c, (f c).heat = c.heat ∧ (f c).host = c.host ∧ (c.state = 7 → (f c).state = 7) := by
    intro c; rw [← hf]; exact ⟨rfl, rfl, id⟩
  have main : ∀ v : State, w.winds v → w.winds (match (v.modCtx k.ctx f).ctx k.ctx with
      | none => v.modCtx k.ctx f
      | some c =>
        if c.cmd = some u then
          ((if c.busy then (v.modCtx k.ctx f).stopPattern k.ctx else v.modCtx k.ctx f).modCtx k.ctx fun c => { c with cmd := none, wide := 0 }).afterReady k.ctx
        else if c.cmd = none then (if c.state = 2 then (v.modCtx k.ctx f).afterReady k.ctx else v.modCtx k.ctx f) else v.modCtx k.ctx f) := by
    intro v hv
    have h1 := hv.trans (State.modCtx_winds v k.ctx f hff)
    generalize v.modCtx k.ctx f = b at *
    split
    · exact h1
    · rename_i c hc
      split
      · refine State.winds.trans ?_ (State.afterReady_winds ..)
        refine State.winds.trans ?_ (State.modCtx_winds _ _ _ fun c => ⟨rfl, rfl, id⟩)
        split
        · exact h1.trans (State.stopPattern_winds ..)
        · exact h1
      · split
        · split
          · exact h1.trans (State.afterReady_winds ..)
          · exact h1
        · exact h1
  refine main _ ?_
  split
  · split
    · exact State.winds_of rfl rfl rfl rfl rfl
    · exact .refl w
  · exact .refl w

theorem State.makeReady_winds (s : State) (u st : Nat) : s.winds (s.makeReady u st) := by
  cases hk : s.cmd u with
  | none => unfold State.makeReady; simp only [hk]; exact .refl s
  | some k =>
  cases hr : k.ready with
  | true => unfold State.makeReady; simp only [hk, hr, if_true]; exact .refl s
  | false =>
  unfold State.makeReady
  simp only [hk, hr, Bool.false_eq_true, if_false]
  generalize hk' : k.finish s.tick st = k'
  have g1 : s.winds { s with cmds := Tab.put s.cmds u k' } := State.winds_of rfl rfl rfl rfl rfl
  generalize ({ s with cmds := Tab.put s.cmds u k' } : State) = s1 at *
  generalize (isRefusal st || k.denied) = rf
  have g2 : s.winds (if rf = true then s1.modRing k.ring fun r => { r with lastRefusal := st } else s1) := by
    split
    · exact g1.trans (State.winds_of rfl rfl rfl rfl rfl)
    · exact g1
  generalize (if rf = true then s1.modRing k.ring fun r => { r with lastRefusal := st } else s1) = s2 at *
  have g3 : s.winds (if (k'.late s2.tick && !rf) = true then
      (s2.modCtx k.ctx fun c => { c with deadlineMisses := satAdd 32 c.deadlineMisses 1 }).inc Reg.hostDeadlineMisses k.host 1 else s2) := by
    split
    · refine State.winds.trans ?_ (State.inc_winds _ _ _ _ (.inr rfl))
      refine State.winds.trans g2 ?_
      exact State.modCtx_winds _ _ _ fun c => ⟨rfl, rfl, id⟩
    · exact g2
  generalize (if (k'.late s2.tick && !rf) = true then
      (s2.modCtx k.ctx fun c => { c with deadlineMisses := satAdd 32 c.deadlineMisses 1 }).inc Reg.hostDeadlineMisses k.host 1 else s2) = s3 at *
  have g4 := g3.trans (State.dropCmdWaits_winds s3 u)
  generalize s3.dropCmdWaits u = s4 at *
  have main : ∀ v : State, s.winds v → s.winds (State.releaseFences (v.modCtx k.ctx fun c => { c with
      resetting := c.resetting && v.cmds.any fun p => p.2.ctx == k.ctx && p.2.marked != 0 && !p.2.ready }) k.ring) := by
    intro v hv
    refine State.winds.trans ?_ (State.releaseFences_winds ..)
    refine State.winds.trans hv ?_
    exact State.modCtx_winds _ _ _ fun c => ⟨rfl, rfl, id⟩
  have hfin : s.winds (if (hOp k.header = 1 ∨ hOp k.header = 2) ∧ (!rf) = true then s4.freeContext u k (hOp k.header) else s4) := by
    split
    · exact g4.trans (State.freeContext_winds ..)
    · exact g4
  exact main _ hfin

theorem State.tryEnd_winds (s : State) (u : Nat) : s.winds (s.tryEnd u) := by
  unfold State.tryEnd
  repeat' split
  all_goals first | exact .refl s | exact State.makeReady_winds ..

theorem State.endCommand_winds (s : State) (u st b : Nat) : s.winds (s.endCommand u st b) := by
  unfold State.endCommand
  split
  · exact .refl s
  · rename_i k hk
    split
    · exact .refl s
    · dsimp only
      refine State.winds.trans ?_ (State.tryEnd_winds ..)
      generalize hw : s.modCmd u (fun k => { k with marked := st, resultBytes := 0 }) = w
      have h1 : s.winds w := by rw [← hw]; exact State.winds_of rfl rfl rfl rfl rfl
      have main : ∀ v : State, s.winds v → s.winds (({ v.modDisp u (fun d => { d with ended := true }) with
          pourQueue := (v.modDisp u (fun d => { d with ended := true })).pourQueue.filter (· != u) } : State).modBlock k.ctx fun x =>
            if x.uid = u then { x with state := b } else x) :=
        fun v hv => hv.trans (State.winds_of rfl rfl rfl rfl rfl)
      refine main _ ?_
      split
      · split
        · exact h1.trans (State.stopPattern_winds ..)
        · exact h1
      · exact h1

theorem State.stopCmd_winds (s : State) (st u : Nat) : s.winds (s.stopCmd st u) := by
  unfold State.stopCmd
  split
  · exact .refl s
  · rename_i k hk
    split
    · exact .refl s
    · dsimp only
      split
      · exact (State.endCommand_winds ..).trans (State.winds_of rfl rfl rfl rfl rfl)
      · split
        · exact State.winds_of rfl rfl rfl rfl rfl
        · split
          · exact State.makeReady_winds ..
          · split
            · exact State.winds_of rfl rfl rfl rfl rfl
            · exact .refl s

theorem State.stopCmds_winds (l : List Nat) (st : Nat) : ∀ s : State, s.winds (l.foldl (fun s u => s.stopCmd st u) s) := by
  induction l with
  | nil => exact fun s => .refl s
  | cons a l ih => intro s; exact (State.stopCmd_winds s st a).trans (ih _)

/-- A killed context is Killed, whatever becomes of its commands. -/
theorem State.killContext_winds {s : State} {x : Nat} {c : Ctx} (hc : s.ctx x = some c) :
    s.winds (s.killContext x) ∧ ∃ d, (s.killContext x).ctx x = some d ∧ d.state = 7 := by
  unfold State.killContext
  rw [hc]
  dsimp only
  split
  · rename_i h7; exact ⟨.refl s, c, hc, h7⟩
  · generalize hw : State.inc _ Reg.hostKills c.host 1 = w
    have h1 : s.winds w ∧ ∃ d, w.ctx x = some d ∧ d.state = 7 := by
      rw [← hw]
      have h2 := (State.stopPattern_winds s x).trans (State.leaveEntry_winds (s.stopPattern x) x)
      obtain ⟨d, hd, -, -⟩ := h2.2.2.2.2.2 x c hc
      generalize (s.stopPattern x).leaveEntry x = a at *
      refine ⟨?_, ?_⟩
      · refine State.winds.trans ?_ (State.inc_winds _ _ _ _ (.inl rfl))
        refine State.winds.trans h2 ?_
        exact State.modCtx_winds _ _ _ fun c => ⟨rfl, rfl, fun _ => rfl⟩
      refine ⟨{ d with state := 7, replayPending := false, killTick := s.tick }, ?_, rfl⟩
      have e : ∀ w : State, (w.inc Reg.hostKills c.host 1).ctx x = w.ctx x := fun w => rfl
      rw [e, State.ctx_modCtx_same, hd]; rfl
    have h2 := State.stopCmds_winds ((w.cmds.filter fun p => p.2.ctx == x && !p.2.ready).map (·.1)) 0x17 w
    refine ⟨h1.1.trans h2, ?_⟩
    obtain ⟨d, hd, h7⟩ := h1.2
    obtain ⟨e, he, -, -, h⟩ := h2.2.2.2.2.2 x d hd
    exact ⟨e, he, h h7⟩

/-- BAL begins no round where no balance group is enabled. -/
theorem State.boundary_off {s : State} (h : ∀ b, b < 16 → s.rb Reg.balanceEnable b = false) (x step : Nat) : s.boundary x step = s := by
  unfold State.boundary
  have : ∀ (l : List Nat), (∀ b ∈ l, b < 16) → l.foldl (fun s b =>
    if s.rb Reg.balanceEnable b ∧ s.rd Reg.balanceContext b = x ∧
        (step + 1) % max 1 (s.rd Reg.period b) = 0 then s.beginRound b step else s) s = s := by
    intro l
    induction l with
    | nil => intro _; rfl
    | cons a l ih =>
      intro hl
      rw [List.foldl_cons, if_neg (by simp [h a (hl a (by simp))])]
      exact ih fun b hb => hl b (by simp [hb])
  exact this _ fun b hb => List.mem_range.mp hb

theorem State.settle_off {s : State} (h : ∀ b, b < 16 → s.rb Reg.balanceEnable b = false) : s.settle = s.pinned := by
  unfold State.settle
  have : ∀ (l : List (Nat × Nat)) (w : State), (∀ b, b < 16 → w.rb Reg.balanceEnable b = false) →
      l.foldl (fun (s : State) (b : Nat × Nat) => s.boundary b.1 b.2) w = w := by
    intro l
    induction l with
    | nil => intro w _; rfl
    | cons a l ih => intro w hw; rw [List.foldl_cons, State.boundary_off hw]; exact ih w hw
  have h' : ∀ b, b < 16 → ({ s with boundaries := [] } : State).rb Reg.balanceEnable b = false := h
  rw [this _ _ h']; rfl

end Sys2Proof.Machine
end

