-- ==== Sys2Proof/Laws/Ladle.lean ====
section
/-! SUPPORT. What the requests of LDL depend on and leave (R389 to R394). -/

set_option Elab.async false

namespace Sys2Proof.Machine

theorem State.ringRecord_seen (s : State) (q a b c d e : Nat) (o : Obj) (l : List Byte) :
    (s.seen q).ringRecord a b c d e o l = (s.ringRecord a b c d e o l).seen q := by
  have e1 : (s.seen q).engineAddr = s.engineAddr := rfl
  have e2 : (s.seen q).memBad = s.memBad := rfl
  unfold State.ringRecord
  rw [e1, e2]
  dsimp only
  cases s.engineAddr a (d % (2 ^ b / c) * c) c with
  | none => rfl
  | some x => dsimp only; split <;> rfl

theorem State.telemetryPut_seen (s : State) (q a : Nat) : (s.seen q).telemetryPut a = (s.telemetryPut a).seen q := by
  have e1 : (s.seen q).engineWindow = s.engineWindow := rfl
  have e2 : (s.seen q).bgdOn = s.bgdOn := rfl
  unfold State.telemetryPut
  simp only [State.rd_seen, e1, e2, State.ringRecord_seen]
  split <;> rfl

theorem State.appendHistory_seen (s : State) (q u : Nat) (r : FaultRec) : (s.seen q).appendHistory u r = (s.appendHistory u r).seen q := by
  have e1 : (s.seen q).recordHead = s.recordHead := rfl
  have e2 : (s.seen q).unitFaults = s.unitFaults := rfl
  unfold State.appendHistory State.alarm
  simp only [e1, e2, State.telemetryPut_seen]
  split <;> rfl

theorem State.openRecord_seen (s : State) (q u : Nat) : (s.seen q).openRecord u = (s.openRecord u).seen q := by
  unfold State.openRecord
  exact State.appendHistory_seen { s with free := s.free + 4 } q u _

theorem State.pressure_seen (s : State) (q c : Nat) : (s.seen q).pressure c = (s.pressure c).seen q := by
  have e1 : (s.seen q).shareable = s.shareable := rfl
  have e2 : (s.seen q).pool = s.pool := rfl
  have e3 : ∀ f, (s.seen q).modPool c f = (s.modPool c f).seen q := fun _ => rfl
  unfold State.pressure
  simp only [e1, e2, e3, State.rd_seen, State.openRecord_seen]
  split
  · rfl
  · split <;> rfl

theorem State.grant_seen (s : State) (q r c : Nat) : (s.seen q).grant r c = ((s.grant r c).1, (s.grant r c).2.seen q) := by
  have e2 : (s.seen q).pool = s.pool := rfl
  unfold State.grant
  rw [e2]
  cases (s.pool c).free with
  | nil => rfl
  | cons i l =>
    dsimp only
    rw [← State.pressure_seen]
    rfl

theorem State.request_seen (s : State) (q r c : Nat) : (s.seen q).request r c = ((s.request r c).1, (s.request r c).2.seen q) := by
  have e1 : (s.seen q).canServe = s.canServe := rfl
  have e2 : (s.seen q).heldBy = s.heldBy := rfl
  have e3 : (s.seen q).rb = s.rb := rfl
  unfold State.request
  simp only [e1, e2, e3, State.rd_seen, State.grant_seen]
  split
  · rfl
  · split <;> rfl

/-- What a pool's change of pressure may change: the free values drawn, and what recording reaches. -/
def State.pressed (s t : State) : Prop :=
  t = { s with objs := t.objs, mem := t.mem, units := t.units, promo := t.promo, summary := t.summary, stopDeadline := t.stopDeadline, free := t.free, pools := t.pools }

theorem State.pressure_spec (s : State) (c : Nat) : s.pressed (s.pressure c) := by
  have e : ∀ (t : State) u, s.pressed t → s.pressed (t.openRecord u) := by
    intro t u h
    unfold State.openRecord State.pressed at *
    dsimp only
    have hr := State.appendHistory_recorded { t with free := t.free + 4 } u
    generalize hf : ({ source := _, cls := _, reaction := _, promoted := _, ctxValid := _, host := _, ctx := _, heat := _, tick := _, status := _, detailA := _, detailB := _ } : FaultRec) = f
    have hf' := hr f
    generalize State.appendHistory _ u f = v at *
    unfold State.recorded at hf'
    rw [hf', h]
  unfold State.pressure
  dsimp only
  split
  · exact e _ _ rfl
  · split
    · exact e _ _ rfl
    · exact rfl

theorem State.pressure_boundaries (s : State) (c : Nat) : (s.pressure c).boundaries = s.boundaries := by
  have h := State.pressure_spec s c
  unfold State.pressed at h
  rw [h]

/-- What a request may change. -/
theorem State.request_spec (s : State) (r c : Nat) : (s.request r c).2 =
    { s with objs := (s.request r c).2.objs, mem := (s.request r c).2.mem, units := (s.request r c).2.units, promo := (s.request r c).2.promo, summary := (s.request r c).2.summary, stopDeadline := (s.request r c).2.stopDeadline, free := (s.request r c).2.free, pools := (s.request r c).2.pools, bufs := (s.request r c).2.bufs } := by
  have e : ∀ c, (s.grant r c).2 = { s with objs := (s.grant r c).2.objs, mem := (s.grant r c).2.mem, units := (s.grant r c).2.units, promo := (s.grant r c).2.promo, summary := (s.grant r c).2.summary, stopDeadline := (s.grant r c).2.stopDeadline, free := (s.grant r c).2.free, pools := (s.grant r c).2.pools, bufs := (s.grant r c).2.bufs } := by
    intro c
    unfold State.grant
    cases (s.pool c).free with
    | nil => rfl
    | cons i l =>
      dsimp only
      generalize hu : State.inc _ Reg.grants 0 1 = u
      have h := State.pressure_spec u c
      have hu2 : u = { s with objs := u.objs, pools := u.pools, bufs := u.bufs } := by rw [← hu]; rfl
      generalize u.pressure c = w at *
      unfold State.pressed at h
      rw [h, hu2]
  unfold State.request
  split
  · exact e _
  · dsimp only
    split
    · have h := e (c + 1)
      dsimp only
      generalize (s.grant r (c + 1)).2 = w at *
      rw [h]; rfl
    · rfl

/-- A request that is not granted changes nothing. -/
theorem State.request_none (s : State) (r c : Nat) (h : (s.request r c).1 = none) : (s.request r c).2 = s := by
  have e : ∀ c, s.canServe r c = true → (s.grant r c).1 ≠ none := by
    intro c hc hn
    unfold State.grant at hn
    unfold State.canServe at hc
    cases hf : (s.pool c).free with
    | nil =>
      simp only [hf, List.isEmpty_nil, Bool.not_true, State.shareable, List.length_nil, Nat.zero_sub, Nat.lt_irrefl, decide_false, Bool.and_false, Bool.false_and] at hc
      split at hc <;> cases hc
    | cons i l => rw [hf] at hn; cases hn
  unfold State.request at *
  split
  · rename_i hc; rw [if_pos hc] at h; exact absurd h (e _ hc)
  · rename_i hc
    rw [if_neg hc] at h
    dsimp only at *
    split
    · rename_i hc2; rw [if_pos hc2] at h; exact absurd h (e _ hc2.2.2.2)
    · rfl

theorem State.request_boundaries (s : State) (r c : Nat) : (s.request r c).2.boundaries = s.boundaries := by
  have e : ∀ c, (s.grant r c).2.boundaries = s.boundaries := by
    intro c
    unfold State.grant
    cases (s.pool c).free with
    | nil => rfl
    | cons i l => exact State.pressure_boundaries _ _
  unfold State.request
  split
  · exact e _
  · dsimp only
    split
    · exact e _
    · rfl

theorem State.takeBuffers_boundaries (r c n : Nat) (l b : List Nat) : ∀ (s : State), (s.takeBuffers r c n l).1 = some b → (s.takeBuffers r c n l).2.boundaries = s.boundaries := by
  induction n generalizing l with
  | zero => intro s _; rfl
  | succ n ih =>
    intro s h
    rw [State.takeBuffers] at h ⊢
    rw [← State.request_boundaries s r c]
    cases hr : (s.request r c).1 with
    | none => rw [hr] at h; cases h
    | some x =>
      rw [hr] at h
      have h' : ((s.request r c).2.takeBuffers r c n (l ++ [x])).1 = some b := h
      exact ih _ _ h'

theorem State.takeBuffers_seen (r c n : Nat) (l : List Nat) (q : Nat) : ∀ (s : State), ((s.seen q).takeBuffers r c n l).1 = (s.takeBuffers r c n l).1 := by
  induction n generalizing l with
  | zero => intro s; rfl
  | succ n ih =>
    intro s
    unfold State.takeBuffers
    rw [State.request_seen]
    dsimp only
    cases (s.request r c).1 with
    | none => rfl
    | some h => dsimp only; exact ih _ _

end Sys2Proof.Machine
end

