-- ==== Sys2Proof/Laws/Pattern.lean ====
section
/-! SUPPORT. What a word of a pattern does, one lemma per stage of its issue (R366 to R372). -/

set_option Elab.async false

namespace Sys2Proof.Machine

/-- A word about to issue belongs to the context Running on its sequencer. -/
theorem State.issueOf_some {s : State} {n : Nat} {i : Issue} (h : s.issueOf n = some i) :
    i.n = n ∧ i.c.state = 3 ∧ i.c.cmd = some i.uid ∧ s.works 1 = true ∧ s.cmd i.uid = some i.k ∧
      s.patternOf i.c i.k = some i.p ∧ (i.p.words[i.c.pc]?).map decodeWord = some i.w ∧ s.running n = some (i.x, i.c) := by
  unfold State.issueOf at h
  split at h; · cases h
  rename_i x c hr
  split at h; · cases h
  rename_i hst
  split at h; · cases h
  rename_i u hu
  split at h; · cases h
  split at h; · cases h
  rename_i k hk
  split at h; · cases h
  rename_i p hp
  split at h; · cases h
  rename_i w hw
  cases h
  simp_all

/-- A word about to issue does not depend on the tick of the last activity. -/
theorem State.issues_quietSince {s : State} {n : Nat} {i : Issue} (q : Nat) :
    (s.seen q).issues n i ↔ s.issues n i := Iff.rfl

/-- The row of a slot that the word holds issues the word. -/
theorem State.slotRow_issues {s : State} {n : Nat} {i : Issue} {is : PWord → Bool} (h : s.issues n i) (hw : is i.w = true) :
    s.slotRow n is = s.issueWord i := by
  simp [State.slotRow, h.1, hw]

/-- What RDS gives a scalar slot that executes it; 0 for any other slot without an access. -/
def State.rdsValue (s : State) (i : Issue) (sl : ScalarSlot) : Word64 :=
  if i.exec sl.guard = true ∧ sl.op = 0x30 then s.specialValue i (sl.imm % 16) else 0

theorem State.scalarAccess_quiet (s : State) (i : Issue) {sl : ScalarSlot} (h : sl.quiet) :
    s.scalarAccess i sl = (0, s.rdsValue i sl, s) := by
  obtain ⟨h1, h2, h3⟩ := h
  unfold State.scalarAccess State.rdsValue
  by_cases e : i.exec sl.guard = true <;> simp [e, h1, h2, h3]

/-- A word without SHARED or scalar memory access, whose checks pass, issues its slots. -/
theorem State.issueWord_slots {s : State} {n : Nat} {i : Issue} (hs : s.checks = []) (h : s.issues n i)
    (hst : i.exec i.w.stitch.guard = true → i.w.stitch.op ≠ 2) (ha : i.w.a.quiet) (hb : i.w.b.quiet) :
    s.issueWord i = s.issueSlots i (s.rdsValue i i.w.a) (s.rdsValue i i.w.b) none := by
  have hsh : (i.exec i.w.stitch.guard && i.w.stitch.op == 2) = false := by
    by_cases e : i.exec i.w.stitch.guard = true
    · simp [e, hst e]
    · simp [e]
  unfold State.issueWord
  simp only [State.storeRead_clean _ _ _ _ _ hs, h.2.2, hsh, Bool.false_eq_true, if_false, State.scalarAccess_quiet _ _ ha,
    State.scalarAccess_quiet _ _ hb, Bool.false_and]
  simp

/-- What the control slot of a word that goes on makes of the context. -/
def Issue.goOn (i : Issue) (c : Ctx) : Ctx :=
  if !i.exec i.w.control.guard ∨ i.w.control.cop = 0 then { c with pc := i.c.pc + 1 }
  else if i.w.control.cop = 1 then { c with pc := i.w.control.target }
  else if i.w.control.cop = 2 then { c with pc := i.w.control.target, stack := (i.c.pc + 1) :: c.stack }
  else { c with pc := c.stack.headD 0, stack := c.stack.drop 1 }

theorem State.issueControl_goesOn {s : State} {i : Issue} (h : i.goesOn) : s.issueControl i = s.modCtx i.x i.goOn := by
  unfold State.issueControl Issue.goOn
  by_cases h0 : i.exec i.w.control.guard = false
  · simp [h0]
  · have hc : i.w.control.cop ≤ 3 := by rcases h with h | h; exact absurd h h0; exact h
    simp only [Bool.not_eq_false] at h0
    simp only [h0, Bool.not_true, Bool.false_eq_true, false_or]
    by_cases e0 : i.w.control.cop = 0
    · simp [e0]
    · by_cases e1 : i.w.control.cop = 1
      · simp [e1]
      · by_cases e2 : i.w.control.cop = 2
        · simp [e2]
        · have e3 : i.w.control.cop = 3 := by omega
          simp [e3]

theorem Issue.armWide_narrow {i : Issue} (h : i.narrow) (c : Ctx) : i.armWide c = c := by
  obtain ⟨h1, h2, h3, h4, h5, h6⟩ := h
  simp [Issue.armWide, h1, h2, h3, h4]

/-- The context that a narrow word leaves: scalar results of slots A and B, then where the control slot sends it. -/
def Issue.narrowCtx (i : Issue) (va vb : Word64) : Ctx := i.goOn (i.writeback i.w.b vb (i.writeback i.w.a va i.c))

theorem Issue.writeback_cmd (i : Issue) (sl : ScalarSlot) (v : Word64) (c : Ctx) :
    (i.writeback sl v c).cmd = c.cmd ∧ (i.writeback sl v c).state = c.state := by
  unfold Issue.writeback
  dsimp only
  split
  · exact ⟨rfl, rfl⟩
  · split
    · unfold Ctx.setReg; split <;> exact ⟨rfl, rfl⟩
    · split <;> exact ⟨rfl, rfl⟩

theorem State.modCtx_modCtx (s : State) (x : Nat) (f g : Ctx → Ctx) : (s.modCtx x f).modCtx x g = s.modCtx x (fun c => g (f c)) := by
  have h : Tab.modify (Tab.modify s.ctxs x f) x g = Tab.modify s.ctxs x fun c => g (f c) := by
    simp only [Tab.modify, List.map_map]
    congr 1
    funext p
    simp only [Function.comp]
    split <;> simp_all
  unfold State.modCtx
  dsimp only
  rw [h]

theorem Issue.armWide_cmd (i : Issue) (c : Ctx) : (i.armWide c).cmd = c.cmd ∧ (i.armWide c).state = c.state := by
  unfold Issue.armWide
  dsimp only
  refine ⟨?_, ?_⟩ <;> (repeat' split) <;> rfl

theorem Issue.armWide_seq (i : Issue) (c : Ctx) : (i.armWide c).seq = c.seq := by
  unfold Issue.armWide
  dsimp only
  (repeat' split) <;> rfl

theorem Issue.armWide_effect (i : Issue) (c : Ctx) : (i.armWide c).effectCount = c.effectCount ∧ (i.armWide c).effectCrc = c.effectCrc ∧
    (i.armWide c).suppress = c.suppress ∧ (i.armWide c).heat = c.heat := by
  unfold Issue.armWide
  dsimp only
  refine ⟨?_, ?_, ?_, ?_⟩ <;> (repeat' split) <;> rfl

theorem Issue.narrow.arms {i : Issue} (h : i.narrow) : i.arms :=
  ⟨h.2.2.2.1, h.2.2.2.2.1, h.2.2.2.2.2, fun e => by rw [h.1] at e; cases e⟩

/-- The parts of the context that the wide slots set (R373 to R377). -/
theorem Issue.armWide_stitchTally (i : Issue) (c : Ctx) :
    (i.armWide c).stitchTally = if (i.exec i.w.stitch.guard && i.w.stitch.op == 1) = true then i.tallyReg i.w.stitch.reg else c.stitchTally := by
  unfold Issue.armWide; dsimp only; repeat' split
  all_goals first | rfl | contradiction

theorem Issue.armWide_armLevel (i : Issue) (c : Ctx) :
    (i.armWide c).armLevel = if i.exec i.w.select.guard = true then (if i.w.select.op = 2 then i.w.select.level else 0) else c.armLevel := by
  unfold Issue.armWide; dsimp only
  by_cases h1 : (i.exec i.w.stitch.guard && i.w.stitch.op == 1) = true <;> by_cases h2 : i.exec i.w.select.guard = true <;>
    by_cases h3 : i.exec i.w.pour.guard = true <;> by_cases h4 : i.exec i.w.score.guard = true <;>
    simp only [h1, h2, h3, h4, if_true, if_false, Bool.false_eq_true]

theorem Issue.armWide_pourTally (i : Issue) (c : Ctx) :
    (i.armWide c).pourTally = if i.exec i.w.pour.guard = true then
      (if i.w.pour.tallyEnable = 1 then some (i.tallyReg i.w.pour.tallyReg) else none) else c.pourTally := by
  unfold Issue.armWide; dsimp only
  by_cases h1 : (i.exec i.w.stitch.guard && i.w.stitch.op == 1) = true <;> by_cases h2 : i.exec i.w.select.guard = true <;>
    by_cases h3 : i.exec i.w.pour.guard = true <;> by_cases h4 : i.exec i.w.score.guard = true <;>
    simp only [h1, h2, h3, h4, if_true, if_false, Bool.false_eq_true]

theorem Issue.armWide_scoreTally (i : Issue) (c : Ctx) :
    (i.armWide c).scoreTally = if i.exec i.w.score.guard = true then
      (if i.w.score.tallyEnable = 1 then some (i.tallyReg i.w.score.tallyReg) else none) else c.scoreTally := by
  unfold Issue.armWide; dsimp only
  by_cases h1 : (i.exec i.w.stitch.guard && i.w.stitch.op == 1) = true <;> by_cases h2 : i.exec i.w.select.guard = true <;>
    by_cases h3 : i.exec i.w.pour.guard = true <;> by_cases h4 : i.exec i.w.score.guard = true <;>
    simp only [h1, h2, h3, h4, if_true, if_false, Bool.false_eq_true]

theorem Issue.armWide_wide (i : Issue) (c : Ctx) (m : Nat) :
    bit (i.armWide c).wide m =
      (bit c.wide m || (i.exec i.w.stitch.guard && i.w.stitch.op == 1 && decide (m = 0)) || (i.exec i.w.select.guard && decide (m = 1)) ||
        (i.exec i.w.pour.guard && decide (m = 2)) || (i.exec i.w.score.guard && decide (m = 3))) := by
  have e : (i.armWide c).wide = (if i.exec i.w.score.guard = true then fun x => setBit x 3 else id)
      ((if i.exec i.w.pour.guard = true then fun x => setBit x 2 else id) ((if i.exec i.w.select.guard = true then fun x => setBit x 1 else id)
        ((if (i.exec i.w.stitch.guard && i.w.stitch.op == 1) = true then fun x => setBit x 0 else id) c.wide))) := by
    unfold Issue.armWide; dsimp only
    by_cases h1 : (i.exec i.w.stitch.guard && i.w.stitch.op == 1) = true <;> by_cases h2 : i.exec i.w.select.guard = true <;>
      by_cases h3 : i.exec i.w.pour.guard = true <;> by_cases h4 : i.exec i.w.score.guard = true <;>
      simp only [h1, h2, h3, h4, if_true, if_false, Bool.false_eq_true, id]
  rw [e]
  generalize (i.exec i.w.stitch.guard && i.w.stitch.op == 1) = a
  generalize i.exec i.w.select.guard = b
  generalize i.exec i.w.pour.guard = d
  generalize i.exec i.w.score.guard = f
  cases a <;> cases b <;> cases d <;> cases f <;> simp only [if_true, if_false, Bool.false_eq_true, id, bit_setBit, Bool.true_and,
    Bool.false_and, Bool.or_false] <;> repeat' split
  all_goals simp_all

/-- A word of at most arming slots up to its control slot: one counter, and what the slots and the scalar results make of the context. -/
theorem State.issueSlots_control {s : State} {i : Issue} {d : Ctx} (hd : s.ctx i.x = some d) (hst : d.state = 3) (hcmd : d.cmd = some i.uid)
    (hn : i.arms) (va vb : Word64) :
    s.issueSlots i va vb none = State.issueControl ((s.inc Reg.wordsIssued i.n 1).modCtx i.x
      (fun c => i.writeback i.w.b vb (i.writeback i.w.a va (i.armWide c)))) i := by
  obtain ⟨h4, h5, h6, -⟩ := hn
  have hc : (s.inc Reg.wordsIssued i.n 1).ctx i.x = some d := hd
  have hcom : ∀ f, (s.modCtx i.x f).inc Reg.wordsIssued i.n 1 = (s.inc Reg.wordsIssued i.n 1).modCtx i.x f := fun f => rfl
  unfold State.issueSlots
  simp only [h4, Bool.false_eq_true, if_false, State.issueCopySlot, h5, Bool.not_false, if_true, hcom, State.modCtx_modCtx]
  simp only [State.issueTallySlot, h6, Bool.not_false, if_true, State.ctx_modCtx_same, hc, Option.map_some]
  have e1 : (i.writeback i.w.b vb (i.writeback i.w.a va (i.armWide d))).cmd = some i.uid := by
    rw [(Issue.writeback_cmd ..).1, (Issue.writeback_cmd ..).1, (Issue.armWide_cmd ..).1, hcmd]
  have e2 : (i.writeback i.w.b vb (i.writeback i.w.a va (i.armWide d))).state = 3 := by
    rw [(Issue.writeback_cmd ..).2, (Issue.writeback_cmd ..).2, (Issue.armWide_cmd ..).2, hst]
  simp only [e1, e2, and_self, if_true]

/-- A narrow word that goes on: one counter and one context change. -/
theorem State.issueSlots_narrow {s : State} {i : Issue} {d : Ctx} (hd : s.ctx i.x = some d) (hst : d.state = 3) (hcmd : d.cmd = some i.uid)
    (hn : i.arms) (hg : i.goesOn) (va vb : Word64) :
    s.issueSlots i va vb none = (s.inc Reg.wordsIssued i.n 1).modCtx i.x
      (fun c => i.goOn (i.writeback i.w.b vb (i.writeback i.w.a va (i.armWide c)))) := by
  rw [State.issueSlots_control hd hst hcmd hn, State.issueControl_goesOn hg, State.modCtx_modCtx]

/-- A word without SHARED whose scalar slots get their values from accesses that answer well, the first leaving the state as it is for the second. -/
theorem State.issueWord_access {s u : State} {n : Nat} {i : Issue} {va vb : Word64} (hs : s.checks = []) (h : s.issues n i)
    (hst : i.exec i.w.stitch.guard = true → i.w.stitch.op ≠ 2) (ha : s.scalarAccess i i.w.a = (0, va, u))
    (hb : u.scalarAccess i i.w.b = (0, vb, u)) : s.issueWord i = u.issueSlots i va vb none := by
  have hsh : (i.exec i.w.stitch.guard && i.w.stitch.op == 2) = false := by
    by_cases e : i.exec i.w.stitch.guard = true
    · simp [e, hst e]
    · simp [e]
  unfold State.issueWord
  simp only [State.storeRead_clean _ _ _ _ _ hs, h.2.2, hsh, Bool.false_eq_true, if_false, ha, hb, Bool.false_and]
  simp

/-! ## Scalar results -/

theorem scalarValue_isSome (op : Nat) (a b : Word64) (imm : Nat) (v : Word64) :
    (scalarValue op a b imm v).isSome = (scalarValue op 0 0 0 0).isSome := by
  unfold scalarValue; split <;> simp_all

theorem predValue_isSome (op : Nat) (a b : Word64) (imm ps ra rb : Nat) :
    (predValue op a b imm ps ra rb).isSome = (predValue op 0 0 0 0 0 0).isSome := by
  unfold predValue; split <;> simp_all

/-- What a scalar slot's result leaves of the context: all but a register or a predicate. -/
theorem Issue.writeback_rest (i : Issue) (sl : ScalarSlot) (v : Word64) (c : Ctx) :
    i.writeback sl v c = { c with g := (i.writeback sl v c).g, preds := (i.writeback sl v c).preds } := by
  unfold Issue.writeback
  dsimp only
  split
  · rfl
  · split
    · unfold Ctx.setReg; split <;> rfl
    · split <;> rfl

theorem Issue.writeback_two (i : Issue) (a b : ScalarSlot) (va vb : Word64) (c : Ctx) :
    i.writeback b vb (i.writeback a va c) =
      { c with g := (i.writeback b vb (i.writeback a va c)).g, preds := (i.writeback b vb (i.writeback a va c)).preds } := by
  have h2 := Issue.writeback_rest i b vb (i.writeback a va c)
  have h1 := Issue.writeback_rest i a va c
  generalize i.writeback b vb (i.writeback a va c) = y at *
  generalize i.writeback a va c = z at *
  rw [h1] at h2
  exact h2

theorem Issue.writeback_greg_ne (i : Issue) (sl : ScalarSlot) (v : Word64) (c : Ctx) (r : Nat) (h : ¬ i.writesReg sl r) :
    (i.writeback sl v c).greg r = c.greg r := by
  unfold Issue.writeback
  dsimp only
  split
  · rfl
  · rename_i he
    split
    · rename_i w hw
      rw [Ctx.greg_setReg]
      split
      · rename_i e
        exact absurd ⟨by simpa using he, e.symm, by rw [← scalarValue_isSome sl.op (i.reg sl.ra) (i.reg sl.rb) sl.imm v, hw]; rfl⟩ h
      · rfl
    · split <;> rfl

theorem Issue.writeback_preds_ne (i : Issue) (sl : ScalarSlot) (v : Word64) (c : Ctx) (p : Nat) (h : ¬ i.writesPred sl p) :
    bit (i.writeback sl v c).preds p = bit c.preds p := by
  unfold Issue.writeback
  dsimp only
  split
  · rfl
  · rename_i he
    split
    · unfold Ctx.setReg; split <;> rfl
    · split
      · rename_i b hb
        rw [Ctx.preds_setPred]
        split
        · rename_i e
          exact absurd ⟨by simpa using he, e.symm, by
            rw [← predValue_isSome sl.op (i.reg sl.ra) (i.reg sl.rb) sl.imm i.c.preds sl.ra sl.rb, hb]; rfl⟩ h
        · rfl
      · rfl

theorem Issue.writeback_greg (i : Issue) (sl : ScalarSlot) (v w : Word64) (c : Ctx) (he : i.exec sl.guard = true)
    (hv : scalarValue sl.op (i.reg sl.ra) (i.reg sl.rb) sl.imm v = some w) :
    (i.writeback sl v c).greg sl.rd = (if sl.rd = 0 then 0 else w) ∧ (i.writeback sl v c).preds = c.preds := by
  unfold Issue.writeback
  simp only [he, Bool.not_true, Bool.false_eq_true, if_false, hv]
  refine ⟨by simp [Ctx.greg_setReg], ?_⟩
  unfold Ctx.setReg; split <;> rfl

theorem Issue.writeback_pred (i : Issue) (sl : ScalarSlot) (v : Word64) (b : Bool) (c : Ctx) (he : i.exec sl.guard = true)
    (hv : scalarValue sl.op (i.reg sl.ra) (i.reg sl.rb) sl.imm v = none)
    (hp : predValue sl.op (i.reg sl.ra) (i.reg sl.rb) sl.imm i.c.preds sl.ra sl.rb = some b) :
    bit (i.writeback sl v c).preds sl.pd = b ∧ (i.writeback sl v c).g = c.g := by
  unfold Issue.writeback
  simp only [he, Bool.not_true, Bool.false_eq_true, if_false, hv, hp]
  exact ⟨by simp [Ctx.preds_setPred], rfl⟩

theorem Issue.goOn_rest (i : Issue) (c : Ctx) : i.goOn c = { c with pc := (i.goOn c).pc, stack := (i.goOn c).stack } := by
  unfold Issue.goOn; split
  · rfl
  · split
    · rfl
    · split <;> rfl

@[simp] theorem Issue.goOn_g (i : Issue) (c : Ctx) : (i.goOn c).g = c.g := by rw [Issue.goOn_rest]
@[simp] theorem Issue.goOn_preds (i : Issue) (c : Ctx) : (i.goOn c).preds = c.preds := by rw [Issue.goOn_rest]
@[simp] theorem Issue.goOn_greg (i : Issue) (c : Ctx) (r : Nat) : (i.goOn c).greg r = c.greg r := by unfold Ctx.greg; rw [Issue.goOn_g]

/-- The row of a slot of a narrow word whose accesses answer well and change nothing. -/
theorem runs_access {r : Instr} {s : State} {n : Nat} {i : Issue} {is : PWord → Bool} {P : State → Prop} {va vb : Word64}
    (hr : exec r s = .next (State.settle (s.event fun s => s.slotRow n is)))
    (ha : s.awake) (hs : s.sound) (h : s.issues n i) (hn : i.narrow) (hg : i.goesOn) (his : is i.w = true)
    (hva : ∀ q, (s.seen q).scalarAccess i i.w.a = (0, va, s.seen q)) (hvb : ∀ q, (s.seen q).scalarAccess i i.w.b = (0, vb, s.seen q))
    (hP : ∀ t, t.ctx i.x = some (i.narrowCtx va vb) → s.onlyWord i t → P t) : Runs r s P := by
  refine runs_event hr ha.1 fun q => ?_
  have hq : (s.seen q).issues n i := h
  have hst : i.exec i.w.stitch.guard = true → i.w.stitch.op ≠ 2 := by intro e; rw [hn.1] at e; cases e
  have e : (s.seen q).slotRow n is = (((s.seen q).inc Reg.wordsIssued i.n 1).modCtx i.x
      (fun c => i.goOn (i.writeback i.w.b vb (i.writeback i.w.a va (i.armWide c))))) := by
    rw [State.slotRow_issues hq his, State.issueWord_access (s := s.seen q) hs.1 hq hst (hva q) (hvb q),
      State.issueSlots_narrow hq.2.1 (State.issueOf_some h.1).2.1 (State.issueOf_some h.1).2.2.1 hn.arms hg]
  rw [e]
  refine ⟨ha.2, hP _ ?_ ⟨?_, ?_, ?_, ?_⟩⟩
  · have h1 : ((s.seen q).inc Reg.wordsIssued i.n 1).ctx i.x = some i.c := h.2.1
    rw [State.ctx_pinned, State.ctx_modCtx_same, h1, Option.map_some, Issue.armWide_narrow hn]
    rfl
  · rw [State.mk.injEq]
    simp [ha.2]
  · intro y hy
    rw [State.ctx_pinned, State.ctx_modCtx_ne _ _ hy]
    rfl
  · intro o j hb
    rw [State.rd_pinned]
    exact State.rd_inc_ne _ _ _ _ _ _ (hb (Reg.wordsIssued, i.n) (List.mem_singleton.mpr rfl))
  · rw [State.rd_pinned]
    exact State.rd_inc_same ..

/-- How the row of a slot of a narrow word runs: the context it leaves, and nothing else but the word's count. -/
theorem runs_narrow {r : Instr} {s : State} {n : Nat} {i : Issue} {is : PWord → Bool} {P : State → Prop}
    (hr : exec r s = .next (State.settle (s.event fun s => s.slotRow n is)))
    (ha : s.awake) (hs : s.sound) (h : s.issues n i) (hn : i.narrow) (hg : i.goesOn) (hqa : i.w.a.quiet) (hqb : i.w.b.quiet)
    (his : is i.w = true)
    (hP : ∀ t, t.ctx i.x = some (i.narrowCtx (s.rdsValue i i.w.a) (s.rdsValue i i.w.b)) → s.onlyWord i t → P t) : Runs r s P :=
  runs_access hr ha hs h hn hg his (fun q => State.scalarAccess_quiet (s.seen q) i hqa) (fun q => State.scalarAccess_quiet (s.seen q) i hqb) hP

/-- How the row of a slot of a word that at most arms runs: the context it leaves, and nothing else but the word's count. -/
theorem runs_arms {r : Instr} {s : State} {n : Nat} {i : Issue} {is : PWord → Bool} {P : State → Prop}
    (hr : exec r s = .next (State.settle (s.event fun s => s.slotRow n is)))
    (ha : s.awake) (hs : s.sound) (h : s.issues n i) (hn : i.arms) (hg : i.goesOn) (hqa : i.w.a.quiet) (hqb : i.w.b.quiet)
    (his : is i.w = true)
    (hP : ∀ t, t.ctx i.x = some (i.goOn (i.writeback i.w.b (s.rdsValue i i.w.b) (i.writeback i.w.a (s.rdsValue i i.w.a) (i.armWide i.c)))) →
      s.onlyWord i t → P t) : Runs r s P := by
  refine runs_event hr ha.1 fun q => ?_
  have hq : (s.seen q).issues n i := h
  have hst : i.exec i.w.stitch.guard = true → i.w.stitch.op ≠ 2 := by intro e; rw [hn.2.2.2 e]; decide
  have e : (s.seen q).slotRow n is = (((s.seen q).inc Reg.wordsIssued i.n 1).modCtx i.x
      (fun c => i.goOn (i.writeback i.w.b (s.rdsValue i i.w.b) (i.writeback i.w.a (s.rdsValue i i.w.a) (i.armWide c))))) := by
    rw [State.slotRow_issues hq his, State.issueWord_slots (s := s.seen q) hs.1 hq hst hqa hqb,
      State.issueSlots_narrow hq.2.1 (State.issueOf_some h.1).2.1 (State.issueOf_some h.1).2.2.1 hn hg]
    rfl
  rw [e]
  refine ⟨ha.2, hP _ ?_ ⟨?_, ?_, ?_, ?_⟩⟩
  · have h1 : ((s.seen q).inc Reg.wordsIssued i.n 1).ctx i.x = some i.c := h.2.1
    rw [State.ctx_pinned, State.ctx_modCtx_same, h1, Option.map_some]
  · rw [State.mk.injEq]
    simp [ha.2]
  · intro y hy
    rw [State.ctx_pinned, State.ctx_modCtx_ne _ _ hy]
    rfl
  · intro o j hb
    rw [State.rd_pinned]
    exact State.rd_inc_ne _ _ _ _ _ _ (hb (Reg.wordsIssued, i.n) (List.mem_singleton.mpr rfl))
  · rw [State.rd_pinned]
    exact State.rd_inc_same ..

/-- The sign extension of an immediate, in numbers. -/
theorem sextImm_eq (imm : Nat) (h : imm < 2^32) : BitVec.ofInt 64 (if imm < 2 ^ 31 then (imm : Int) else (imm : Int) - 2 ^ 32) = sextImm imm := by
  unfold sextImm toSigned
  rw [bit_def]
  congr 1
  simp only [decide_eq_true_eq]
  rw [Nat.mod_eq_of_lt h]
  split <;> split <;> omega

/-- What a register operation of a narrow word leaves of its context. -/
theorem Issue.narrowCtx_reg {i : Issue} {slotB : Bool} {va vb : Word64} {rd : Nat} {w : Word64} {sl : ScalarSlot}
    (h : i.scalar slotB = sl) (he : i.exec sl.guard = true) (hrd : sl.rd = rd)
    (ho : ¬ i.writesReg (i.scalar (!slotB)) rd)
    (hv : scalarValue sl.op (i.reg sl.ra) (i.reg sl.rb) sl.imm (if slotB then vb else va) = some w) :
    (i.narrowCtx va vb).greg rd = (if rd = 0 then 0 else w) ∧ i.keepsRest slotB (some rd) none (i.narrowCtx va vb) := by
  subst hrd
  have hw : i.writesReg sl sl.rd := ⟨he, rfl, by rw [← scalarValue_isSome sl.op (i.reg sl.ra) (i.reg sl.rb) sl.imm _, hv]; rfl⟩
  unfold Issue.narrowCtx Issue.keepsRest
  cases slotB <;> simp only [Issue.scalar, Bool.false_eq_true, if_false, if_true, Bool.not_true, Bool.not_false] at h ho hv ⊢ <;> subst h
  · refine ⟨?_, ?_, ?_, ?_⟩
    · rw [Issue.goOn_greg, Issue.writeback_greg_ne _ _ _ _ _ ho, (Issue.writeback_greg _ _ _ _ _ he hv).1]
    · rw [Issue.goOn_rest, Issue.writeback_rest i i.w.b, Issue.writeback_rest i i.w.a]
    · intro r hr hr2
      rw [Issue.goOn_greg, Issue.writeback_greg_ne _ _ _ _ _ hr2, Issue.writeback_greg_ne]
      rintro ⟨-, e, -⟩; exact hr (by rw [e])
    · intro p hp hp2
      rw [Issue.goOn_preds, Issue.writeback_preds_ne _ _ _ _ _ hp2, (Issue.writeback_greg _ _ _ _ _ he hv).2]
  · refine ⟨?_, ?_, ?_, ?_⟩
    · rw [Issue.goOn_greg, (Issue.writeback_greg _ _ _ _ _ he hv).1]
    · rw [Issue.goOn_rest, Issue.writeback_rest i i.w.b, Issue.writeback_rest i i.w.a]
    · intro r hr hr2
      rw [Issue.goOn_greg, Issue.writeback_greg_ne, Issue.writeback_greg_ne _ _ _ _ _ hr2]
      rintro ⟨-, e, -⟩; exact hr (by rw [e])
    · intro p hp hp2
      rw [Issue.goOn_preds, (Issue.writeback_greg _ _ _ _ _ he hv).2, Issue.writeback_preds_ne _ _ _ _ _ hp2]

/-- What a predicate operation of a narrow word leaves of its context. -/
theorem Issue.narrowCtx_pred {i : Issue} {slotB : Bool} {va vb : Word64} {pd : Nat} {b : Bool} {sl : ScalarSlot}
    (h : i.scalar slotB = sl) (he : i.exec sl.guard = true) (hrd : sl.pd = pd)
    (ho : ¬ i.writesPred (i.scalar (!slotB)) pd)
    (hv : scalarValue sl.op (i.reg sl.ra) (i.reg sl.rb) sl.imm (if slotB then vb else va) = none)
    (hp : predValue sl.op (i.reg sl.ra) (i.reg sl.rb) sl.imm i.c.preds sl.ra sl.rb = some b) :
    bit (i.narrowCtx va vb).preds pd = b ∧ i.keepsRest slotB none (some pd) (i.narrowCtx va vb) := by
  subst hrd
  unfold Issue.narrowCtx Issue.keepsRest
  cases slotB <;> simp only [Issue.scalar, Bool.false_eq_true, if_false, if_true, Bool.not_true, Bool.not_false] at h ho hv ⊢ <;> subst h
  · refine ⟨?_, ?_, ?_, ?_⟩
    · rw [Issue.goOn_preds, Issue.writeback_preds_ne _ _ _ _ _ ho, (Issue.writeback_pred _ _ _ _ _ he hv hp).1]
    · rw [Issue.goOn_rest, Issue.writeback_rest i i.w.b, Issue.writeback_rest i i.w.a]
    · intro r hr hr2
      rw [Issue.goOn_greg, Issue.writeback_greg_ne _ _ _ _ _ hr2]
      unfold Ctx.greg; rw [(Issue.writeback_pred _ _ _ _ _ he hv hp).2]
    · intro p hp hp2
      rw [Issue.goOn_preds, Issue.writeback_preds_ne _ _ _ _ _ hp2, Issue.writeback_preds_ne]
      rintro ⟨-, e, -⟩; exact hp (by rw [e])
  · refine ⟨?_, ?_, ?_, ?_⟩
    · rw [Issue.goOn_preds, (Issue.writeback_pred _ _ _ _ _ he hv hp).1]
    · rw [Issue.goOn_rest, Issue.writeback_rest i i.w.b, Issue.writeback_rest i i.w.a]
    · intro r hr hr2
      rw [Issue.goOn_greg]
      rw [← Issue.writeback_greg_ne i i.w.a va i.c r hr2]
      unfold Ctx.greg; rw [(Issue.writeback_pred _ _ _ _ _ he hv hp).2]
    · intro p hp hp2
      rw [Issue.goOn_preds, Issue.writeback_preds_ne, Issue.writeback_preds_ne _ _ _ _ _ hp2]
      rintro ⟨-, e, -⟩; exact hp (by rw [e])

/-! ## Scalar accesses -/

theorem State.checkWord_scalar {s : State} {i : Issue} (h : s.checkWord i = none) : s.checkScalar i i.w.a = none ∧ s.checkScalar i i.w.b = none := by
  unfold State.checkWord at h
  split at h; · cases h
  split at h; · cases h
  simp only [List.findSome?_eq_none_iff, List.mem_cons, List.not_mem_nil, or_false, forall_eq_or_imp, forall_eq, id] at h
  exact ⟨h.1, h.2.1⟩

/-- An effect that no replay suppresses acts; it is counted and folded. -/
theorem State.patternEffect_of {s : State} {i : Issue} {d : Ctx} (hc : s.ctx i.x = some d) (h : d.suppress ≤ d.effectCount) (kind op a v : Nat) :
    ∃ f : Ctx → Ctx, s.patternEffect i kind op a v = (true, s.modCtx i.x f) ∧
      (∀ c, (f c).state = c.state ∧ (f c).cmd = c.cmd ∧ (f c).g = c.g ∧ (f c).preds = c.preds ∧ (f c).heat = c.heat ∧ (f c).seq = c.seq) ∧
      d.folds kind op a v (f d) := by
  refine ⟨fun c => { c with effectCount := (d.effectCount + 1) % 2 ^ 16, effectCrc := crc32cMore d.effectCrc (effectRecord kind op a v)
                            diverged := c.diverged || false }, ?_, fun c => ⟨rfl, rfl, rfl, rfl, rfl, rfl⟩, rfl, rfl⟩
  unfold State.patternEffect
  simp [hc, h, effectRecord]

theorem State.patternEffect_acts {s : State} {i : Issue} (hc : s.ctx i.x = some i.c) (h : i.c.suppress ≤ i.c.effectCount) (kind op a v : Nat) :
    ∃ f : Ctx → Ctx, s.patternEffect i kind op a v = (true, s.modCtx i.x f) ∧
      (∀ c, (f c).state = c.state ∧ (f c).cmd = c.cmd ∧ (f c).g = c.g ∧ (f c).preds = c.preds) ∧ i.c.folds kind op a v (f i.c) := by
  obtain ⟨f, h1, h2, h3⟩ := State.patternEffect_of hc h kind op a v
  exact ⟨f, h1, fun c => ⟨(h2 c).1, (h2 c).2.1, (h2 c).2.2.1, (h2 c).2.2.2.1⟩, h3⟩

theorem State.placeRead_eq {s t : State} (h : t.objs = s.objs) (hb : t.bufs = s.bufs) (hm : t.memStatus = s.memStatus) (h1 : t.mem = s.mem)
    (h2 : t.landing = s.landing) (h3 : t.scratch = s.scratch) : t.placeRead = s.placeRead := by
  funext i pl n; cases pl <;> simp only [State.placeRead, State.xlt_eq h hb, State.memBad_eq hm, State.memRead_eq h1, State.landingRead, h2, h3]

/-- A read that finds its bytes gives them and changes nothing. -/
theorem State.readPlace_ok {s : State} (hs : s.checks = []) {i : Issue} {pl : Place} {n : Nat} {l : List Byte}
    (hl : s.placeRead i pl n = some l) : s.readPlace i pl n = (0, l, s) := by
  cases pl with
  | mem a =>
    simp only [State.placeRead] at hl
    simp only [State.readPlace, State.hostRead]
    split at hl <;> try (split at hl)
    all_goals try (cases hl)
    · rename_i p hx hm
      simp only [hx, State.readLoc, hm]
    · rename_i p hx
      simp only [hx, State.readLoc, State.storeRead_clean s _ _ _ _ hs]
      rfl
  | scratch off =>
    simp only [State.placeRead, Option.some.injEq] at hl; subst hl
    simp only [State.readPlace, State.storeRead_clean s _ _ _ _ hs]
    rfl
  | payload off =>
    simp only [State.placeRead] at hl
    split at hl <;> cases hl
    rename_i hle
    simp only [State.readPlace]
    have : ((i.k.payload.drop off).take n).length = n := by simp; omega
    rw [this]
    simp [State.drawBytes]
  | result off =>
    simp only [State.placeRead, Option.some.injEq] at hl; subst hl; rfl

/-- An 8-byte store to a place that takes it. -/
theorem State.writePlace_ok {s : State} (hs : s.sound) {i : Issue} {pl : Place} {l : List Byte} (h8 : l.length = 8) (hk : s.cmd i.uid = some i.k)
    (hal : ∀ off, pl = .result off → off % 8 = 0) (hw : s.stores8 i pl) :
    ∃ u, s.writePlace i pl l = (0, u) ∧ s.stored8 i pl l u ∧
      u = { s with mem := u.mem, landing := u.landing, scratch := u.scratch, cmds := u.cmds } := by
  cases pl with
  | mem a =>
    simp only [State.stores8, ← h8] at hw
    obtain ⟨u, h1, h2, h3⟩ := State.hostWrite_ok hs hw
    refine ⟨u, h1, ⟨h2, ?_, ?_⟩, ?_⟩
    · rw [h3]
    · rw [h3]
    · rw [h3]
  | scratch off =>
    refine ⟨{ s with scratch := l.zipIdx.foldl (fun t (p : Byte × Nat) => Tab.put t (i.n * 2 ^ 20 + off + p.2) p.1) s.scratch }, ?_, ⟨?_, rfl, rfl, rfl⟩, rfl⟩
    · simp only [State.writePlace]
      exact congrArg (Prod.mk 0) (State.storeWrite_clean _ _ _ _ ⟨hs.1, hs.2⟩)
    · intro b; have := get_putAll l s.scratch (i.n * 2 ^ 20 + off) 0 b; rw [Nat.add_zero] at this; exact this
  | payload off => exact hw.elim
  | result off =>
    simp only [State.stores8, ← h8] at hw
    obtain ⟨u, h1, h2, h3⟩ := State.hostWrite_ok hs hw
    have hr := State.writeResult_ok (s := s) (k := i.k) (off := off) h8 (hal off rfl)
    rw [h1] at hr
    refine ⟨u.modCmd i.uid fun k => { k with result := l.zipIdx.foldl (fun t (p : Byte × Nat) => Tab.put t (off + p.2) p.1) k.result }, ?_, ⟨?_, ?_, ?_, ?_⟩, ?_⟩
    · simp only [State.writePlace, hr]; simp [worse]
    · unfold State.storesAt at *; exact h2
    · rw [State.modCmd_scratch, h3]
    · refine ⟨{ i.k with result := l.zipIdx.foldl (fun t (p : Byte × Nat) => Tab.put t (off + p.2) p.1) i.k.result }, ?_, rfl, ?_⟩
      · have : u.cmd i.uid = some i.k := by rw [h3]; exact hk
        rw [State.cmd_modCmd_same, this]; rfl
      · intro b; have := get_putAll l i.k.result off 0 b; rw [Nat.add_zero] at this; exact this
    · intro v hv
      have : u.cmd v = s.cmd v := by rw [h3]; rfl
      rw [← this]; simp [State.cmd, Tab.find_modify_ne _ _ (Ne.symm hv)]
    · rw [h3]; rfl

theorem State.issues_stm_aligned {s : State} {n : Nat} {i : Issue} {g ra rb imm : Nat} (h : s.issues n i) (he : i.exec g = true)
    (hsl : i.w.a = ⟨g, 0x39, 0, ra, rb, 0, 0, imm⟩) : i.memAddr ⟨g, 0x39, 0, ra, rb, 0, 0, imm⟩ % 8 = 0 := by
  have := (State.checkWord_scalar h.2.2).1
  unfold State.checkScalar at this
  rw [hsl] at this
  generalize i.memAddr ⟨g, 0x39, 0, ra, rb, 0, 0, imm⟩ = A at *
  apply Decidable.byContradiction
  intro e
  simp only [he, Bool.not_true, Bool.false_eq_true, if_false] at this
  rw [if_neg (by decide), if_pos (Or.inr trivial), if_pos e] at this
  cases this

theorem Issue.place_result {i : Issue} {w : Bool} {A n off : Nat} (h : i.place w A n = some (.result off)) : bits A 61 0 = off := by
  unfold Issue.place placeOf at h
  dsimp only at h
  split at h
  · cases h
  · split at h <;> cases h
  · split at h <;> cases h
  · split at h
    · injection h with e; injection e
    · cases h

theorem Issue.goOn_effect (i : Issue) (c : Ctx) : (i.goOn c).effectCount = c.effectCount ∧ (i.goOn c).effectCrc = c.effectCrc := by
  rw [Issue.goOn_rest]; exact ⟨rfl, rfl⟩
theorem Issue.writeback_effect (i : Issue) (sl : ScalarSlot) (v : Word64) (c : Ctx) :
    (i.writeback sl v c).effectCount = c.effectCount ∧ (i.writeback sl v c).effectCrc = c.effectCrc := by
  rw [Issue.writeback_rest]; exact ⟨rfl, rfl⟩

/-! ## Exceptions (R384) -/

/-- The record that an exception leaves in its sequencer's exception state. -/
def State.excRecord (s : State) (i : Issue) (code : Nat) : ExcRec :=
  { stopped := true, tick := s.tick, ctx := i.x, code := code, pc := i.c.pc
    word := match i.p.words[i.c.pc]? with | some w => w.toNat | none => 0 }

/-- An exception stops the context at its word and records it; beyond that only the fault report is recorded. -/
theorem State.patternException_spec {s : State} {i : Issue} (code : Nat) (hx : s.ctx i.x = some i.c) (hsl : s.slotOpen 1) :
    ∃ u : State, u.recorded (s.patternException i code) ∧ u = { s with excs := Tab.put s.excs i.n (s.excRecord i code), ctxs := u.ctxs, objs := u.objs } ∧
      u.ctx i.x = some { i.c with state := 6, watchdog := false } ∧ ∀ y, y ≠ i.x → u.ctx y = s.ctx y := by
  unfold State.patternException
  dsimp only
  refine ⟨_, State.raise_recorded _ _ ?_ ?_, rfl, ?_, ?_⟩
  · refine State.slotOpen.mono (s := s) (u := 0x0107 / 256) ?_ rfl; exact hsl
  · intro row hrow
    have h1 : sourceRow 0x0107 = some (contained 2) := by decide
    rw [h1] at hrow
    obtain rfl := Option.some.inj hrow
    simp [contained, Ev.reaction]
  · have h1 : Tab.find s.ctxs i.x = some i.c := hx
    simp only [State.ctx, State.inc_ctxs, State.modCtx_ctxs, Tab.find_modify_same, h1, Option.map_some]
  · intro y hy
    simp only [State.ctx, State.inc_ctxs, State.modCtx_ctxs, Tab.find_modify_ne _ _ (Ne.symm hy)]

/-! ## Rest points and the end (R371, R372) -/

/-- A context at its rest point or end: it leaves its sequencer unless its command still holds it. -/
theorem State.leaveIfFree_spec {s : State} {x : Nat} {c : Ctx} (hc : s.ctx x = some c) (h4 : c.state = 4) (hr : c.hold = 1 → c.rest ≠ none) :
    ∃ d, (s.leaveIfFree x).ctx x = some d ∧ d.state = (if s.held c then 4 else 5) ∧ d.rest = c.rest ∧ d.pc = c.pc ∧ d.cmd = c.cmd ∧
      s.leaveIfFree x = { s with ctxs := (s.leaveIfFree x).ctxs, objs := (s.leaveIfFree x).objs } ∧
      s.keepsContexts (s.leaveIfFree x) x ∧ s.keepsObjects (s.leaveIfFree x) [(Reg.restsBlocked, c.seq)] := by
  unfold State.leaveIfFree
  simp only [hc, h4, ne_eq, not_true_eq_false, false_or]
  by_cases hh : s.held c = true
  · rw [if_pos hh, if_pos hh]
    exact ⟨c, hc, h4, rfl, rfl, rfl, by simp, fun y hy => rfl, fun o i hb => rfl⟩
  · rw [if_neg hh, if_neg hh]
    have h1 : ¬ (c.hold = 1 ∧ c.rest.isNone = true) := by
      rintro ⟨h, h'⟩; exact hr h (by simpa using h')
    simp only [h1, if_false]
    by_cases hh1 : c.hold = 1
    · simp only [hh1, if_true]
      refine ⟨{ c with state := 5, restTick := s.tick, hold := 0, take := false }, ?_, rfl, rfl, rfl, rfl, rfl, ?_, ?_⟩
      · rw [State.ctx_modCtx_same]
        have : (s.inc Reg.restsBlocked c.seq 1).ctx x = some c := hc
        rw [this]; rfl
      · intro y hy; exact State.ctx_modCtx_ne _ _ hy
      · intro o i hb
        exact (State.rd_congr (s := s.inc Reg.restsBlocked c.seq 1) rfl o i).trans
          (State.rd_inc_ne s Reg.restsBlocked o c.seq i 1 (hb (Reg.restsBlocked, c.seq) (List.mem_singleton.mpr rfl)))
    · simp only [hh1, if_false]
      refine ⟨{ c with state := 5, restTick := s.tick, hold := 0, take := false }, ?_, rfl, rfl, rfl, rfl, rfl, ?_, ?_⟩
      · rw [State.ctx_modCtx_same, hc]; rfl
      · intro y hy; exact State.ctx_modCtx_ne _ _ hy
      · intro o i hb; rfl

theorem State.restNow_met {s : State} {x : Nat} {c : Ctx} (r : RestWait) (hc : s.ctx x = some c) (htk : c.take = false)
    (hf : s.tallyFlip = []) (hb : s.tallyBad = []) (hm : s.restMet r = true) :
    s.restNow x r = (s.clearScratch c.seq).modCtx x fun c => { c with state := 3, hold := 0, rest := none, runTick := s.tick, watchOn := true } := by
  have hck : ∀ (u : State) t, u.tallyFlip = [] → u.tallyCheck t = u := by
    intro u t h; unfold State.tallyCheck; simp [h]
  unfold State.restNow
  have hf' : (s.clearScratch c.seq).tallyFlip = [] := hf
  have hbad : (s.clearScratch c.seq).restBad r = false := by
    have : (s.clearScratch c.seq).tallyBad = [] := hb
    simp [State.restBad, this]
  have hmet : (s.clearScratch c.seq).restMet r = true := hm
  simp only [hc, hck _ _ hf', ite_self, hbad, hmet, htk, Bool.false_eq_true, if_false, if_true]
  rfl

theorem State.restNow_unmet {s : State} {x : Nat} {c : Ctx} (r : RestWait) (hc : s.ctx x = some c)
    (hf : s.tallyFlip = []) (hb : s.tallyBad = []) (hm : s.restMet r = false) :
    s.restNow x r = ((((s.clearScratch c.seq).modCtx x fun c => { c with state := 4, hold := 1, rest := some r, watchOn := false }).makeRest x r).leaveIfFree x) := by
  have hck : ∀ (u : State) t, u.tallyFlip = [] → u.tallyCheck t = u := by
    intro u t h; unfold State.tallyCheck; simp [h]
  unfold State.restNow
  have hf' : (s.clearScratch c.seq).tallyFlip = [] := hf
  have hbad : (s.clearScratch c.seq).restBad r = false := by
    have : (s.clearScratch c.seq).tallyBad = [] := hb
    simp [State.restBad, this]
  have hmet : (s.clearScratch c.seq).restMet r = false := hm
  simp only [hc, hck _ _ hf', ite_self, hbad, hmet, Bool.false_eq_true, if_false]

theorem State.makeWait_table (s : State) (w : TWait) (h : s.watchTable.length < 4096) : s.makeWait w = { s with watchTable := s.watchTable ++ [w] } := by
  simp [State.makeWait, h]

theorem State.makeRest_spec (s : State) (x : Nat) (r : RestWait) (h : s.watchTable.length + 2 ≤ 4096) :
    ∃ l, s.makeRest x r = { s with watchTable := s.watchTable ++ l } ∧
      (r.combine ≠ 0 → s.tallyMeets r.tallyA r.threshA = false → ⟨r.tallyA, r.threshA, .context x 0, false⟩ ∈ l) := by
  unfold State.makeRest
  dsimp only
  by_cases hA : r.combine ≠ 0 ∧ s.tallyMeets r.tallyA r.threshA = false
  · have hA' : r.combine ≠ 0 ∧ (!s.tallyMeets r.tallyA r.threshA) = true := ⟨hA.1, by rw [hA.2]; rfl⟩
    rw [if_pos hA', State.makeWait_table s _ (by omega)]
    split
    · rw [State.makeWait_table _ _ (by simp; omega)]
      exact ⟨[⟨r.tallyA, r.threshA, .context x 0, false⟩, ⟨r.tallyB, r.threshB, .context x 1, false⟩], by simp, fun _ _ => by simp⟩
    · exact ⟨[⟨r.tallyA, r.threshA, .context x 0, false⟩], rfl, fun _ _ => by simp⟩
  · have hA' : ¬ (r.combine ≠ 0 ∧ (!s.tallyMeets r.tallyA r.threshA) = true) := by
      rintro ⟨a, b⟩; exact hA ⟨a, by simpa using b⟩
    rw [if_neg hA']
    split
    · rw [State.makeWait_table _ _ (by omega)]
      exact ⟨_, rfl, fun a b => absurd ⟨a, b⟩ hA⟩
    · exact ⟨[], by simp, fun a b => absurd ⟨a, b⟩ hA⟩

end Sys2Proof.Machine
end

