-- ==== Sys2Proof/Laws/Mould.lean ====
section
/-! SUPPORT. What MLD's taking of a COPY depends on and leaves (R379, R405, R408). -/

set_option Elab.async false

namespace Sys2Proof.Machine

variable {s t : State}

theorem State.sideLoc_eq (h : t.objs = s.objs) (hb : t.bufs = s.bufs) : t.sideLoc = s.sideLoc := by
  funext w sp b; simp only [State.sideLoc, State.xlt_eq h hb]

theorem State.checkDesc_eq (h : t.objs = s.objs) (hb : t.bufs = s.bufs) (hv : t.variant = s.variant) : t.checkDesc = s.checkDesc := by
  funext w ds k d; simp only [State.checkDesc, State.sideLoc_eq h hb, State.rd_eq h, State.rb_eq h, hv]

theorem State.checkCopyDescs_eq (h : t.objs = s.objs) (hb : t.bufs = s.bufs) (hv : t.variant = s.variant) :
    t.checkCopyDescs = s.checkCopyDescs := by
  funext w ds; simp only [State.checkCopyDescs, State.checkDesc_eq h hb hv]

/-- Starting the COPYs that may start changes the phases of COPYs and who has the engine's buffer, nothing else. -/
theorem State.startCopies_spec (s : State) :
    s.startCopies = { s with copies := s.startCopies.copies, mouldUser := s.startCopies.mouldUser } ∧
      ∀ id c, Tab.find s.copies id = some c → ∃ p, Tab.find s.startCopies.copies id = some { c with phase := p } := by
  unfold State.startCopies
  generalize hgo : (fun (s : State) (id : Nat) =>
    match Tab.find s.copies id with
    | none => s
    | some c =>
      if c.phase = 0 ∧ (!c.killed) = true ∧ s.copyMayStart id c = true then
        { s with copies := Tab.put s.copies id { c with phase := c.firstPhase }, mouldUser := if c.stagedAny then some id else s.mouldUser }
      else s) = go
  have step : ∀ (s : State) (x : Nat), go s x = { s with copies := (go s x).copies, mouldUser := (go s x).mouldUser } ∧
      ∀ id c, Tab.find s.copies id = some c → ∃ p, Tab.find (go s x).copies id = some { c with phase := p } := by
    intro s x
    rw [← hgo]
    dsimp only
    split
    · exact ⟨rfl, fun id c h => ⟨c.phase, h⟩⟩
    · rename_i c hc
      split
      · refine ⟨rfl, fun id c' h => ?_⟩
        by_cases e : x = id
        · subst e; rw [hc] at h; cases h
          exact ⟨c.firstPhase, Tab.find_put_same ..⟩
        · exact ⟨c'.phase, by show Tab.find (Tab.put s.copies x _) id = _; rw [Tab.find_put_ne _ _ e]; exact h⟩
      · exact ⟨rfl, fun id c' h => ⟨c'.phase, h⟩⟩
  have key : ∀ (l : List Nat) (s : State), l.foldl go s = { s with copies := (l.foldl go s).copies, mouldUser := (l.foldl go s).mouldUser } ∧
      ∀ id c, Tab.find s.copies id = some c → ∃ p, Tab.find (l.foldl go s).copies id = some { c with phase := p } := by
    intro l
    induction l with
    | nil => intro s; exact ⟨rfl, fun id c h => ⟨c.phase, h⟩⟩
    | cons x l ih =>
      intro s
      obtain ⟨h1, h2⟩ := ih (go s x)
      obtain ⟨g1, g2⟩ := step s x
      rw [List.foldl_cons]
      refine ⟨by rw [h1, g1], fun id c h => ?_⟩
      obtain ⟨p, hp⟩ := g2 id c h
      obtain ⟨p', hp'⟩ := h2 id _ hp
      exact ⟨p', hp'⟩
  exact key _ s

/-- A COPY given to MLD: its record stands under the next number, in the phase that MLD may have begun. -/
theorem State.addCopy_spec (s : State) (w : CopyFrom) (runs : List MRun) (done : Option Nat) :
    (∃ p, Tab.find (s.addCopy w runs done).copies s.nextCopy = some { uid := w.uid, slotCtx := w.slot.map (·.1), host := w.host, ring := w.ring
                                                                      runs := runs, phase := p, doneTally := done, heat := w.heat }) ∧
      s.addCopy w runs done = { s with copies := (s.addCopy w runs done).copies, mouldUser := (s.addCopy w runs done).mouldUser
                                       nextCopy := s.nextCopy + 1 } := by
  unfold State.addCopy
  dsimp only
  generalize hu : ({ s with copies := Tab.put s.copies s.nextCopy _, nextCopy := s.nextCopy + 1 } : State) = u
  obtain ⟨h1, h2⟩ := State.startCopies_spec u
  refine ⟨?_, ?_⟩
  · obtain ⟨p, hp⟩ := h2 s.nextCopy _ (by rw [← hu]; exact Tab.find_put_same ..)
    exact ⟨p, hp⟩
  · rw [h1, ← hu]

end Sys2Proof.Machine
end

