-- ==== Sys2Proof/Laws/Tally.lean ====
section
/-! SUPPORT. What an update of a tally leaves: its own value, every other tally, one counter, the waits hit (R320, R325, R327). -/

set_option Elab.async false

namespace Sys2Proof.Machine

/-- What an update of a tally may change. -/
def State.tallied (s t : State) : Prop :=
  t = { s with tallies := t.tallies, objs := t.objs, watchTable := t.watchTable, tallyBad := t.tallyBad, tallyFlip := t.tallyFlip } ∧
    s.keepsObjects t [(Reg.tallyUpdates, 0)]

theorem State.tallyStore_spec {s : State} (hi : s.inject = none) (t v : Nat) :
    (s.tallyStore t v).tally t = v % 2 ^ 48 ∧ (∀ u, u ≠ t → (s.tallyStore t v).tally u = s.tally u) ∧ s.tallied (s.tallyStore t v) := by
  unfold State.tallyStore State.tallyInject
  have h : (({ s with tallies := Tab.set 0 s.tallies t (v % 2 ^ 48) } : State).inc Reg.tallyUpdates 0 1).inject = none := hi
  simp only [h]
  refine ⟨?_, fun u hu => ?_, rfl, fun o i hb => ?_⟩
  · show Tab.get 0 (Tab.set 0 s.tallies t (v % 2 ^ 48)) t = _
    simp
  · show Tab.get 0 (Tab.set 0 s.tallies t (v % 2 ^ 48)) u = _
    rw [Tab.get_set_ne _ _ _ _ (Ne.symm hu)]; rfl
  · exact State.rd_inc_ne ({ s with tallies := Tab.set 0 s.tallies t (v % 2 ^ 48) } : State) Reg.tallyUpdates o 0 i 1
      (hb (Reg.tallyUpdates, 0) (List.mem_singleton.mpr rfl))

/-- An add to a tally of good parity, not poisoned. -/
theorem State.tallyAdd_spec {s : State} (hi : s.inject = none) (hf : s.fatal = false) {t : Nat} (h1 : s.tallyFlip.contains t = false)
    (h2 : s.tallyBad.contains t = false) (n : Nat) :
    (s.tallyAdd t n).tally t = (s.tally t + n) % 2 ^ 48 ∧ (∀ u, u ≠ t → (s.tallyAdd t n).tally u = s.tally u) ∧ s.tallied (s.tallyAdd t n) := by
  have e : s.tallyAdd t n = s.tallyStore t (s.tally t + n) := by
    have hc : s.tallyCheck t = s := by unfold State.tallyCheck; rw [h1]; rfl
    unfold State.tallyAdd
    rw [if_neg (by simp [hf])]
    simp only [hc, h2, Bool.false_eq_true, if_false]
  rw [e]; exact State.tallyStore_spec hi t _

/-- A set of a tally. -/
theorem State.tallySet_spec {s : State} (hi : s.inject = none) (hf : s.fatal = false) (t v : Nat) :
    (s.tallySet t v).tally t = v % 2 ^ 48 ∧ (∀ u, u ≠ t → (s.tallySet t v).tally u = s.tally u) ∧ s.tallied (s.tallySet t v) := by
  unfold State.tallySet
  rw [if_neg (by simp [hf])]
  obtain ⟨a, b, c, d⟩ := State.tallyStore_spec (s := { s with tallyBad := s.tallyBad.filter (· != t), tallyFlip := s.tallyFlip.filter (· != t) }) hi t v
  generalize State.tallyStore _ t v = u at *
  refine ⟨a, b, by rw [c], d⟩

end Sys2Proof.Machine
end

