-- ==== Sys2Proof/Tests/Slice0.lean ====
section
/-! SUPPORT. Tests: operands that fit and operands that do not, words written out from the spec's layouts, and states that meet the hypotheses of the statements. -/

set_option Elab.async false

set_option linter.unusedVariables false

namespace Sys2Proof.Tests

open Sys2Proof Sys2Proof.Machine

/-! ## Operands that fit, and one ill-formed term for each check -/

def goodAccess : PageAccess := ⟨2 ^ 24 - 1, 31, 32, some (2 ^ 32 - 1)⟩
def badAccess : PageAccess := ⟨2 ^ 24, 16, 32, none⟩
def goodRx : Rx := { port := 47, pcp := 7 }
def badRx : Rx := { port := 48 }
def goodFrame : RFrame := { cls := 7, src := 2 ^ 20 - 1, dst := 2 ^ 20 - 1, length := 1, payload := [0] }
def badFrame : RFrame := { cls := 8, src := 0, dst := 0 }
def goodDest : AapDest := .udp 0 0 0 0

theorem test_pageAccess_refuses : ([⟨2 ^ 24, 16, 32, none⟩, ⟨0, 32, 32, none⟩, ⟨0, 16, 16, none⟩, ⟨0, 16, 32, some (2 ^ 32)⟩,
    ⟨0, 16, 64, some (2 ^ 64)⟩] : List PageAccess).all (fun a => !a.fits) = true := by decide +kernel

theorem test_rx_refuses : ([{ port := 48 }, { port := 0, pcp := 8 }] : List Rx).all (fun r => !r.fits) = true := by decide +kernel

theorem test_frame_refuses : ([{ goodFrame with version := 8 }, { goodFrame with cls := 8 }, { goodFrame with epoch := 2 },
    { goodFrame with src := 2 ^ 20 }, { goodFrame with dst := 2 ^ 20 }, { goodFrame with ctx := 2 ^ 16 }, { goodFrame with heat := 2 ^ 16 },
    { goodFrame with seq := 2 ^ 32 }, { goodFrame with window := 2 ^ 16 }, { goodFrame with offset := 2 ^ 48 }, { goodFrame with length := 2 },
    { goodFrame with op := 2 ^ 16 }, { goodFrame with aux := 2 ^ 30 }, { goodFrame with headerCrc := 2 ^ 32 },
    { goodFrame with trailer := 2 ^ 32 }] : List RFrame).all (fun f => !f.fits) = true := by decide +kernel

theorem test_wellFormed_takes_1 : ([
  .run 0 0 [],
  .dispatch 0 0 [],
  .copy 0 0 [],
  .fence 0 0 [],
  .cancel 0 0 [],
  .tallyRead 0 0 [],
  .tallySet 0 0 [],
  .tallyAdd 0 0 [],
  .tallyWait 0 0 [],
  .allreduce 0 0 [],
  .reduce 0 0 [],
  .allgather 0 0 [],
  .broadcast 0 0 [],
  .biasSet 0 0 [],
  .dict 0 0 [],
  .park 0 0 [],
  .rld 0 0 [],
  .rst 0 0 [],
  .load 0 0 [],
  .fetchAdd 0 0 [],
  .fetchAnd 0 0 [],
  .fetchOr 0 0 [],
  .fetchXor 0 0 [],
  .swap 0 0 [],
  .compareSwap 0 0 [],
  .fetchMaxU 0 0 [],
  .fetchMinU 0 0 [],
  .probe 0 0 [],
  .commandFetch 0,
  .completionPost 0,
  .add 0 false 1 0 0 0,
  .sub 0 false 1 0 0 0,
  .and 0 false 1 0 0 0,
  .or 0 false 1 0 0 0,
  .xor 0 false 1 0 0 0,
  .shl 0 false 1 0 0 0,
  .shr 0 false 1 0 0 0,
  .sar 0 false 1 0 0 0,
  .mul 0 false 1 0 0 0,
  .minu 0 false 1 0 0 0,
  .maxu 0 false 1 0 0 0,
  .addi 0 false 1 0 0 0,
  .andi 0 false 1 0 0 0,
  .ori 0 false 1 0 0 0,
  .shli 0 false 1 0 0 0] : List Instr).all wellFormed = true := by decide +kernel

theorem test_wellFormed_takes_2 : ([
  .shri 0 false 1 0 0 0,
  .li 0 false 1 0 0,
  .lih 0 false 1 0 0 0,
  .bfx 0 false 1 0 0 0,
  .ceq 0 false 1 0 0 0,
  .cne 0 false 1 0 0 0,
  .cltu 0 false 1 0 0 0,
  .clts 0 false 1 0 0 0,
  .ceqi 0 false 1 0 0 0,
  .cltui 0 false 1 0 0 0,
  .pand 0 false 1 0 0 0,
  .por 0 false 1 0 0 0,
  .pnot 0 false 1 0 0,
  .rds 0 false 1 0 0,
  .ldt 0 false 1 0 0,
  .ldm 0 false 1 0 0 0,
  .stm 0 false 1 0 0 0,
  .nop 0 1,
  .br 0 1 0,
  .call 0 1 0,
  .ret 0 1,
  .wait 0 1 0 0 0 0 0,
  .endPattern 0 1,
  .trap 0 1 0,
  .score 0 1 0 0,
  .selectArm 0 1,
  .armLevel 0 1 0,
  .pourArm 0 1 0 0,
  .stitchOpen 0 1 0,
  .stitchShared 0 1 0,
  .tallySlotAdd 0 1 0 0,
  .tallySlotSet 0 1 0 0,
  .tallySlotAddi 0 1 0 0,
  .copyIssue 0 1 0 0 0 0,
  .read goodDest [],
  .write goodDest [],
  .describe goodDest [],
  .next goodDest [],
  .subscribe goodDest [],
  .unsubscribe goodDest [],
  .setEndpointId 0 0 0 0,
  .getEndpointId 0 0 0,
  .getMctpVersionSupport 0 0 0,
  .getMessageTypeSupport 0 0 0,
  .submitTail goodAccess] : List Instr).all wellFormed = true := by decide +kernel

theorem test_wellFormed_takes_3 : ([
  .completionHead goodAccess,
  .pop goodAccess,
  .mark goodAccess,
  .rewind goodAccess,
  .release goodAccess,
  .tallyPageAdd goodAccess,
  .watch goodAccess,
  .alloc goodAccess,
  .free goodAccess,
  .ringEnable 0 0,
  .ringDisable 0 0,
  .planLoadGo 0 0 0,
  .planImageReadDone 0,
  .keyLoadDone 0,
  .planUnload 0 0 0,
  .planFree 0,
  .patternLoadGo 0 0 0,
  .patternLoadDone 0,
  .patternUnload 0 0 0,
  .patternFree 0,
  .tableLoadGo 0 0,
  .tableLoadDone 0,
  .activeVersion 0 0,
  .versionFree 0 0,
  .peerJoin 0,
  .peerLeave 0,
  .peerDeclareDead 0,
  .portEnable 0 0,
  .portDisable 0 0,
  .surveyGo 0,
  .surveyWaitExpiry,
  .linkEventClear 0,
  .watchSession 0 0 0,
  .maskApplyStep 0 0 0,
  .groupEnable 0 0,
  .groupListReadDone 0,
  .balanceEnable 0 0,
  .rejoin 0 0,
  .snapshotGo 0,
  .excResume 0 0,
  .excSkip 0 0,
  .excKill 0 0,
  .hostEnable 0 0 0,
  .contextDefine 0 0,
  .contextUndefine 0 0] : List Instr).all wellFormed = true := by decide +kernel

theorem test_wellFormed_takes_4 : ([
  .contextReset 0 0,
  .accountingClear 0 0,
  .hostAccountingClear 0 0,
  .winEnable 0 0,
  .winDisable 0 0,
  .ownerFlush 0 0,
  .checkGo 0 0,
  .checkRunEnd 0,
  .faultClear 0 0 0,
  .firstErrorRearm 0 0,
  .historyDrain 0 0,
  .faultAck 0 0 0,
  .hostFaultAck 0 0 0,
  .fatalStopNow 0,
  .promoteCount 0 false 0 0,
  .injectGo 0,
  .keySlot 0 false 0 0,
  .keyRevoke 0 0 0,
  .peerWakeTolerance 0 0,
  .wakeNow 0,
  .engineRun 0,
  .unitHalt 0 0,
  .unitHalted 0,
  .dictionaryWrite 0 0 0 0 0 0,
  .coldReset false,
  .bootReady,
  .warmReset,
  .portReset 0 false,
  .mainGoodFall,
  .mainGoodRise,
  .krdWake,
  .feedSwitchOver false,
  .feedReturn,
  .keeperFeedLoss,
  .linkUp 0,
  .linkDown 0,
  .fecDegrade 0 0 0,
  .dispatchCopyFrame goodRx goodFrame,
  .pourCloseFrame goodRx goodFrame,
  .returnAnswerFrame goodRx goodFrame,
  .remoteStoreFrame goodRx goodFrame,
  .atomicFrame goodRx goodFrame,
  .replyFrame goodRx goodFrame,
  .ackFrame goodRx goodFrame,
  .hopCreditFrame goodRx goodFrame] : List Instr).all wellFormed = true := by decide +kernel

theorem test_wellFormed_takes_5 : ([
  .collSegment goodRx goodFrame,
  .collReport goodRx goodFrame,
  .collCommit goodRx goodFrame,
  .collAbort goodRx goodFrame,
  .collLaunch 0,
  .join goodRx goodFrame,
  .joinAck goodRx goodFrame,
  .leave goodRx goodFrame,
  .leaveAck goodRx goodFrame,
  .sleep goodRx goodFrame,
  .sleepAck goodRx goodFrame,
  .awake goodRx goodFrame,
  .awakeAck goodRx goodFrame,
  .awakeRefused goodRx goodFrame,
  .aapRelay goodRx goodFrame,
  .surveyProbe goodRx goodFrame,
  .surveyReply goodRx goodFrame,
  .icmpv6TimeExceeded 0 0 0 0,
  .transitFrame goodRx goodFrame,
  .pfcFrame goodRx 0 [],
  .pauseFrame goodRx,
  .pfcPauseExpiry 0 0,
  .frameStart 0,
  .ackSend 0,
  .ackHoldExpiry 0 0 0,
  .retransmitTimeout 0 0 0,
  .settleLimitExpiry 0 0 0,
  .atomicRetryTimeout 0 0,
  .creditRelease 0,
  .replyCacheExpiry,
  .frameLifeExpiry 0,
  .incarnationQuietEnd,
  .peerSleepHoldExpiry 0,
  .rowSettle 0 0,
  .scoreEnd 0 0,
  .blockOpen 0,
  .deliveryGroupSort 0,
  .packetBuild 0 0 0,
  .pourCloseSend 0 0,
  .returnPacketBuild 0 0,
  .groupTableWrite 0 0,
  .groupTableWritten 0,
  .forcedClose 0 0,
  .flaskRelease 0 0,
  .sharedPostReadDone 0] : List Instr).all wellFormed = true := by decide +kernel

theorem test_wellFormed_takes_6 : ([
  .combine 0 0,
  .rowWriteVisible 0 0,
  .stitchWaitExpiry 0 0,
  .dispatchReady 0,
  .tallyWaitRelease 0,
  .tallyPoll,
  .contextSchedule 0,
  .contextSwap,
  .restWatchdog 0,
  .starveAging 0,
  .biasLate 0,
  .collWatchdog 0,
  .mouldPhaseDone 0,
  .groupStallExpiry 0,
  .allocStallExpiry 0 0,
  .escalationExpiry 0 0,
  .fatalStop,
  .summaryWindowEnd,
  .idleEntry,
  .dozeEntry,
  .restEntry,
  .dormantEntry,
  .wakeAtTick,
  .wakeTrigger,
  .dormantExit,
  .doorbellLatch goodAccess,
  .burnishRead 0 0,
  .keeperBurnish 0,
  .burnishSlice [],
  .calibration false,
  .stressRotation,
  .telemetryRecord,
  .subscriptionNotification 0,
  .changeScan,
  .subLeaseExpiry 0,
  .keeperPowerUp false,
  .coldResetRelease 0 0 0,
  .keeperStoreZeroed,
  .lossOfSignal 0 0 0,
  .laneLock 0,
  .portResetEnd 0,
  .frameDrop goodRx 0,
  .peerDirectoryFetch 0,
  .coreClockThrottle 0] : List Instr).all wellFormed = true := by decide +kernel

theorem test_wellFormed_refuses_1 : ([
  .run (1024) 0 [],
  .dispatch (1024) 0 [],
  .copy (1024) 0 [],
  .fence (1024) 0 [],
  .cancel (1024) 0 [],
  .tallyRead (1024) 0 [],
  .tallySet (1024) 0 [],
  .tallyAdd (1024) 0 [],
  .tallyWait (1024) 0 [],
  .allreduce (1024) 0 [],
  .reduce (1024) 0 [],
  .allgather (1024) 0 [],
  .broadcast (1024) 0 [],
  .biasSet (1024) 0 [],
  .dict (1024) 0 [],
  .park (1024) 0 [],
  .rld (1024) 0 [],
  .rst (1024) 0 [],
  .load (1024) 0 [],
  .fetchAdd (1024) 0 [],
  .fetchAnd (1024) 0 [],
  .fetchOr (1024) 0 [],
  .fetchXor (1024) 0 [],
  .swap (1024) 0 [],
  .compareSwap (1024) 0 [],
  .fetchMaxU (1024) 0 [],
  .fetchMinU (1024) 0 [],
  .probe (1024) 0 [],
  .commandFetch (1024),
  .completionPost (1024),
  .add (4) false 1 0 0 0,
  .add 0 false 2 0 0 0,
  .add 0 false 1 (32) 0 0,
  .add 0 false 1 0 (32) 0,
  .add 0 false 1 0 0 (32),
  .sub (4) false 1 0 0 0,
  .sub 0 false 2 0 0 0,
  .sub 0 false 1 (32) 0 0,
  .sub 0 false 1 0 (32) 0,
  .sub 0 false 1 0 0 (32),
  .and (4) false 1 0 0 0,
  .and 0 false 2 0 0 0,
  .and 0 false 1 (32) 0 0,
  .and 0 false 1 0 (32) 0,
  .and 0 false 1 0 0 (32)] : List Instr).all (fun i => !wellFormed i) = true := by decide +kernel

theorem test_wellFormed_refuses_2 : ([
  .or (4) false 1 0 0 0,
  .or 0 false 2 0 0 0,
  .or 0 false 1 (32) 0 0,
  .or 0 false 1 0 (32) 0,
  .or 0 false 1 0 0 (32),
  .xor (4) false 1 0 0 0,
  .xor 0 false 2 0 0 0,
  .xor 0 false 1 (32) 0 0,
  .xor 0 false 1 0 (32) 0,
  .xor 0 false 1 0 0 (32),
  .shl (4) false 1 0 0 0,
  .shl 0 false 2 0 0 0,
  .shl 0 false 1 (32) 0 0,
  .shl 0 false 1 0 (32) 0,
  .shl 0 false 1 0 0 (32),
  .shr (4) false 1 0 0 0,
  .shr 0 false 2 0 0 0,
  .shr 0 false 1 (32) 0 0,
  .shr 0 false 1 0 (32) 0,
  .shr 0 false 1 0 0 (32),
  .sar (4) false 1 0 0 0,
  .sar 0 false 2 0 0 0,
  .sar 0 false 1 (32) 0 0,
  .sar 0 false 1 0 (32) 0,
  .sar 0 false 1 0 0 (32),
  .mul (4) false 1 0 0 0,
  .mul 0 false 2 0 0 0,
  .mul 0 false 1 (32) 0 0,
  .mul 0 false 1 0 (32) 0,
  .mul 0 false 1 0 0 (32),
  .minu (4) false 1 0 0 0,
  .minu 0 false 2 0 0 0,
  .minu 0 false 1 (32) 0 0,
  .minu 0 false 1 0 (32) 0,
  .minu 0 false 1 0 0 (32),
  .maxu (4) false 1 0 0 0,
  .maxu 0 false 2 0 0 0,
  .maxu 0 false 1 (32) 0 0,
  .maxu 0 false 1 0 (32) 0,
  .maxu 0 false 1 0 0 (32),
  .addi (4) false 1 0 0 0,
  .addi 0 false 2 0 0 0,
  .addi 0 false 1 (32) 0 0,
  .addi 0 false 1 0 (32) 0,
  .addi 0 false 1 0 0 (2 ^ 32)] : List Instr).all (fun i => !wellFormed i) = true := by decide +kernel

theorem test_wellFormed_refuses_3 : ([
  .andi (4) false 1 0 0 0,
  .andi 0 false 2 0 0 0,
  .andi 0 false 1 (32) 0 0,
  .andi 0 false 1 0 (32) 0,
  .andi 0 false 1 0 0 (2 ^ 32),
  .ori (4) false 1 0 0 0,
  .ori 0 false 2 0 0 0,
  .ori 0 false 1 (32) 0 0,
  .ori 0 false 1 0 (32) 0,
  .ori 0 false 1 0 0 (2 ^ 32),
  .shli (4) false 1 0 0 0,
  .shli 0 false 2 0 0 0,
  .shli 0 false 1 (32) 0 0,
  .shli 0 false 1 0 (32) 0,
  .shli 0 false 1 0 0 (2 ^ 32),
  .shri (4) false 1 0 0 0,
  .shri 0 false 2 0 0 0,
  .shri 0 false 1 (32) 0 0,
  .shri 0 false 1 0 (32) 0,
  .shri 0 false 1 0 0 (2 ^ 32),
  .li (4) false 1 0 0,
  .li 0 false 2 0 0,
  .li 0 false 1 (32) 0,
  .li 0 false 1 0 (2 ^ 32),
  .lih (4) false 1 0 0 0,
  .lih 0 false 2 0 0 0,
  .lih 0 false 1 (32) 0 0,
  .lih 0 false 1 0 (32) 0,
  .lih 0 false 1 0 0 (2 ^ 32),
  .bfx (4) false 1 0 0 0,
  .bfx 0 false 2 0 0 0,
  .bfx 0 false 1 (32) 0 0,
  .bfx 0 false 1 0 (32) 0,
  .bfx 0 false 1 0 0 (2 ^ 32),
  .ceq (4) false 1 0 0 0,
  .ceq 0 false 2 0 0 0,
  .ceq 0 false 1 (32) 0 0,
  .ceq 0 false 1 0 (32) 0,
  .ceq 0 false 1 0 0 (8),
  .cne (4) false 1 0 0 0,
  .cne 0 false 2 0 0 0,
  .cne 0 false 1 (32) 0 0,
  .cne 0 false 1 0 (32) 0,
  .cne 0 false 1 0 0 (8),
  .cltu (4) false 1 0 0 0] : List Instr).all (fun i => !wellFormed i) = true := by decide +kernel

theorem test_wellFormed_refuses_4 : ([
  .cltu 0 false 2 0 0 0,
  .cltu 0 false 1 (32) 0 0,
  .cltu 0 false 1 0 (32) 0,
  .cltu 0 false 1 0 0 (8),
  .clts (4) false 1 0 0 0,
  .clts 0 false 2 0 0 0,
  .clts 0 false 1 (32) 0 0,
  .clts 0 false 1 0 (32) 0,
  .clts 0 false 1 0 0 (8),
  .ceqi (4) false 1 0 0 0,
  .ceqi 0 false 2 0 0 0,
  .ceqi 0 false 1 (32) 0 0,
  .ceqi 0 false 1 0 (8) 0,
  .ceqi 0 false 1 0 0 (2 ^ 32),
  .cltui (4) false 1 0 0 0,
  .cltui 0 false 2 0 0 0,
  .cltui 0 false 1 (32) 0 0,
  .cltui 0 false 1 0 (8) 0,
  .cltui 0 false 1 0 0 (2 ^ 32),
  .pand (4) false 1 0 0 0,
  .pand 0 false 2 0 0 0,
  .pand 0 false 1 (32) 0 0,
  .pand 0 false 1 0 (32) 0,
  .pand 0 false 1 0 0 (8),
  .por (4) false 1 0 0 0,
  .por 0 false 2 0 0 0,
  .por 0 false 1 (32) 0 0,
  .por 0 false 1 0 (32) 0,
  .por 0 false 1 0 0 (8),
  .pnot (4) false 1 0 0,
  .pnot 0 false 2 0 0,
  .pnot 0 false 1 (32) 0,
  .pnot 0 false 1 0 (8),
  .rds (4) false 1 0 0,
  .rds 0 false 2 0 0,
  .rds 0 false 1 (32) 0,
  .rds 0 false 1 0 (2 ^ 32),
  .ldt (4) false 1 0 0,
  .ldt 0 false 2 0 0,
  .ldt 0 false 1 (32) 0,
  .ldt 0 false 1 0 (32),
  .ldm (4) false 1 0 0 0,
  .ldm 0 false 2 0 0 0,
  .ldm 0 false 1 (32) 0 0,
  .ldm 0 false 1 0 (32) 0] : List Instr).all (fun i => !wellFormed i) = true := by decide +kernel

theorem test_wellFormed_refuses_5 : ([
  .ldm 0 false 1 0 0 (2 ^ 32),
  .stm (4) false 1 0 0 0,
  .stm 0 false 2 0 0 0,
  .stm 0 false 1 (32) 0 0,
  .stm 0 false 1 0 (32) 0,
  .stm 0 false 1 0 0 (2 ^ 32),
  .nop (4) 1,
  .nop 0 2,
  .br (4) 1 0,
  .br 0 2 0,
  .br 0 1 (2 ^ 14),
  .call (4) 1 0,
  .call 0 2 0,
  .call 0 1 (2 ^ 14),
  .ret (4) 1,
  .ret 0 2,
  .wait (4) 1 0 0 0 0 0,
  .wait 0 2 0 0 0 0 0,
  .wait 0 1 (32) 0 0 0 0,
  .wait 0 1 0 (32) 0 0 0,
  .wait 0 1 0 0 (32) 0 0,
  .wait 0 1 0 0 0 (32) 0,
  .wait 0 1 0 0 0 0 (4),
  .endPattern (4) 1,
  .endPattern 0 2,
  .trap (4) 1 0,
  .trap 0 2 0,
  .trap 0 1 (256),
  .score (4) 1 0 0,
  .score 0 2 0 0,
  .score 0 1 (2) 0,
  .score 0 1 0 (32),
  .selectArm (4) 1,
  .selectArm 0 2,
  .armLevel (4) 1 0,
  .armLevel 0 2 0,
  .armLevel 0 1 (4),
  .pourArm (4) 1 0 0,
  .pourArm 0 2 0 0,
  .pourArm 0 1 (2) 0,
  .pourArm 0 1 0 (32),
  .stitchOpen (4) 1 0,
  .stitchOpen 0 2 0,
  .stitchOpen 0 1 (32),
  .stitchShared (4) 1 0] : List Instr).all (fun i => !wellFormed i) = true := by decide +kernel

theorem test_wellFormed_refuses_6 : ([
  .stitchShared 0 2 0,
  .stitchShared 0 1 (32),
  .tallySlotAdd (4) 1 0 0,
  .tallySlotAdd 0 2 0 0,
  .tallySlotAdd 0 1 (32) 0,
  .tallySlotAdd 0 1 0 (32),
  .tallySlotSet (4) 1 0 0,
  .tallySlotSet 0 2 0 0,
  .tallySlotSet 0 1 (32) 0,
  .tallySlotSet 0 1 0 (32),
  .tallySlotAddi (4) 1 0 0,
  .tallySlotAddi 0 2 0 0,
  .tallySlotAddi 0 1 (32) 0,
  .tallySlotAddi 0 1 0 (2 ^ 32),
  .copyIssue (4) 1 0 0 0 0,
  .copyIssue 0 2 0 0 0 0,
  .copyIssue 0 1 (32) 0 0 0,
  .copyIssue 0 1 0 (256) 0 0,
  .copyIssue 0 1 0 0 (2) 0,
  .copyIssue 0 1 0 0 0 (32),
  .setEndpointId (256) 0 0 0,
  .setEndpointId 0 (256) 0 0,
  .setEndpointId 0 0 (256) 0,
  .setEndpointId 0 0 0 (256),
  .getEndpointId (256) 0 0,
  .getEndpointId 0 (256) 0,
  .getEndpointId 0 0 (256),
  .getMctpVersionSupport (256) 0 0,
  .getMctpVersionSupport 0 (256) 0,
  .getMctpVersionSupport 0 0 (256),
  .getMessageTypeSupport (256) 0 0,
  .getMessageTypeSupport 0 (256) 0,
  .getMessageTypeSupport 0 0 (256),
  .submitTail badAccess,
  .completionHead badAccess,
  .pop badAccess,
  .mark badAccess,
  .rewind badAccess,
  .release badAccess,
  .tallyPageAdd badAccess,
  .watch badAccess,
  .alloc badAccess,
  .free badAccess,
  .ringEnable (16 + 1) 0,
  .ringEnable 0 (1024)] : List Instr).all (fun i => !wellFormed i) = true := by decide +kernel

theorem test_wellFormed_refuses_7 : ([
  .ringDisable (16 + 1) 0,
  .ringDisable 0 (1024),
  .planLoadGo (16 + 1) 0 0,
  .planLoadGo 0 (16) 0,
  .planLoadGo 0 0 (2 ^ 16),
  .planImageReadDone (16),
  .keyLoadDone (16),
  .planUnload (16 + 1) 0 0,
  .planUnload 0 (16) 0,
  .planUnload 0 0 (2 ^ 16),
  .planFree (2 ^ 16),
  .patternLoadGo (16 + 1) 0 0,
  .patternLoadGo 0 (16) 0,
  .patternLoadGo 0 0 (2 ^ 16),
  .patternLoadDone (16),
  .patternUnload (16 + 1) 0 0,
  .patternUnload 0 (16) 0,
  .patternUnload 0 0 (2 ^ 16),
  .patternFree (2 ^ 16),
  .tableLoadGo (16 + 1) 0,
  .tableLoadGo 0 (2),
  .tableLoadDone (2),
  .activeVersion (16 + 1) 0,
  .activeVersion 0 (256),
  .versionFree (16 + 1) 0,
  .versionFree 0 (2),
  .peerJoin (16 + 1),
  .peerLeave (16 + 1),
  .peerDeclareDead (16 + 1),
  .portEnable (16 + 1) 0,
  .portEnable 0 (48),
  .portDisable (16 + 1) 0,
  .portDisable 0 (48),
  .surveyGo (16 + 1),
  .linkEventClear (16 + 1),
  .watchSession (16 + 1) 0 0,
  .watchSession 0 (2 ^ 32) 0,
  .watchSession 0 0 (2 ^ 32),
  .maskApplyStep (16 + 1) 0 0,
  .maskApplyStep 0 (2 ^ 16) 0,
  .maskApplyStep 0 0 (2 ^ 32),
  .groupEnable (16 + 1) 0,
  .groupEnable 0 (256),
  .groupListReadDone (256),
  .balanceEnable (16 + 1) 0] : List Instr).all (fun i => !wellFormed i) = true := by decide +kernel

theorem test_wellFormed_refuses_8 : ([
  .balanceEnable 0 (256),
  .rejoin (16 + 1) 0,
  .rejoin 0 (256),
  .snapshotGo (16 + 1),
  .excResume (16 + 1) 0,
  .excResume 0 (4),
  .excSkip (16 + 1) 0,
  .excSkip 0 (4),
  .excKill (16 + 1) 0,
  .excKill 0 (4),
  .hostEnable (16 + 1) 0 0,
  .hostEnable 0 (16) 0,
  .hostEnable 0 0 (256),
  .contextDefine (16 + 1) 0,
  .contextDefine 0 (2 ^ 16),
  .contextUndefine (16 + 1) 0,
  .contextUndefine 0 (2 ^ 16),
  .contextReset (16 + 1) 0,
  .contextReset 0 (2 ^ 16),
  .accountingClear (16 + 1) 0,
  .accountingClear 0 (2 ^ 16),
  .hostAccountingClear (16 + 1) 0,
  .hostAccountingClear 0 (16),
  .winEnable (16 + 1) 0,
  .winEnable 0 (2 ^ 16),
  .winDisable (16 + 1) 0,
  .winDisable 0 (2 ^ 16),
  .ownerFlush (16 + 1) 0,
  .ownerFlush 0 (256),
  .checkGo (16 + 1) 0,
  .checkGo 0 (256),
  .checkRunEnd (256),
  .faultClear (16 + 1) 0 0,
  .faultClear 0 (20) 0,
  .faultClear 0 0 (2 ^ 256),
  .firstErrorRearm (16 + 1) 0,
  .firstErrorRearm 0 (20),
  .historyDrain (16 + 1) 0,
  .historyDrain 0 (20),
  .faultAck (16 + 1) 0 0,
  .faultAck 0 (20) 0,
  .faultAck 0 0 (256),
  .hostFaultAck (16 + 1) 0 0,
  .hostFaultAck 0 (16) 0,
  .hostFaultAck 0 0 (2 ^ 16)] : List Instr).all (fun i => !wellFormed i) = true := by decide +kernel

theorem test_wellFormed_refuses_9 : ([
  .fatalStopNow (16 + 1),
  .promoteCount (16 + 1) false 0 0,
  .promoteCount 0 false (2 ^ 16) 0,
  .promoteCount 0 false 0 (2 ^ 32),
  .injectGo (16 + 1),
  .keySlot (16 + 1) false 0 0,
  .keySlot 0 false (16 + 1) 0,
  .keySlot 0 false 0 (2 ^ 256),
  .keyRevoke (16 + 1) 0 0,
  .keyRevoke 0 (16 + 1) 0,
  .keyRevoke 0 0 (256),
  .peerWakeTolerance (16 + 1) 0,
  .peerWakeTolerance 0 (2 ^ 32),
  .wakeNow (16 + 1),
  .engineRun (16 + 1),
  .unitHalt (16 + 1) 0,
  .unitHalt 0 (2 ^ 32),
  .unitHalted (20),
  .dictionaryWrite (16 + 1) 0 0 0 0 0,
  .dictionaryWrite 0 (2 ^ 16) 0 0 0 0,
  .dictionaryWrite 0 0 (2 ^ 8) 0 0 0,
  .dictionaryWrite 0 0 0 (2 ^ 32) 0 0,
  .dictionaryWrite 0 0 0 0 (2 ^ 16 + 1) 0,
  .portReset (48) false,
  .linkUp (48),
  .linkDown (48),
  .fecDegrade (48) 0 0,
  .fecDegrade 0 (2 ^ 32) 0,
  .fecDegrade 0 0 (2 ^ 32),
  .dispatchCopyFrame badRx goodFrame,
  .dispatchCopyFrame goodRx badFrame,
  .pourCloseFrame badRx goodFrame,
  .pourCloseFrame goodRx badFrame,
  .returnAnswerFrame badRx goodFrame,
  .returnAnswerFrame goodRx badFrame,
  .remoteStoreFrame badRx goodFrame,
  .remoteStoreFrame goodRx badFrame,
  .atomicFrame badRx goodFrame,
  .atomicFrame goodRx badFrame,
  .replyFrame badRx goodFrame,
  .replyFrame goodRx badFrame,
  .ackFrame badRx goodFrame,
  .ackFrame goodRx badFrame,
  .hopCreditFrame badRx goodFrame,
  .hopCreditFrame goodRx badFrame] : List Instr).all (fun i => !wellFormed i) = true := by decide +kernel

theorem test_wellFormed_refuses_10 : ([
  .collSegment badRx goodFrame,
  .collSegment goodRx badFrame,
  .collReport badRx goodFrame,
  .collReport goodRx badFrame,
  .collCommit badRx goodFrame,
  .collCommit goodRx badFrame,
  .collAbort badRx goodFrame,
  .collAbort goodRx badFrame,
  .collLaunch (256),
  .join badRx goodFrame,
  .join goodRx badFrame,
  .joinAck badRx goodFrame,
  .joinAck goodRx badFrame,
  .leave badRx goodFrame,
  .leave goodRx badFrame,
  .leaveAck badRx goodFrame,
  .leaveAck goodRx badFrame,
  .sleep badRx goodFrame,
  .sleep goodRx badFrame,
  .sleepAck badRx goodFrame,
  .sleepAck goodRx badFrame,
  .awake badRx goodFrame,
  .awake goodRx badFrame,
  .awakeAck badRx goodFrame,
  .awakeAck goodRx badFrame,
  .awakeRefused badRx goodFrame,
  .awakeRefused goodRx badFrame,
  .aapRelay badRx goodFrame,
  .aapRelay goodRx badFrame,
  .surveyProbe badRx goodFrame,
  .surveyProbe goodRx badFrame,
  .surveyReply badRx goodFrame,
  .surveyReply goodRx badFrame,
  .icmpv6TimeExceeded (48) 0 0 0,
  .icmpv6TimeExceeded 0 0 (2 ^ 16) 0,
  .icmpv6TimeExceeded 0 0 0 (256),
  .transitFrame badRx goodFrame,
  .transitFrame goodRx badFrame,
  .pfcFrame badRx 0 [],
  .pfcFrame goodRx (256) [],
  .pauseFrame badRx,
  .pfcPauseExpiry (48) 0,
  .pfcPauseExpiry 0 (8),
  .frameStart (48),
  .ackSend (2 ^ 20)] : List Instr).all (fun i => !wellFormed i) = true := by decide +kernel

theorem test_wellFormed_refuses_11 : ([
  .ackHoldExpiry (2 ^ 20) 0 0,
  .ackHoldExpiry 0 (8) 0,
  .ackHoldExpiry 0 0 (2 ^ 32),
  .retransmitTimeout (2 ^ 20) 0 0,
  .retransmitTimeout 0 (8) 0,
  .retransmitTimeout 0 0 (2 ^ 32),
  .settleLimitExpiry (2 ^ 20) 0 0,
  .settleLimitExpiry 0 (8) 0,
  .settleLimitExpiry 0 0 (2 ^ 32),
  .atomicRetryTimeout (2 ^ 20) 0,
  .atomicRetryTimeout 0 (2 ^ 32),
  .creditRelease (2 ^ 20),
  .frameLifeExpiry (48),
  .peerSleepHoldExpiry (2 ^ 20),
  .rowSettle 0 (4096),
  .scoreEnd 0 (4096),
  .packetBuild 0 (2) 0,
  .packetBuild 0 0 (2 ^ 16),
  .pourCloseSend 0 (2),
  .returnPacketBuild (2 ^ 16) 0,
  .returnPacketBuild 0 (2 ^ 16),
  .groupTableWrite (2 ^ 16) 0,
  .groupTableWrite 0 (2 ^ 16),
  .groupTableWritten (16),
  .forcedClose (2 ^ 16) 0,
  .forcedClose 0 (2 ^ 16),
  .flaskRelease (2 ^ 16) 0,
  .flaskRelease 0 (2 ^ 16),
  .combine (2 ^ 16) 0,
  .combine 0 (4096),
  .rowWriteVisible (2 ^ 16) 0,
  .rowWriteVisible 0 (4096),
  .stitchWaitExpiry (2 ^ 16) 0,
  .stitchWaitExpiry 0 (4096),
  .contextSchedule (4),
  .restWatchdog (4),
  .starveAging (2 ^ 16),
  .biasLate (256),
  .collWatchdog (256),
  .groupStallExpiry (16),
  .allocStallExpiry (16) 0,
  .allocStallExpiry 0 (8),
  .escalationExpiry (20) 0,
  .escalationExpiry 0 (8),
  .doorbellLatch badAccess] : List Instr).all (fun i => !wellFormed i) = true := by decide +kernel

theorem test_wellFormed_refuses_12 : ([
  .lossOfSignal (48) 0 0,
  .lossOfSignal 0 (2) 0,
  .lossOfSignal 0 0 (4),
  .laneLock (48),
  .portResetEnd (48),
  .frameDrop badRx 0,
  .frameDrop goodRx (8),
  .peerDirectoryFetch (2 ^ 20),
  .coreClockThrottle (2 ^ 16)] : List Instr).all (fun i => !wellFormed i) = true := by decide +kernel

theorem test_wellFormed_refuses_long (l : List Byte) (h : l.length = 2 ^ 32) : wellFormed (.run 0 0 l) = false ∧
    wellFormed (.dispatch 0 0 l) = false ∧
    wellFormed (.copy 0 0 l) = false ∧
    wellFormed (.fence 0 0 l) = false ∧
    wellFormed (.cancel 0 0 l) = false ∧
    wellFormed (.tallyRead 0 0 l) = false ∧
    wellFormed (.tallySet 0 0 l) = false ∧
    wellFormed (.tallyAdd 0 0 l) = false ∧
    wellFormed (.tallyWait 0 0 l) = false ∧
    wellFormed (.allreduce 0 0 l) = false ∧
    wellFormed (.reduce 0 0 l) = false ∧
    wellFormed (.allgather 0 0 l) = false ∧
    wellFormed (.broadcast 0 0 l) = false ∧
    wellFormed (.biasSet 0 0 l) = false ∧
    wellFormed (.dict 0 0 l) = false ∧
    wellFormed (.park 0 0 l) = false ∧
    wellFormed (.rld 0 0 l) = false ∧
    wellFormed (.rst 0 0 l) = false ∧
    wellFormed (.load 0 0 l) = false ∧
    wellFormed (.fetchAdd 0 0 l) = false ∧
    wellFormed (.fetchAnd 0 0 l) = false ∧
    wellFormed (.fetchOr 0 0 l) = false ∧
    wellFormed (.fetchXor 0 0 l) = false ∧
    wellFormed (.swap 0 0 l) = false ∧
    wellFormed (.compareSwap 0 0 l) = false ∧
    wellFormed (.fetchMaxU 0 0 l) = false ∧
    wellFormed (.fetchMinU 0 0 l) = false ∧
    wellFormed (.probe 0 0 l) = false ∧
    wellFormed (.read goodDest l) = false ∧
    wellFormed (.write goodDest l) = false ∧
    wellFormed (.describe goodDest l) = false ∧
    wellFormed (.next goodDest l) = false ∧
    wellFormed (.subscribe goodDest l) = false ∧
    wellFormed (.unsubscribe goodDest l) = false := by
  simp only [wellFormed, h]; decide
/-! ## Words of a pattern, written out from R366 to R379 -/

theorem test_decode_add : decodeScalar 0x08131A0000000000 = ⟨1, 0x01, 6, 6, 16, 0, 0, 0⟩ := by decide +kernel
theorem test_decode_addi : decodeScalar 0x09039C0000000001 = ⟨1, 0x10, 7, 7, 0, 0, 0, 1⟩ := by decide +kernel
theorem test_decode_stm : decodeScalar 0x8B900C2000000008 = ⟨0x11, 0x39, 0, 3, 1, 0, 0, 8⟩ := by decide +kernel
theorem test_decode_br : decodeControl 0x0880200000000000 = ⟨1, 1, 0x10, 0, 0, 0, 0, 0, 0⟩ := by decide +kernel
theorem test_decode_wait : decodeControl 0x0A00003110480000 = ⟨1, 4, 0, 3, 2, 4, 2, 1, 0⟩ := by decide +kernel
theorem test_decode_tallySlot : decodeTallySlot 0x0B10000000000007 = ⟨1, 3, 2, 0, 0, 7⟩ := by decide +kernel
theorem test_decode_stitch : decodeStitchSlot 0x0928000000000000 = ⟨1, 1, 5, 0⟩ := by decide +kernel
theorem test_decode_copy : decodeCopySlot 0x09281CC000000000 = ⟨1, 1, 5, 3, 1, 6, 0⟩ := by decide +kernel
theorem test_decode_arm : decodeArm 0x09A400000000 = ⟨1, 1, 1, 9, 0⟩ := by decide +kernel
theorem test_decode_select : decodeSelect 0x0A400000 = ⟨1, 2, 1, 0⟩ := by decide +kernel

/-- The slots lie in the word from CONTROL at the top to SELECT at the bottom (R366). -/
theorem test_decode_word : decodeWord (BitVec.ofNat 512 (0x0880200000000000 * 2 ^ 448 + 0x08131A0000000000 * 2 ^ 384 +
    0x09039C0000000001 * 2 ^ 320 + 0x0B10000000000007 * 2 ^ 256 + 0x0928000000000000 * 2 ^ 192 + 0x09281CC000000000 * 2 ^ 128 +
    0x09A400000000 * 2 ^ 80 + 0x0A400000)) =
    { control := ⟨1, 1, 0x10, 0, 0, 0, 0, 0, 0⟩, a := ⟨1, 0x01, 6, 6, 16, 0, 0, 0⟩, b := ⟨1, 0x10, 7, 7, 0, 0, 0, 1⟩
      tally := ⟨1, 3, 2, 0, 0, 7⟩, stitch := ⟨1, 1, 5, 0⟩, copy := ⟨1, 1, 5, 3, 1, 6, 0⟩, pour := ⟨1, 1, 1, 9, 0⟩
      score := ⟨0, 0, 0, 0, 0⟩, select := ⟨1, 2, 1, 0⟩ } := by decide +kernel


/-! ## States that meet the hypotheses of the statements -/

/-- Objects set to values, in order. -/
def sets (s : State) (l : List (Obj × Nat × Nat)) : State := l.foldl (fun s x => s.wr x.1 x.2.1 x.2.2) s

/-- A booted engine whose units run: node 6; host 0 is enabled, owns channel 0, 16 contexts and 16 tallies, and has a memory window of 1 MiB at its address 0; ring 0 is enabled and has nine slots written; the engine window 9 holds the context images. -/
def up : State :=
  { sets State.reset [(Reg.bootState, 0, 3), (Reg.unitHalted, 0, 0), (Reg.nodeId, 0, 6), (Reg.channelHost, 0, 0), (Reg.tallyCount, 0, 16),
      (Reg.winEnable, 0, 1), (Reg.winId, 0, 5), (Reg.winLength, 0, 2 ^ 20), (Reg.winTarget, 0, 2 ^ 20), (Reg.winPerm, 0, 31),
      (Reg.winEnable, 3840, 1), (Reg.winId, 3840, 9), (Reg.winLength, 3840, 2 ^ 20), (Reg.winTarget, 3840, 2 ^ 21), (Reg.winPerm, 3840, 3),
      (Reg.contextImageWindow, 0, 9), (Reg.hostEnable, 0, 1), (Reg.contextCount, 0, 16), (Reg.ringEnable, 0, 1), (Reg.ownerEnable, 5, 1)] with
    rings := [(0, { state := 1, submitTail := 9 })] }

/-- A word none of whose slots executes. -/
def still : PWord := ⟨⟨0, 0, 0, 0, 0, 0, 0, 0, 0⟩, ⟨0, 0, 0, 0, 0, 0, 0, 0⟩, ⟨0, 0, 0, 0, 0, 0, 0, 0⟩, ⟨0, 0, 0, 0, 0, 0⟩, ⟨0, 0, 0, 0⟩,
  ⟨0, 0, 0, 0, 0, 0, 0⟩, ⟨0, 0, 0, 0, 0⟩, ⟨0, 0, 0, 0, 0⟩, ⟨0, 0, 0, 0⟩⟩

/-- Context 1 running command 0, a RUN (1) or a DISPATCH (2), of pattern 7, which is one word and a second. -/
def runCtx : Ctx := { g := [(1, 3), (2, 64)], state := 3, residency := 1, cmd := some 0, pattern := 7, preds := 1, stack := [9] }
def runCmd (op : Nat) : Cmd :=
  { ring := 0, host := 0, ctx := 1, header := BitVec.ofNat 512 (op + 7 * 2 ^ 256), payload := [], heat := 0, admitTick := 0, slot := 0, resultBytes := 0
    started := true }
def runPat (p : PWord) : Pattern :=
  { host := 0, state := 2, kind := 1, runResultBytes := 64, crc := 0, stamp := 0, base := 0, bytes := 128, words := [encodeWord p, encodeWord still] }
def runs (op : Nat) (p : PWord) : State := { up with ctxs := [(1, runCtx)], cmds := [(0, runCmd op)], patterns := [(7, runPat p)] }

/-- The word that sequencer 0 is about to issue. -/
def word (op : Nat) (p : PWord) (h : ((runs op p).issueOf 0).isSome = true) : Issue := ((runs op p).issueOf 0).get h

theorem issues_word {op : Nat} {p : PWord} {h : ((runs op p).issueOf 0).isSome = true} (h' : (runs op p).ctx (word op p h).x = some (word op p h).c)
    (h'' : (runs op p).checkWord (word op p h) = none) : (runs op p).issues 0 (word op p h) := ⟨(Option.some_get h).symm, h', h''⟩

def addWord : PWord := { still with a := ⟨1, 0x01, 3, 1, 2, 0, 0, 0⟩ }
theorem addWord_issues : ((runs 1 addWord).issueOf 0).isSome = true := by decide +kernel

theorem witness_RegisterOperationsGiveTheirValues :
    let s := runs 1 addWord
    let i := word 1 addWord addWord_issues
    s.awake ∧ s.sound ∧ s.issues 0 i ∧ i.narrow ∧ i.goesOn ∧ i.w.a.quiet ∧ i.w.b.quiet ∧ i.exec 1 = true ∧ (0 : Nat) < 2 ^ 32 ∧
      ¬ i.writesReg (i.scalar true) 3 ∧ ∃ e ∈ aluRows 0 false 1 3 1 2 (i.reg 1) (i.reg 2), i.scalar false = e.1 := by
  refine ⟨⟨by decide +kernel, by decide +kernel⟩, ⟨by decide +kernel, by decide +kernel⟩, issues_word (by decide +kernel) (by decide +kernel), ?_⟩
  unfold Issue.narrow Issue.goesOn ScalarSlot.quiet Issue.writesReg
  decide +kernel

def eqWord : PWord := { still with a := ⟨1, 0x20, 0, 1, 1, 2, 0, 0⟩ }
theorem eqWord_issues : ((runs 1 eqWord).issueOf 0).isSome = true := by decide +kernel

theorem witness_PredicatesAndSpecialValuesAreGiven_1 :
    let s := runs 1 eqWord
    let i := word 1 eqWord eqWord_issues
    s.awake ∧ s.sound ∧ s.issues 0 i ∧ i.narrow ∧ i.goesOn ∧ i.w.a.quiet ∧ i.w.b.quiet ∧ i.exec 1 = true ∧ (0 : Nat) < 2 ^ 32 ∧
      ¬ i.writesPred (i.scalar true) 2 ∧ ∃ e ∈ compareRows 0 false 1 1 1 2 0 (i.reg 1) (i.reg 1), i.scalar false = e.1 := by
  refine ⟨⟨by decide +kernel, by decide +kernel⟩, ⟨by decide +kernel, by decide +kernel⟩, issues_word (by decide +kernel) (by decide +kernel), ?_⟩
  unfold Issue.narrow Issue.goesOn ScalarSlot.quiet Issue.writesPred
  decide +kernel

def rdsWord : PWord := { still with b := ⟨1, 0x30, 4, 0, 0, 0, 0, 8⟩ }
theorem rdsWord_issues : ((runs 1 rdsWord).issueOf 0).isSome = true := by decide +kernel

theorem witness_PredicatesAndSpecialValuesAreGiven_2 :
    let s := runs 1 rdsWord
    let i := word 1 rdsWord rdsWord_issues
    s.awake ∧ s.sound ∧ s.issues 0 i ∧ i.narrow ∧ i.goesOn ∧ i.w.a.quiet ∧ i.w.b.quiet ∧ i.exec 1 = true ∧
      ¬ i.writesReg (i.scalar false) 4 ∧ i.scalar true = ⟨1, 0x30, 4, 0, 0, 0, 0, 8⟩ ∧ ∃ e ∈ specialValues s 0 i, 8 % 16 = e.1 := by
  refine ⟨⟨by decide +kernel, by decide +kernel⟩, ⟨by decide +kernel, by decide +kernel⟩, issues_word (by decide +kernel) (by decide +kernel), ?_⟩
  unfold Issue.narrow Issue.goesOn ScalarSlot.quiet Issue.writesReg
  decide +kernel

def ldtWord : PWord := { still with a := ⟨1, 0x31, 4, 1, 0, 0, 0, 0⟩ }
theorem ldtWord_issues : ((runs 1 ldtWord).issueOf 0).isSome = true := by decide +kernel

theorem witness_PatternLoadsAndStoresReachTheirPlace_1 :
    let s := runs 1 ldtWord
    let i := word 1 ldtWord ldtWord_issues
    s.awake ∧ s.sound ∧ s.issues 0 i ∧ i.narrow ∧ i.goesOn ∧ (i.scalar true).quiet ∧ i.exec 1 = true ∧ ¬ i.writesReg (i.scalar true) 4 ∧
      i.scalar false = ⟨1, 0x31, 4, 1, 0, 0, 0, 0⟩ ∧ s.tallyFlip.contains ((i.reg 1).toNat % 2 ^ 17) = false ∧
      s.tallyBad.contains ((i.reg 1).toNat % 2 ^ 17) = false := by
  refine ⟨⟨by decide +kernel, by decide +kernel⟩, ⟨by decide +kernel, by decide +kernel⟩, issues_word (by decide +kernel) (by decide +kernel), ?_⟩
  unfold Issue.narrow Issue.goesOn ScalarSlot.quiet Issue.writesReg
  decide +kernel

def ldmWord : PWord := { still with a := ⟨1, 0x38, 4, 2, 0, 0, 0, 0⟩ }
theorem ldmWord_issues : ((runs 1 ldmWord).issueOf 0).isSome = true := by decide +kernel

theorem witness_PatternLoadsAndStoresReachTheirPlace_2 :
    let s := runs 1 ldmWord
    let i := word 1 ldmWord ldmWord_issues
    s.awake ∧ s.sound ∧ s.issues 0 i ∧ i.narrow ∧ i.goesOn ∧ i.w.b.quiet ∧ i.exec 1 = true ∧ ¬ i.writesReg i.w.b 4 ∧
      i.w.a = ⟨1, 0x38, 4, 2, 0, 0, 0, 0⟩ ∧ i.place false (i.reg 2 + sextImm 0).toNat 8 = some (.mem 64) ∧
      s.placeRead i (.mem 64) 8 = some (List.replicate 8 0) := by
  refine ⟨⟨by decide +kernel, by decide +kernel⟩, ⟨by decide +kernel, by decide +kernel⟩, issues_word (by decide +kernel) (by decide +kernel), ?_⟩
  unfold Issue.narrow Issue.goesOn ScalarSlot.quiet Issue.writesReg
  decide +kernel

def stmWord : PWord := { still with a := ⟨1, 0x39, 0, 2, 1, 0, 0, 8⟩ }
theorem stmWord_issues : ((runs 1 stmWord).issueOf 0).isSome = true := by decide +kernel

theorem witness_PatternLoadsAndStoresReachTheirPlace_3 :
    let s := runs 1 stmWord
    let i := word 1 stmWord stmWord_issues
    s.awake ∧ s.sound ∧ s.issues 0 i ∧ i.narrow ∧ i.goesOn ∧ i.w.b.quiet ∧ i.exec 1 = true ∧ i.w.a = ⟨1, 0x39, 0, 2, 1, 0, 0, 8⟩ ∧
      i.place true (i.reg 2 + sextImm 8).toNat 8 = some (.mem 72) ∧ s.stores8 i (.mem 72) ∧ i.c.suppress ≤ i.c.effectCount := by
  refine ⟨⟨by decide +kernel, by decide +kernel⟩, ⟨by decide +kernel, by decide +kernel⟩, issues_word (by decide +kernel) (by decide +kernel), ?_⟩
  have e : (runs 1 stmWord).xlt (word 1 stmWord stmWord_issues).k.host 72 8 true = some (.noc (2 ^ 20 + 72)) := by decide +kernel
  unfold Issue.narrow Issue.goesOn ScalarSlot.quiet State.stores8 State.storable
  simp only [e]
  decide +kernel

def callWord : PWord := { still with control := ⟨1, 2, 1, 0, 0, 0, 0, 0, 0⟩ }
theorem callWord_issues : ((runs 1 callWord).issueOf 0).isSome = true := by decide +kernel

theorem witness_BranchesSetThePc :
    let s := runs 1 callWord
    let i := word 1 callWord callWord_issues
    s.awake ∧ s.sound ∧ s.issues 0 i ∧ i.narrow ∧ i.w.a.quiet ∧ i.w.b.quiet ∧ i.w.control = ⟨1, 2, 1, 0, 0, 0, 0, 0, 0⟩ := by
  refine ⟨⟨by decide +kernel, by decide +kernel⟩, ⟨by decide +kernel, by decide +kernel⟩, issues_word (by decide +kernel) (by decide +kernel), ?_⟩
  unfold Issue.narrow ScalarSlot.quiet
  decide +kernel

def waitWord : PWord := { still with control := ⟨1, 4, 0, 1, 2, 1, 2, 3, 0⟩ }
theorem waitWord_issues : ((runs 1 waitWord).issueOf 0).isSome = true := by decide +kernel

theorem witness_WaitGoesOnOrRests :
    let s := runs 1 waitWord
    let i := word 1 waitWord waitWord_issues
    s.awake ∧ s.sound ∧ s.issues 0 i ∧ i.narrow ∧ i.w.a.quiet ∧ i.w.b.quiet ∧ i.exec 1 = true ∧ i.w.control = ⟨1, 4, 0, 1, 2, 1, 2, 3, 0⟩ ∧
      i.c.take = false ∧ s.scratchCopies i.uid = false ∧ s.tallyFlip = [] ∧ s.tallyBad = [] ∧ s.watchTable.length + 2 ≤ 4096 := by
  refine ⟨⟨by decide +kernel, by decide +kernel⟩, ⟨by decide +kernel, by decide +kernel⟩, issues_word (by decide +kernel) (by decide +kernel), ?_⟩
  unfold Issue.narrow ScalarSlot.quiet
  decide +kernel

def endWord : PWord := { still with control := ⟨1, 5, 0, 0, 0, 0, 0, 0, 0⟩ }
theorem endWord_issues : ((runs 1 endWord).issueOf 0).isSome = true := by decide +kernel

theorem witness_EndAndTrapStopThePattern_1 :
    let s := runs 1 endWord
    let i := word 1 endWord endWord_issues
    s.awake ∧ s.sound ∧ s.issues 0 i ∧ i.narrow ∧ i.w.a.quiet ∧ i.w.b.quiet ∧ i.exec 1 = true ∧ i.w.control = ⟨1, 5, 0, 0, 0, 0, 0, 0, 0⟩ ∧
      s.scratchCopies i.uid = false ∧ i.k.copies = 0 ∧ i.k.marked = 0 ∧ i.k.ready = false ∧ hOp i.k.header = 1 := by
  refine ⟨⟨by decide +kernel, by decide +kernel⟩, ⟨by decide +kernel, by decide +kernel⟩, issues_word (by decide +kernel) (by decide +kernel), ?_⟩
  unfold Issue.narrow ScalarSlot.quiet
  decide +kernel

def trapWord : PWord := { still with control := ⟨1, 6, 0x3FFF, 0, 0, 0, 0, 0, 0⟩ }
theorem trapWord_issues : ((runs 1 trapWord).issueOf 0).isSome = true := by decide +kernel

theorem witness_EndAndTrapStopThePattern_2 :
    let s := runs 1 trapWord
    let i := word 1 trapWord trapWord_issues
    s.awake ∧ s.sound ∧ s.issueOf 0 = some i ∧ s.ctx i.x = some i.c ∧ i.exec 1 = true ∧ i.w.control = ⟨1, 6, 0x3FFF, 0, 0, 0, 0, 0, 0⟩ ∧
      s.checkWord i = some 9 ∧ s.slotOpen 1 :=
  ⟨⟨by decide +kernel, by decide +kernel⟩, ⟨by decide +kernel, by decide +kernel⟩, (Option.some_get _).symm, by decide +kernel, by decide +kernel, by decide +kernel, by decide +kernel, 0, by decide +kernel⟩

def armWord : PWord := { still with stitch := ⟨1, 1, 1, 0⟩, select := ⟨1, 1, 0, 0⟩, pour := ⟨1, 1, 1, 1, 0⟩ }
theorem armWord_issues : ((runs 2 armWord).issueOf 0).isSome = true := by decide +kernel

theorem witness_WideSlotsArmAndScoreQueues_1 :
    let s := runs 2 armWord
    let i := word 2 armWord armWord_issues
    s.awake ∧ s.sound ∧ s.issues 0 i ∧ i.arms ∧ i.goesOn ∧ i.w.a.quiet ∧ i.w.b.quiet ∧ i.exec 1 = true ∧ i.w.stitch = ⟨1, 1, 1, 0⟩ ∧
      i.w.select = ⟨1, 1, 0, 0⟩ ∧ i.w.pour = ⟨1, 1, 1, 1, 0⟩ := by
  refine ⟨⟨by decide +kernel, by decide +kernel⟩, ⟨by decide +kernel, by decide +kernel⟩, issues_word (by decide +kernel) (by decide +kernel), ?_⟩
  unfold Issue.arms Issue.goesOn ScalarSlot.quiet
  decide +kernel

def levelCmd : Cmd := { runCmd 2 with header := BitVec.ofNat 512 (2 + 2 * 2 ^ 14) }
def levelState : State :=
  { up with ctxs := [(1, runCtx)], cmds := [(0, levelCmd)], patterns := [(7, runPat { still with select := ⟨1, 2, 2, 0⟩ })] }
theorem levelState_issues : (levelState.issueOf 0).isSome = true := by decide +kernel

theorem witness_WideSlotsArmAndScoreQueues_2 :
    let i := (levelState.issueOf 0).get levelState_issues
    levelState.awake ∧ levelState.sound ∧ levelState.issues 0 i ∧ i.arms ∧ i.goesOn ∧ i.w.a.quiet ∧ i.w.b.quiet ∧ i.exec 1 = true ∧
      i.w.select = ⟨1, 2, 2, 0⟩ := by
  refine ⟨⟨by decide +kernel, by decide +kernel⟩, ⟨by decide +kernel, by decide +kernel⟩, ⟨(Option.some_get _).symm, by decide +kernel, by decide +kernel⟩, ?_⟩
  unfold Issue.arms Issue.goesOn ScalarSlot.quiet
  decide +kernel

def scoreWord : PWord := { armWord with score := ⟨1, 1, 1, 1, 0⟩ }
theorem scoreWord_issues : ((runs 2 scoreWord).issueOf 0).isSome = true := by decide +kernel

theorem witness_WideSlotsArmAndScoreQueues_3 :
    let s := runs 2 scoreWord
    let i := word 2 scoreWord scoreWord_issues
    s.awake ∧ s.sound ∧ s.issues 0 i ∧ i.goesOn ∧ i.w.a.quiet ∧ i.w.b.quiet ∧ i.exec 1 = true ∧ i.w.score = ⟨1, 1, 1, 1, 0⟩ ∧
      i.exec i.w.copy.guard = false ∧ i.exec i.w.tally.guard = false ∧ (i.exec i.w.stitch.guard = true → i.w.stitch.op = 1) ∧ i.k.ctx = i.x ∧
      s.disp i.uid = none := by
  refine ⟨⟨by decide +kernel, by decide +kernel⟩, ⟨by decide +kernel, by decide +kernel⟩, issues_word (by decide +kernel) (by decide +kernel), ?_⟩
  unfold Issue.goesOn ScalarSlot.quiet
  decide +kernel

def tallyWord : PWord := { still with tally := ⟨1, 3, 1, 0, 0, 7⟩ }
theorem tallyWord_issues : ((runs 1 tallyWord).issueOf 0).isSome = true := by decide +kernel

theorem witness_TallySlotsUpdateTheTally :
    let s := runs 1 tallyWord
    let i := word 1 tallyWord tallyWord_issues
    s.awake ∧ s.sound ∧ s.issues 0 i ∧ i.goesOn ∧ i.w.a.quiet ∧ i.w.b.quiet ∧ i.exec 1 = true ∧ i.exec i.w.score.guard = false ∧
      i.exec i.w.copy.guard = false ∧ (i.exec i.w.stitch.guard = true → i.w.stitch.op = 1) ∧ i.c.suppress ≤ i.c.effectCount ∧ s.tallyFlip = [] ∧
      s.tallyBad.contains ((i.reg 1).toNat % 2 ^ 17) = false ∧ i.w.tally = ⟨1, 3, 1, 0, 0, 7⟩ := by
  refine ⟨⟨by decide +kernel, by decide +kernel⟩, ⟨by decide +kernel, by decide +kernel⟩, issues_word (by decide +kernel) (by decide +kernel), ?_⟩
  unfold Issue.goesOn ScalarSlot.quiet
  decide +kernel

/-! ### Commands at admission -/

theorem admitted {s : State} {i host : Nat} {H : Word512} {p : List Byte} (ly : Option Layer)
    (h : s.fetches i = true ∧ s.ringHost i = some host ∧ 1 + ceilDiv (hPayloadBytes H) 64 ≤ s.submitSlots i ∧
      1 + ceilDiv (hPayloadBytes H) 64 ≤ (s.ring i).written ∧ hPayloadBytes H ≤ 0x400000 ∧
      (s.ring i).unread + s.reservedSlots i + complSlotsOf (s.resultBytesOf H) ≤ s.complSlots i ∧ s.checkFirst i H = 0 ∧ s.checkArgs host H = 0 ∧
      s.checkPlan host H = (0, ly) ∧
      (hOp H ≠ 2 ∨ ((s.layerState (hPlan H) (hLayer H)).usable = true ∧ ly.any (s.blockTooBig host H) = false)) ∧
      s.checkPayload (s.fetched i host H p) ly = 0 ∧ s.checkDeadline (s.fetched i host H p) ly s.tick = 0) : s.admits i host H p :=
  let ⟨a, b, c, d, e, f, g, k, l, m, n, o⟩ := h
  ⟨a, b, c, d, e, f, g, k, ly, l, fun x => m.elim (fun y => absurd x y) id, n, o⟩

/-- Context 1 Idle, its home ring 0. -/
def idle1 : State := { up with ctxs := [(1, {})], patterns := [(7, { runPat still with kind := 0 }), (8, runPat still)] }
theorem idle1_awake : idle1.awake := ⟨by decide +kernel, by decide +kernel⟩
theorem idle1_sound : idle1.sound := ⟨by decide +kernel, by decide +kernel⟩
theorem idle1_untraced : idle1.untraced := by unfold State.untraced; decide +kernel

/-- A header for context 1 with its arguments from bit 256 on. -/
def head (payload args : Nat) : Word512 := BitVec.ofNat 512 (2 ^ 16 + payload * 2 ^ 64 + args * 2 ^ 256)

theorem witness_TallyCommandsActOnTheirTally (e : Nat × Instr)
    (he : e ∈ [(0, Instr.tallyRead 0 (head 0 (15 * 8 + 5 * 2 ^ 20)) []), (3, .tallyWait 0 (head 0 (15 * 8 + 5 * 2 ^ 20)) [])]) :
    idle1.awake ∧ idle1.sound ∧ idle1.untraced ∧ idle1.tallyFlip = [] ∧ idle1.tallyBad = [] ∧ idle1.watchTable.length < 4096 ∧
      idle1.admits 0 0 (withField (withOp (head 0 (15 * 8 + 5 * 2 ^ 20)) 6) 258 256 e.1) [] ∧ tallySat (idle1.tally 15) 5 = false := by
  refine ⟨idle1_awake, idle1_sound, idle1_untraced, by decide +kernel, by decide +kernel, by decide +kernel, ?_, by decide⟩
  simp only [List.mem_cons, List.not_mem_nil, or_false] at he
  obtain rfl | rfl := he <;> exact admitted none (by decide +kernel)

theorem witness_RunAndDispatchMakeTheirContextRunnable_1 :
    idle1.awake ∧ idle1.untraced ∧ idle1.admits 0 0 (withOp (head 0 7) 1) [] ∧ idle1.ctx (hContext (withOp (head 0 7) 1)) = some {} ∧
      idle1.running ({} : Ctx).seq = none :=
  ⟨idle1_awake, idle1_untraced, admitted none (by decide +kernel), by decide +kernel, by decide +kernel⟩

/-- Two experts, hidden rows of 32 elements, logits of 2, one copy a row. -/
def tinyLayer : Layer :=
  { keySource := 0, scoreScale := 0x3F800000, e := 2, g := 1, kg := 1, d := 16, keyFmt := 0, affinity := 0, twoStage := false, earlyAllowed := false
    streamed := false, slot := 0, slotOff := 0, skipThreshold := 0, routedScale := 0x3F800000, borrowLimit := 0, gl := 1, kl := 1, limitScore := false
    groupLimited := false, borrow := false, skipEnable := false, normalize := false, sharedCount := 1, fallbackK := 0, topK := 1, dispatchPour := 1
    returnPour := 3, expertBase := 0, hiddenDim := 32, hiddenFmt := 0, answerFmt := 0, copyStride := 128, splitMin := 0, rsvd := 0 }

/-- One layer of two experts at node 9, over runner port 0 path 0, and one hosted flask whose source is node 9. -/
def tinyPlan : Plan :=
  { host := 0, state := 2, bytes := 0, base := 0, crc := 0, stamp := 0, window := 0, layers := [tinyLayer], experts := [(1, 0), (1, 1)]
    replicas := [⟨9, 0, 4, 0, 0, 16, 0⟩, ⟨9, 1, 4, 0, 0, 32, 0⟩], dests := [⟨9, 5, 1, 0, 0⟩], runners := [⟨0, 0, 0⟩], buckets := [], budgets := []
    flasks := [{ expert := 0, layer := 0, drag := false, inHbm := false, hbmWindow := 0, baseWord := 64, capacity := 4, pool := 0, stride := 128
                 sourceList := 0, answerWindow := 5, answerWord := 0, answerStride := 128, returnTally := 3, rsvd := 0 }]
    sources := [(0, ⟨false, 1024, 0, [⟨9, 0, 4, 0⟩, ⟨10, 4, 4, 0⟩]⟩)] }

def planned : State :=
  { sets idle1 [(Reg.stitchWays, 0, 1)] with
    plans := [(0, tinyPlan)], layerStates := [(0, { usable := true })], ctxs := [(1, { pattern := 8 })], nextUid := 4 }

/-- The payload of a DISPATCH of one row, session 0, logits at 128 and hidden values at 192. -/
def rowPayload : List Byte := leBytes 64 (1 + 64 * 2 ^ 32 + 128 * 2 ^ 64 + 64 * 2 ^ 96 + 192 * 2 ^ 128 + 128 * 2 ^ 160) ++ List.replicate 256 0
def rowHead : Word512 := head 320 (1 + 1 * 2 ^ 36 + 32 * 2 ^ 56)

theorem witness_RunAndDispatchMakeTheirContextRunnable_2 :
    planned.awake ∧ planned.untraced ∧ planned.admits 0 0 (withOp rowHead 2) rowPayload ∧
      planned.ctx (hContext (withOp rowHead 2)) = some { pattern := 8 } ∧ planned.running ({ pattern := 8 } : Ctx).seq = none :=
  ⟨⟨by decide +kernel, by decide +kernel⟩, by unfold State.untraced; decide +kernel, admitted (some tinyLayer) (by decide +kernel), by decide +kernel, by decide +kernel⟩

/-- One plain descriptor: an element of 8 bytes from host address 0x1000 to 0x2000. -/
def oneDesc : List Byte := leBytes 128 (0x1000 * 2 ^ 960 + 0x2000 * 2 ^ 896 + (1 + 2 ^ 24 + 2 ^ 48 + 2 ^ 72 + 2 ^ 96) * 2 ^ 776 + 3 * 2 ^ 122)

theorem fst_zero {α : Type} {x : Nat × α} (h : x.1 = 0) : ∃ r, x = (0, r) := ⟨x.2, by rw [← h]⟩

def copyState : State :=
  { runs 1 { still with copy := ⟨1, 1, 2, 0, 1, 1, 0⟩ } with mem := Tab.writeBytes 0 [] (2 ^ 20 + 64) oneDesc }
theorem copyState_issues : (copyState.issueOf 0).isSome = true := by decide +kernel

theorem witness_CopyAndSharedSlotsHandOver_1 :
    let i := (copyState.issueOf 0).get copyState_issues
    copyState.awake ∧ copyState.sound ∧ copyState.issues 0 i ∧ i.goesOn ∧ i.w.a.quiet ∧ i.w.b.quiet ∧ i.exec 1 = true ∧
      i.w.copy = ⟨1, 1, 2, 0, 1, 1, 0⟩ ∧ i.exec i.w.score.guard = false ∧ i.exec i.w.tally.guard = false ∧
      (i.exec i.w.stitch.guard = true → i.w.stitch.op = 1) ∧ i.c.suppress ≤ i.c.effectCount ∧
      i.place false (i.reg 2).toNat (128 * (0 + 1)) = some (.mem 64) ∧ copyState.placeRead i (.mem 64) (128 * (0 + 1)) = some oneDesc ∧
      ∃ runs, copyState.slotAccepts i oneDesc (0 + 1) runs := by
  refine ⟨⟨by decide +kernel, by decide +kernel⟩, ⟨by decide +kernel, by decide +kernel⟩,
    ⟨(Option.some_get _).symm, by decide +kernel, by decide +kernel⟩, ?_, ?_, ?_, by decide +kernel, by decide +kernel, by decide +kernel,
    by decide +kernel, by decide +kernel, by decide +kernel, by decide +kernel, by decide +kernel, fst_zero (by decide +kernel)⟩
  · unfold Issue.goesOn; decide +kernel
  · unfold ScalarSlot.quiet; decide +kernel
  · unfold ScalarSlot.quiet; decide +kernel

/-- The block of a DISPATCH of one row with one shared output. -/
def oneBlock : Block :=
  { uid := 0, host := 0, heat := 0, rows := 1, hiddenDim := 32, resultFmt := 0, answerFmt := 0, topK := 1, sharedCount := 1, split := false, splitAt := 1
    returnPour := 3, stitchTally := 4, a := 64, s := 64, base := 0, bytes := 320 }

def sharedState : State :=
  { runs 2 { still with stitch := ⟨1, 2, 2, 0⟩ } with
    mem := Tab.writeBytes 0 [] (2 ^ 20 + 64) (leBytes 32 (0x1000 * 2 ^ 192 + 64 * 2 ^ 168 + 1 * 2 ^ 143))
    ctxs := [(1, { runCtx with wide := 15 })], blocks := [(1, oneBlock)] }
theorem sharedState_issues : (sharedState.issueOf 0).isSome = true := by decide +kernel

theorem witness_CopyAndSharedSlotsHandOver_2 :
    let i := (sharedState.issueOf 0).get sharedState_issues
    sharedState.awake ∧ sharedState.sound ∧ sharedState.issues 0 i ∧ i.goesOn ∧ i.w.a.quiet ∧ i.w.b.quiet ∧ i.exec 1 = true ∧
      i.w.stitch = ⟨1, 2, 2, 0⟩ ∧ i.exec i.w.select.guard = false ∧ i.exec i.w.pour.guard = false ∧ i.exec i.w.score.guard = false ∧
      i.exec i.w.copy.guard = false ∧ i.exec i.w.tally.guard = false ∧ sharedState.xlt i.k.host (i.reg 2).toNat 32 false = some (.noc (2 ^ 20 + 64)) ∧
      sharedState.memBad (2 ^ 20 + 64) 32 = 0 ∧ sharedState.sharedRefused i.x i.uid (sharedState.memRead (2 ^ 20 + 64) 32) = false := by
  refine ⟨⟨by decide +kernel, by decide +kernel⟩, ⟨by decide +kernel, by decide +kernel⟩,
    ⟨(Option.some_get _).symm, by decide +kernel, by decide +kernel⟩, ?_⟩
  unfold Issue.goesOn ScalarSlot.quiet
  decide +kernel

def copyHead : Word512 := head 128 1

theorem witness_CopyCommandsGoToTheMould :
    idle1.awake ∧ idle1.untraced ∧ idle1.admits 0 0 (withOp copyHead 3) oneDesc ∧
      ∃ runs, idle1.checkCopyDescs { uid := idle1.nextUid, host := 0, ring := 0, heat := (idle1.fetched 0 0 (withOp copyHead 3) oneDesc).heat }
        ((chunks 128 ((idle1.fetched 0 0 (withOp copyHead 3) oneDesc).payload.length + 1)
          (idle1.fetched 0 0 (withOp copyHead 3) oneDesc).payload).map mdescOf) = (0, runs) :=
  ⟨idle1_awake, idle1_untraced, admitted none (by decide +kernel), fst_zero (by decide +kernel)⟩

/-- A TALLY_WAIT in flight before it in its ring. -/
def waiting1 : State :=
  { idle1 with cmds := [(0, { runCmd 6 with ctx := 2 })], rings := [(0, { state := 1, submitTail := 9, rob := [0] })], nextUid := 1 }

theorem witness_FenceWaitsAndCancelAdvancesTheHeat_1 :
    idle1.awake ∧ idle1.untraced ∧ (∀ u ∈ (idle1.ring 0).rob, u < idle1.nextUid) ∧ idle1.admits 0 0 (withOp (head 0 0) 4) [] ∧
      (∀ u ∈ (idle1.ring 0).rob, ∃ k, idle1.cmd u = some k ∧ k.ready = true) :=
  have e : (idle1.ring 0).rob = [] := by decide +kernel
  ⟨idle1_awake, idle1_untraced, by simp [e], admitted none (by decide +kernel), by simp [e]⟩

theorem witness_FenceWaitsAndCancelAdvancesTheHeat_2 :
    waiting1.awake ∧ waiting1.untraced ∧ (∀ u ∈ (waiting1.ring 0).rob, u < waiting1.nextUid) ∧ waiting1.admits 0 0 (withOp (head 0 0) 4) [] ∧
      (∃ u ∈ (waiting1.ring 0).rob, ∃ k, waiting1.cmd u = some k ∧ k.ready = false ∧ hOp k.header ≠ 4 ∧ hOp k.header ≠ 5) :=
  ⟨⟨by decide +kernel, by decide +kernel⟩, by unfold State.untraced; decide +kernel, by decide +kernel, admitted none (by decide +kernel),
    0, by decide +kernel, _, rfl, by decide +kernel, by decide +kernel, by decide +kernel⟩

theorem witness_FenceWaitsAndCancelAdvancesTheHeat_3 :
    waiting1.awake ∧ waiting1.untraced ∧ (∀ u ∈ (waiting1.ring 0).rob, u < waiting1.nextUid) ∧ waiting1.admits 0 0 (withOp (head 0 0) 5) [] ∧
      waiting1.ctx (hContext (withOp (head 0 0) 5)) = some {} ∧ ∀ p ∈ waiting1.cmds, p.2.ctx = hContext (withOp (head 0 0) 5) → p.2.ready = true :=
  ⟨⟨by decide +kernel, by decide +kernel⟩, by unfold State.untraced; decide +kernel, by decide +kernel, admitted none (by decide +kernel),
    by decide +kernel, by decide +kernel⟩

/-- Group 0 of two members at this node. -/
def grouped : State :=
  { sets idle1 [(Reg.groupEnable, 0, 1), (Reg.groupStatus, 0, 2), (Reg.groupHost, 0, 0)] with groups := [(0, { members := [6, 9] })] }
def collPayload : List Byte := leBytes 64 (0x1000 * 2 ^ 448 + 0x2000 * 2 ^ 384 + 1024 * 2 ^ 352 + 3 * 2 ^ 340)

theorem witness_CollectivesQueueInTheirGroup :
    grouped.awake ∧ grouped.untraced ∧ grouped.admits 0 0 (withOp (head 64 0) 7) (withCollOp collPayload 3) ∧ 64 ≤ collPayload.length ∧
      64 ≤ hPayloadBytes (withOp (head 64 0) 7) :=
  ⟨⟨by decide +kernel, by decide +kernel⟩, by unfold State.untraced; decide +kernel, admitted none (by decide +kernel), by decide +kernel, by decide +kernel⟩

theorem witness_BiasSetArmsAndParkSetsTheTolerance_1 :
    planned.awake ∧ planned.untraced ∧ planned.admits 0 0 (withOp (head 4 (1 * 2 ^ 24)) 8) (List.replicate 4 0) :=
  ⟨⟨by decide +kernel, by decide +kernel⟩, by unfold State.untraced; decide +kernel, admitted (some tinyLayer) (by decide +kernel)⟩

theorem witness_BiasSetArmsAndParkSetsTheTolerance_2 :
    idle1.awake ∧ idle1.untraced ∧ idle1.admits 0 0 (withOp (head 0 (2 ^ 32 - 1)) 0xA) [] ∧
      idle1.ctx (hContext (withOp (head 0 (2 ^ 32 - 1)) 0xA)) = some {} ∧ ({} : Ctx).residency ≠ 1 :=
  ⟨idle1_awake, idle1_untraced, admitted none (by decide +kernel), by decide +kernel, by decide +kernel⟩

/-- A transfer of n bytes at offset 64 of window 5 of node 6, which is this node. -/
def xferHead (payload n : Nat) : Word512 := head payload (6 + 5 * 2 ^ 20 + 64 * 2 ^ 36 + n * 2 ^ 88)

theorem witness_TransfersAndAtomicsOnThisNode_1 :
    idle1.awake ∧ idle1.untraced ∧ idle1.admits 0 0 (withOp (xferHead 0 100) 0x10) [] ∧ hNode (withOp (xferHead 0 100) 0x10) = idle1.nodeId ∧
      idle1.nodeId ≠ 0 ∧ idle1.xltRemote 5 idle1.nodeId 4 64 100 = some (0, 2 ^ 20 + 64) ∧ idle1.memBad (2 ^ 20 + 64) 100 = 0 ∧
      hWindow (withOp (xferHead 0 100) 0x10) = 5 ∧ hOffset (withOp (xferHead 0 100) 0x10) = 64 ∧ hLength (withOp (xferHead 0 100) 0x10) = 100 :=
  ⟨idle1_awake, idle1_untraced, admitted none (by decide +kernel), by decide +kernel, by decide +kernel, by decide +kernel, by decide +kernel,
    by decide +kernel, by decide +kernel, by decide +kernel⟩

theorem witness_TransfersAndAtomicsOnThisNode_2 :
    idle1.awake ∧ idle1.untraced ∧ idle1.admits 0 0 (withOp (xferHead 100 100) 0x11) (List.replicate 100 7) ∧
      hNode (withOp (xferHead 100 100) 0x11) = idle1.nodeId ∧ idle1.nodeId ≠ 0 ∧
      hLength (withOp (xferHead 100 100) 0x11) ≤ (idle1.fetched 0 0 (withOp (xferHead 100 100) 0x11) (List.replicate 100 7)).payload.length ∧
      idle1.xltRemote (hWindow (withOp (xferHead 100 100) 0x11)) idle1.nodeId 8 (hOffset (withOp (xferHead 100 100) 0x11))
        (hLength (withOp (xferHead 100 100) 0x11)) = some (0, 2 ^ 20 + 64) ∧ idle1.memBad (2 ^ 20 + 64) 100 = 0 :=
  ⟨idle1_awake, idle1_untraced, admitted none (by decide +kernel), by decide +kernel, by decide +kernel, by decide +kernel, by decide +kernel, by decide +kernel⟩

/-- COMPARE_SWAP, the operation with the longest operand. -/
def casHead : Word512 := withField (withOp (xferHead 16 16) 0x12) 343 340 6

theorem witness_TransfersAndAtomicsOnThisNode_3 :
    idle1.awake ∧ idle1.untraced ∧ idle1.admits 0 0 casHead (List.replicate 16 0) ∧ hNode casHead = idle1.nodeId ∧ idle1.nodeId ≠ 0 ∧
      hLength casHead ≤ (idle1.fetched 0 0 casHead (List.replicate 16 0)).payload.length ∧
      idle1.xltRemote (hWindow casHead) idle1.nodeId 16 (hOffset casHead) 8 = some (0, 2 ^ 20 + 64) ∧ idle1.memBad (2 ^ 20 + 64) 8 = 0 :=
  ⟨idle1_awake, idle1_untraced, admitted none (by decide +kernel), by decide +kernel, by decide +kernel, by decide +kernel, by decide +kernel, by decide +kernel⟩

def probeHead : Word512 := withField (withOp (xferHead 8 8) 0x12) 343 340 15

theorem witness_TransfersAndAtomicsOnThisNode_4 :
    idle1.awake ∧ idle1.untraced ∧ idle1.admits 0 0 probeHead (leBytes 8 64) ∧ hNode probeHead = idle1.nodeId ∧ idle1.nodeId ≠ 0 ∧
      4 ≤ (idle1.fetched 0 0 probeHead (leBytes 8 64)).payload.length ∧
      idle1.xltRemote (hWindow probeHead) idle1.nodeId 4 (hOffset probeHead) (leAt (idle1.fetched 0 0 probeHead (leBytes 8 64)).payload 0 4) =
        some (0, 2 ^ 20 + 64) :=
  ⟨idle1_awake, idle1_untraced, admitted none (by decide +kernel), by decide +kernel, by decide +kernel, by decide +kernel, by decide +kernel⟩

/-- Ring 0 holds a RUN of pattern 7 in its first slot. -/
def slotted : State := { idle1 with mem := Tab.writeBytes 0 [] (2 ^ 20) (leBytes 64 (withOp (head 0 7) 1).toNat) }

theorem witness_CommandFetchReadsTheRing :
    slotted.awake ∧ slotted.sound ∧ slotted.untraced ∧ hOp (withOp (head 0 7) 1) = 1 ∧ slotted.admits 0 0 (withOp (head 0 7) 1) [] ∧
      slotted.ringHolds 0 0 (slotted.ring 0).submitHead 64 (leBytes 64 (withOp (head 0 7) 1).toNat) ∧
      slotted.ringHolds 0 0 ((slotted.ring 0).submitHead + 1) (hPayloadBytes (withOp (head 0 7) 1)) [] ∧
      (∀ p ∈ slotted.cmds, hOp p.2.header = 9 → p.2.ready = true) ∧ slotted.ctx (hContext (withOp (head 0 7) 1)) = some {} ∧
      slotted.running ({} : Ctx).seq = none := by
  have e1 : slotted.xlt 0 (slotted.rd Reg.submitBase 0 + (slotted.ring 0).submitHead % slotted.submitSlots 0 * 64) 64 false = some (.noc (2 ^ 20)) := by
    decide +kernel
  have e2 : slotted.xlt 0 (slotted.rd Reg.submitBase 0 + ((slotted.ring 0).submitHead + 1) % slotted.submitSlots 0 * 64) 0 false =
    some (.noc (2 ^ 20 + 64)) := by decide +kernel
  have n : hPayloadBytes (withOp (head 0 7) 1) = 0 := by decide +kernel
  have m1 : min 64 (slotted.submitSlots 0 * 64 - (slotted.ring 0).submitHead % slotted.submitSlots 0 * 64) = 64 := by decide +kernel
  refine ⟨⟨by decide +kernel, by decide +kernel⟩, ⟨by decide +kernel, by decide +kernel⟩, by unfold State.untraced; decide +kernel, by decide +kernel,
    admitted none (by decide +kernel), ?_, ?_, by decide +kernel, by decide +kernel, by decide +kernel⟩
  · unfold State.ringHolds State.hostHolds
    simp only [m1, if_true, e1]
    decide +kernel
  · unfold State.ringHolds State.hostHolds
    simp only [n, Nat.zero_min, if_true, e2]
    decide +kernel

/-- A RUN of ring 0 that is ready, oldest in its ring, with its DoneTally 5. -/
def posted : State :=
  { idle1 with
    cmds := [(0, { runCmd 1 with header := BitVec.ofNat 512 (1 + 5 * 2 ^ 192 + 2 ^ 209), ready := true })]
    rings := [(0, { state := 1, submitTail := 9, rob := [0] })], nextUid := 1 }

theorem witness_CompletionPostWritesTheFields_1 :
    let k : Cmd := { runCmd 1 with header := BitVec.ofNat 512 (1 + 5 * 2 ^ 192 + 2 ^ 209), ready := true }
    posted.awake ∧ posted.sound ∧ posted.untraced ∧ posted.works 0 = true ∧ (posted.ring 0).rob = [0] ∧ posted.cmd 0 = some k ∧ k.ready = true ∧
      (posted.ring 0).state ≠ 3 ∧ (posted.ring 0).closing = false ∧ k.resultNow = 0 ∧
      posted.storable k.host (posted.rd Reg.completionBase 0 + (posted.ring 0).complTail % posted.complSlots 0 * 32) 32 ∧ hNotify k.header = false ∧
      posted.tallyFlip = [] ∧ posted.tallyBad = [] ∧
      (hDoneTallyEnable k.header && !k.denied && !isRefusal k.status && posted.tallyOwned k.host (hDoneTally k.header)) = true := by
  have e : posted.xlt 0 (posted.rd Reg.completionBase 0 + (posted.ring 0).complTail % posted.complSlots 0 * 32) 32 true = some (.noc (2 ^ 20)) := by
    decide +kernel
  refine ⟨⟨by decide +kernel, by decide +kernel⟩, ⟨by decide +kernel, by decide +kernel⟩, by unfold State.untraced; decide +kernel, by decide +kernel,
    by decide +kernel, by decide +kernel, rfl, by decide +kernel, by decide +kernel, by decide +kernel, ?_, by decide +kernel, by decide +kernel,
    by decide +kernel, by decide +kernel⟩
  show posted.storable 0 _ 32
  unfold State.storable
  rw [e]
  decide +kernel

theorem witness_CompletionPostWritesTheFields_2 :
    let k : Cmd := { runCmd 1 with status := 255, ctx := 2 ^ 16 - 1, readyTick := 2 ^ 48 - 1, heat := 2 ^ 16 - 1, modes := 2 ^ 16 - 1, resultBytes := 2 ^ 32 - 1 }
    k.status < 2 ^ 8 ∧ k.ctx < 2 ^ 16 ∧ k.readyTick < 2 ^ 48 ∧ k.heat < 2 ^ 16 ∧ k.modes < 2 ^ 16 ∧ k.resultNow < 2 ^ 32 := by decide +kernel

end Sys2Proof.Tests
end

section
/-! SUPPORT. The sleep states entered and left (R14, R487 to R490, R496 to R498). Each row's operation is first brought to the one that does its work (`reach`, `goDormant`, `wake`, `leaveDormant`, `restart`), whose lemma under Laws says what it leaves. -/

namespace Sys2Proof.Machine

/-! ## A row whose operation is known, up to the interrupt pins -/

/-- A row runs to what its operation leaves, with some value on the interrupt pins, where no step boundary waits to be told. -/
theorem runs_to {i : Instr} {s u : State} {P : State → Prop} (hi : exec i s = .next (State.settle u))
    (h : ∀ t, u = t → t.boundaries = [] ∧ ∀ k, P { t with krdInt := k }) : Runs i s P := by
  obtain ⟨told, holds⟩ := h u rfl
  have e : u.pinned = { u with krdInt := u.intPins } := by unfold State.pinned; rw [← told]
  exact runs_direct hi told (by rw [e]; exact holds _)

/-! ## Entering a sleep state (R489, R496) -/

/-- A shallow sleep is entered: its row reaches the state, and changes nothing but what counts the power states (R489). -/
theorem runs_reach {i : Instr} {s u : State} {n : Nat} (hi : exec i s = .next (State.settle u)) (hr : u = s.reach n)
    (hb : s.boundaries = []) (hu : s.untraced) : Runs i s fun t => s.asleepIn n t ∧
      s.keepsObjects t [(Reg.powerState, 0), (Reg.stateTicks, s.power), (Reg.stateEntries, n)] ∧
      t = { s with objs := t.objs, stateSince := s.tick, quietSince := s.tick, krdInt := t.krdInt } :=
  runs_to hi fun t ht => by
    obtain ⟨asleep, keeps, frame⟩ := State.reach_spec s n hu t (hr.symm.trans ht)
    exact ⟨by rw [frame]; exact hb, fun k => ⟨asleep, keeps, congrArg (fun w : State => { w with krdInt := k }) frame⟩⟩

theorem State.mayEnter_dormant {s : State} (h : s.mayEnter 4 = true) : s.dormantUnset = false := by
  unfold State.mayEnter at h
  simp only [Bool.and_eq_true] at h
  simpa using h.2

/-- With no Live peer nothing is announced. -/
theorem State.announceSleep_none {s : State} (h : ∀ p ∈ s.peers, p.2.state ≠ 2) : s.announceSleep = s := by
  have e : s.peers.filter (fun p => p.2.state == 2) = [] := by
    rw [List.filter_eq_nil_iff]
    intro p hp
    simpa using h p hp
  unfold State.announceSleep
  rw [e]
  rfl

/-- With no announcement out and no peer Leaving, no answer is awaited. -/
theorem State.sleepAnswered_none {s : State} (h : ∀ p ∈ s.peers, p.2.state ≠ 3 ∧ p.2.sleepSent = false) : s.sleepAnswered = true := by
  unfold State.sleepAnswered
  rw [List.all_eq_true]
  intro p hp
  simp [h p hp]

/-- With no peer to tell, a Dormant entry goes through all its steps at once (R496). -/
theorem State.dormantEntry_goes {s : State} (hm : s.mayEnter 4 = true) (hd : s.elapsed s.quietSince (s.rd Reg.dormantDelayTicks 0) = true)
    (hp : ∀ p ∈ s.peers, p.2.state ≠ 2 ∧ p.2.state ≠ 3 ∧ p.2.sleepSent = false) : s.dormantEntry = s.goDormant := by
  unfold State.dormantEntry
  rw [if_pos ⟨hm, hd⟩, State.announceSleep_none fun p h => (hp p h).1]
  simp only [ite_self, State.sleepAnswered_none fun p h => (hp p h).2, if_true]

/-! ## Waking (R490) -/

theorem State.rouse_shallow {s : State} (h : s.power = 1 ∨ s.power = 2 ∨ s.power = 3) (he : s.entering = false) : s.rouse = s.wake := by
  unfold State.rouse
  rw [if_neg (by omega), he, if_neg Bool.false_ne_true]

theorem State.rouse_dormant {s : State} (h : s.power = 4) (hm : s.mainReq = false) :
    s.rouse = { s with mainReq := true, bootTick := s.tick, out := .pin 0 0 1 :: s.out } := by
  unfold State.rouse State.wakeDormant
  rw [if_pos h, if_pos ⟨h, by rw [hm]; rfl⟩]
  rfl

theorem State.wakeTrigger_shallow {s : State} (h : s.power = 1 ∨ s.power = 2 ∨ s.power = 3) (he : s.entering = false) :
    s.wakeTrigger = s.wake := by
  unfold State.wakeTrigger State.stir
  rw [if_neg (by omega), if_neg (by omega), State.rouse_shallow h he]

theorem State.wakeAt_due {s : State} (h0 : s.tick ≠ 0) (h : s.rd Reg.wakeAtTick 0 = s.tick) : s.wakeAt = s.rouse := by
  unfold State.wakeAt
  rw [if_pos ⟨by rw [h]; exact h0, h⟩]

/-- A row that wakes the engine from a shallow sleep. -/
theorem runs_wake {i : Instr} {s u : State} {p : Nat} (hi : exec i s = .next (State.settle u)) (hw : u = s.wake) (hp : p = s.power)
    (h : p = 1 ∨ p = 2 ∨ p = 3) (hb : s.boundaries = []) : Runs i s (s.wokenFrom p) :=
  runs_to hi fun t ht => by
    obtain ⟨power, ticks, entries, longest, keeps, frame⟩ := State.wake_spec s p hp h
    rw [hw] at ht
    rw [ht] at power ticks entries longest keeps frame
    exact ⟨by rw [frame]; exact hb, fun k => ⟨power, ticks, entries, longest, keeps, congrArg (fun w : State => { w with krdInt := k }) frame⟩⟩

/-! ## Leaving Dormant (R497, R498) -/

theorem State.servePages_none {s : State} (h : s.heldPages = []) : s.servePages = s := by
  unfold State.servePages
  rw [h, List.foldl_nil, ← h]

theorem State.applyLatch_none {s : State} (h : s.doorLatch = []) : s.applyLatch = s := by
  unfold State.applyLatch
  rw [h, List.foldl_nil, ← h]

theorem State.subsAwake_none {s : State} (h : s.subs = []) : s.subsAwake = s := by
  unfold State.subsAwake
  rw [h]
  rfl

theorem State.serveHeldAap_none {s : State} (h : s.heldAap = []) : s.serveHeldAap = s := by
  unfold State.serveHeldAap
  rw [h, List.foldl_nil, ← h]

theorem State.exitReady_power {s : State} (h : s.exitReady = true) : s.power = 4 := by
  unfold State.exitReady at h
  simp only [Bool.and_eq_true, beq_iff_eq] at h
  obtain ⟨⟨⟨h4, -⟩, -⟩, -⟩ := h
  exact h4

/-- After an exit that leaves no subscription nothing is notified, and with no message held none is answered. -/
theorem State.exitRow_of {s t : State} (ht : s.dormantExit = t) (hs : t.subs = []) (ha : t.heldAap = []) (hsa : s.heldAap = []) : s.exitRow = t := by
  unfold State.exitRow
  dsimp only
  rw [ht, State.subsAwake_none hs, hsa]
  split
  · have e : ({ t with heldAap := [] } : State) = t := by rw [← ha]
    rw [e, State.serveHeldAap_none ha]
  · rfl

/-- The exit restores the engine where the saved images agree with their record, and nothing waited for it (R497). -/
theorem State.exitRow_restores {s : State} (hr : s.exitReady = true) (hg : s.savedGood = true) (hp : ∀ p ∈ s.peers, p.2.state ≠ 2)
    (hk : ∀ q n, (s.layerState q n).usable = false) (hu : s.untraced) (hl : s.doorLatch = []) (hh : s.heldPages = []) (hs : s.subs = [])
    (ha : s.heldAap = []) : s.exitRow = s.leaveDormant := by
  obtain ⟨-, -, -, -, frame⟩ := State.leaveDormant_spec s hu hp hk _ rfl
  refine State.exitRow_of ?_ (by rw [frame]; exact hs) (by rw [frame]; exact ha) ha
  unfold State.dormantExit
  rw [if_pos hr, if_pos hg, State.applyLatch_none (by rw [frame]; exact hl), State.servePages_none (by rw [frame]; exact hh)]

/-- The landing store after an exit holds the bytes of the buffers that hosts hold, and no others (R497). -/
theorem State.landingKept_find (s : State) (a : Nat) : Tab.find s.landingKept.landing a =
    if s.heldBuffers.any (fun b => decide (b.1 ≤ a) && decide (a < b.1 + b.2)) then Tab.find s.landing a else none :=
  Tab.find_keep_key s.landing (fun k => s.heldBuffers.any fun b => decide (b.1 ≤ k) && decide (k < b.1 + b.2)) a

/-- The power state is cleared by a restart, and the count of failed Dormant exits kept (R498, R545). -/
theorem powerState_cleared : keepKey (Reg.powerState.key 0) = false ∧ carriedKey (Reg.powerState.key 0) = false := by
  decide +kernel

theorem dormantRestoreFailures_kept : keepKey (Reg.dormantRestoreFailures.key 0) = true := by decide +kernel

/-- A failed exit ends as a warm reset leaves the engine, and is counted (R498). -/
theorem State.restartFailed_spec {s t : State} (hpages : s.heldPages = []) (ht : (s.inc Reg.dormantRestoreFailures 0 1).restart = t) :
    t.rd Reg.incarnation 0 = (s.rd Reg.incarnation 0 + 1) % 2 ^ 16 ∧ t.power = 0 ∧ t.rd Reg.bootState 0 = 2 ∧
      t.rd Reg.dormantRestoreFailures 0 = (s.rd Reg.dormantRestoreFailures 0 + 1) % 2 ^ 64 ∧ t.tallies = [] ∧ t.plans = [] ∧
      t.patterns = [] ∧ t.peers = [] ∧ t.mem = s.mem ∧ t.heldPages = [] ∧ t.subs = [] ∧ t.heldAap = [] ∧ t.boundaries = [] := by
  have hfrom : RestartsFrom s (s.inc Reg.dormantRestoreFailures 0 1) :=
    restartsFrom_wr (restartsFrom_refl s) (by simp) (rfl : _ = s.wr Reg.dormantRestoreFailures 0 _)
  obtain ⟨incarnation, boot, cleared, -, tallies, -, plans, patterns, peers, -, -, subs, -, -, -, -, mem, -, -, pages, told, aap, -, kept⟩ :=
    State.restart_spec hfrom hpages t ht
  refine ⟨incarnation, cleared _ _ powerState_cleared.1 powerState_cleared.2 (by decide), boot, ?_, tallies, plans, patterns, peers, mem,
    pages, subs, aap, told⟩
  rw [kept _ _ (.inl dormantRestoreFailures_kept) (by decide) (by decide), State.rd_inc_same]
  rfl

/-- The exit restarts the engine where the saved images differ from their record (R498). -/
theorem State.exitRow_restarts {s : State} (hr : s.exitReady = true) (hg : s.savedGood = false) (hh : s.heldPages = [])
    (ha : s.heldAap = []) : s.exitRow = (s.inc Reg.dormantRestoreFailures 0 1).restart := by
  obtain ⟨-, -, -, -, -, -, -, -, -, pages, subs, aap, -⟩ := State.restartFailed_spec hh rfl
  refine State.exitRow_of ?_ subs aap ha
  unfold State.dormantExit
  rw [if_pos hr, if_neg (by rw [hg]; exact Bool.false_ne_true), State.servePages_none pages]

/-! ## The statement -/

/-- Settles O34: each row comes down to one operation whose lemma says what it leaves. -/
theorem sleepStatesAreEnteredAndLeft : Obligations.SleepStatesAreEnteredAndLeft := by
  unfold Obligations.SleepStatesAreEnteredAndLeft
  intro s hz hb hu
  refine ⟨?_, ?_, ?_, ?_, ?_⟩
  · intro r n d hrow hmay hdelay
    simp only [List.mem_cons, Prod.mk.injEq, List.not_mem_nil, or_false] at hrow
    obtain ⟨rfl, rfl, rfl⟩ | ⟨rfl, rfl, rfl⟩ | ⟨rfl, rfl, rfl⟩ := hrow
    · exact runs_reach rfl (if_pos ⟨hmay, hdelay⟩) hb hu
    · exact runs_reach rfl (if_pos ⟨hmay, hdelay⟩) hb hu
    · exact runs_reach rfl (if_pos ⟨hmay, hdelay⟩) hb hu
  · intro hmay hdelay hpeers
    refine runs_to rfl fun t ht => ?_
    rw [State.dormantEntry_goes hmay hdelay hpeers] at ht
    obtain ⟨asleep, request, pins, ports, images, tallies, plans, rings, told, saved, keeps⟩ :=
      State.goDormant_spec s hu (State.mayEnter_dormant hmay) t ht
    exact ⟨told.trans hb, fun _ => ⟨asleep, request, pins, ports, images, tallies, plans, rings, saved, keeps⟩⟩
  · intro p hp
    constructor
    · intro hshallow hentry
      have hsp : s.power = 1 ∨ s.power = 2 ∨ s.power = 3 := hp ▸ hshallow
      exact ⟨runs_wake rfl (State.wakeTrigger_shallow hsp hentry) hp hshallow hb, fun h0 hat =>
        runs_wake rfl ((State.wakeAt_due h0 hat).trans (State.rouse_shallow hsp hentry)) hp hshallow hb⟩
    · intro h4 hreq h0 hat
      refine runs_to rfl fun t ht => ?_
      rw [State.wakeAt_due h0 hat, State.rouse_dormant (hp ▸ h4) hreq] at ht
      subst ht
      exact ⟨hb, fun _ => ⟨rfl, rfl⟩⟩
  · intro hready hpages haap
    constructor
    · intro hgood hlatch hsubs hpeers hkeys
      refine runs_to rfl fun t ht => ?_
      rw [State.exitRow_restores hready hgood hpeers hkeys hu hlatch hpages hsubs haap] at ht
      obtain ⟨asleep, calibrated, keeps, landing, frame⟩ := State.leaveDormant_spec s hu hpeers hkeys t ht
      rw [State.exitReady_power hready] at keeps
      refine ⟨by rw [frame]; exact hb, fun _ => ⟨asleep, calibrated, keeps, ?_⟩⟩
      rw [frame]
      exact ⟨rfl, rfl, rfl, rfl, rfl, rfl, rfl, rfl, fun a => by rw [landing]; exact s.landingKept_find a⟩
    · intro hgood
      refine runs_to rfl fun t ht => ?_
      rw [State.exitRow_restarts hready hgood hpages haap] at ht
      obtain ⟨incarnation, power, boot, failures, tallies, plans, patterns, peers, mem, -, -, -, told⟩ := State.restartFailed_spec hpages ht
      exact ⟨told, fun _ => ⟨incarnation, power, boot, failures, tallies, plans, patterns, peers, mem⟩⟩
  · refine runs_to rfl fun t ht => ?_
    subst ht
    exact ⟨hb, fun _ => rfl⟩

/-! ## States that meet the statement's hypotheses -/

/-- An idle engine in power state p, all units running, its conditions held since tick 0: one context, and an engine window wide enough for the images and the save image. -/
def sleeper (p : Nat) : State :=
  { [(Reg.bootState, 0, 3), (Reg.unitHalted, 0, 0), (Reg.powerState, 0, p), (Reg.maxSleepState, 0, 4), (Reg.wakeAtTick, 0, 2 ^ 30),
      (Reg.winEnable, 3840, 1), (Reg.winId, 3840, 9), (Reg.winLength, 3840, 2 ^ 27), (Reg.winTarget, 3840, 2 ^ 21),
      (Reg.contextImageWindow, 0, 9), (Reg.dormantSaveWindow, 0, 9)].foldl (fun s w => s.wr w.1 w.2.1 w.2.2) State.reset with
    tick := 2 ^ 30, ctxs := [(1, {})] }

/-- The engine in Dormant with the main rails back, the record of its save image given. -/
def exiting (saved : Tab Byte) : State := { sleeper 4 with mainReq := true, mainGood := true, saved := saved, savedAt := some (2 ^ 21, 2 ^ 24) }

theorem witness_SleepStatesAreEnteredAndLeft_entries : ∀ p < 4,
    (sleeper p).boundaries = [] ∧ (sleeper p).rd Reg.traceUnitMask 0 = 0 ∧ (sleeper p).mayEnter (p + 1) = true ∧
      (sleeper p).elapsed (sleeper p).quietSince ((sleeper p).rd Reg.dormantDelayTicks 0) = true ∧ (sleeper p).peers = [] := by decide +kernel

theorem witness_SleepStatesAreEnteredAndLeft_wakes : ∀ p < 5,
    (sleeper p).power = p ∧ (sleeper p).entering = false ∧ (sleeper p).mainReq = false ∧ (sleeper p).tick ≠ 0 ∧
      (sleeper p).rd Reg.wakeAtTick 0 = (sleeper p).tick := by decide +kernel

/-- One byte of the record is enough to tell a restored engine from a restarted one. -/
theorem witness_SleepStatesAreEnteredAndLeft_exits (b : Bool) :
    let s := exiting (if b then [] else [(2 ^ 21, 1#8)])
    s.exitReady = true ∧ s.heldPages = [] ∧ s.heldAap = [] ∧ s.savedGood = b ∧ s.doorLatch = [] ∧ s.subs = [] ∧ s.peers = [] ∧
      s.layerStates = [] := by
  cases b <;> decide +kernel

end Sys2Proof.Machine
end

section
/-! SUPPORT. Action writes of hosts and board management (R157, R162, R263, R270, R351, R355, R356, R419, R421). Each row is the effect of its accepted write: a register set, one table of records changed, or the probes of a survey queued. -/

namespace Sys2Proof.Machine

/-! ## The effect of each write -/

/-- The probes of a survey join the control queue in their order, each to SurveyNode by SurveyPort, and nothing but the queue and its running number changes (R263). -/
theorem State.foldl_queueProbe (port : Nat) : ∀ (l : List (Nat × Nat)) (s : State), ∃ recs : List SendRec,
    l.foldl (State.queueProbe port) s = { s with control := s.control ++ recs, queueSeq := s.queueSeq + l.length } ∧
      recs.map (·.udpSrc) = l.map some ∧
      ∀ r ∈ recs, r.frame.op = 0x20 ∧ r.frame.dst = s.rd Reg.surveyNode 0 ∧ r.route = some { port := port, path := 0 }
  | [], s => ⟨[], by simp, rfl, by simp⟩
  | p :: l, s => by
    obtain ⟨recs, hfold, hsrc, hrec⟩ := State.foldl_queueProbe port l (State.queueProbe port s p)
    refine ⟨s.probeRec port p :: recs, ?_, by simp [hsrc, State.probeRec], ?_⟩
    · rw [List.foldl_cons, hfold]
      simp [State.queueProbe, State.nextOrd, Nat.add_comm, Nat.add_left_comm]
    · rintro r (_ | ⟨_, hr⟩)
      · exact ⟨rfl, rfl, rfl⟩
      · exact hrec r hr

theorem State.maskArm_maskState_same (s : State) (p v : Nat) : (s.maskArm p v).maskState p = { s.maskState p with applyStep := v, armed := true } :=
  Tab.get_set_same _ _ _ _

theorem State.maskArm_maskState_ne (s : State) {p j : Nat} (v : Nat) (h : j ≠ p) : (s.maskArm p v).maskState j = s.maskState j :=
  Tab.get_set_ne _ _ _ _ (Ne.symm h)

theorem State.layerState_modLayer_same (s : State) (q l : Nat) (f : LayerState → LayerState) : (s.modLayer q l f).layerState q l = f (s.layerState q l) :=
  Tab.get_set_same _ _ _ _

theorem State.layerState_modLayer_ne (s : State) {q l q' l' : Nat} (f : LayerState → LayerState) (h : layerKey q' l' ≠ layerKey q l) :
    (s.modLayer q l f).layerState q' l' = s.layerState q' l' :=
  Tab.get_set_ne _ _ _ _ (Ne.symm h)

/-- The counts go to the snapshot and begin anew (R356). -/
theorem State.snapshotLoads_layerState_same (s : State) (q l : Nat) : (s.snapshotLoads q l).layerState q l =
    { s.layerState q l with load := [], snapshot := (s.layerState q l).loads (s.layerE q l) } := by
  unfold State.snapshotLoads State.takeLoads
  rw [State.layerState_modLayer_same, State.layerState_modLayer_same]

theorem State.snapshotLoads_layerState_ne (s : State) {q l q' l' : Nat} (h : layerKey q' l' ≠ layerKey q l) :
    (s.snapshotLoads q l).layerState q' l' = s.layerState q' l' := by
  unfold State.snapshotLoads State.takeLoads
  rw [State.layerState_modLayer_ne _ _ h, State.layerState_modLayer_ne _ _ h]

/-- A session watched reads its session and its three counters at 0 (R162). -/
theorem State.watchSessionWrite_rd (s : State) (i v : Nat) :
    (s.watchSessionWrite i v).rd Reg.watchSession i = v ∧ (s.watchSessionWrite i v).rd Reg.watchSkims i = 0 ∧
      (s.watchSessionWrite i v).rd Reg.watchSkips i = 0 ∧ (s.watchSessionWrite i v).rd Reg.watchFallbackRows i = 0 := by
  unfold State.watchSessionWrite
  refine ⟨?_, ?_, ?_, State.rd_wr_same _ _ _ _⟩
  · rw [State.rd_wr_other _ _ _ _ (by decide), State.rd_wr_other _ _ _ _ (by decide), State.rd_wr_other _ _ _ _ (by decide), State.rd_wr_same]
  · rw [State.rd_wr_other _ _ _ _ (by decide), State.rd_wr_other _ _ _ _ (by decide), State.rd_wr_same]
  · rw [State.rd_wr_other _ _ _ _ (by decide), State.rd_wr_same]

theorem State.watchSessionWrite_registers (s : State) (i v : Nat) : s.registers (s.watchSessionWrite i v) :=
  ((((State.registers.refl s).wr _ _ _).wr _ _ _).wr _ _ _).wr _ _ _

theorem State.watchSessionWrite_keeps (s : State) (i v : Nat) :
    s.keepsObjects (s.watchSessionWrite i v) [(Reg.watchSession, i), (Reg.watchSkims, i), (Reg.watchSkips, i), (Reg.watchFallbackRows, i)] :=
  ((((State.keepsObjects.refl s _).wr _ (by simp)).wr _ (by simp)).wr _ (by simp)).wr _ (by simp)

/-- The probes of the survey that the objects describe, in the order of source port, then hop limit (R263). -/
def State.surveyProbes (s : State) : List (Nat × Nat) :=
  ((List.range (s.rd Reg.surveyPortCount 0)).map (· + s.rd Reg.surveyPortFirst 0)).flatMap
    fun u => ((List.range (s.rd Reg.surveyHops 0)).map (· + 1)).map fun l => (u, l)

/-- The registers of a survey that starts: running, with no record (R263). -/
def State.surveyRegisters (s : State) : State := (s.wr Reg.surveyState 0 1).wr Reg.surveyRecords 0 0

theorem State.surveyRegisters_state (s : State) : s.surveyRegisters.rd Reg.surveyState 0 = 1 :=
  (State.rd_wr_other _ 0 0 0 (by decide)).trans (s.rd_wr_same _ _ _)

theorem State.surveyRegisters_records (s : State) : s.surveyRegisters.rd Reg.surveyRecords 0 = 0 := State.rd_wr_same _ _ _ _

theorem State.surveyRegisters_keeps (s : State) : s.keepsObjects s.surveyRegisters [(Reg.surveyState, 0), (Reg.surveyRecords, 0)] :=
  ((State.keepsObjects.refl s _).wr 1 (by simp)).wr 0 (by simp)

/-- What the start of a survey leaves (R263). -/
theorem State.surveyGo_spec (s : State) : ∃ recs : List SendRec,
    s.surveyGo = { s with objs := s.surveyRegisters.objs, probesSent := s.surveyProbes, surveyTick := s.tick, control := s.control ++ recs
                          queueSeq := s.queueSeq + s.surveyProbes.length } ∧
    recs.map (·.udpSrc) = s.surveyProbes.map some ∧
    ∀ r ∈ recs, r.frame.op = 0x20 ∧ r.frame.dst = s.rd Reg.surveyNode 0 ∧ r.route = some { port := s.rd Reg.surveyPort 0, path := 0 } := by
  obtain ⟨recs, hfold, hsrc, hrec⟩ := State.foldl_queueProbe (s.rd Reg.surveyPort 0) s.surveyProbes
    { s with objs := s.surveyRegisters.objs, probesSent := s.surveyProbes, surveyTick := s.tick }
  refine ⟨recs, hfold, hsrc, fun r hr => ?_⟩
  obtain ⟨hop, hdst, hroute⟩ := hrec r hr
  exact ⟨hop, hdst.trans (s.surveyRegisters_keeps Reg.surveyNode 0 (by decide)), hroute⟩

theorem State.rejoin_left {s : State} {b : Nat} (h : s.rd Reg.balanceState b = 2) : s.rejoin b = s.wr Reg.balanceState b 3 := if_pos h

theorem State.checkGo_begins {s : State} {i : Nat} (h : (s.xlt (i / 8) (s.rd Reg.checkAddr i) (s.rd Reg.checkBytes i) false).isSome = true) :
    s.checkGo i = s.wr Reg.checkStatus i 1 := by
  obtain ⟨loc, hloc⟩ := Option.isSome_iff_exists.1 h
  simp only [State.checkGo, hloc]

/-! ## Rows that are writes, by what the write changes -/

/-- What counting the op and settling the row leave of an accepted write's effect: registers and pins may differ, nothing else. -/
theorem State.counted.eq {s u z : State} (h : u.counted z) (hb : s.boundaries = []) :
    z = { u with objs := z.objs, krdInt := z.krdInt, boundaries := s.boundaries } := by rw [hb]; exact h.1

/-- A row whose accepted write leaves AapOps and the step boundaries as they are. -/
theorem writes_run_keeping {s : State} {p : Nat} {r : Instr} {o : Obj} {i v : Nat} {but : List (Obj × Nat)} {P : State → Prop}
    (hi : exec r s = .next (State.settle (s.regWrite p o i v))) (ha : s.awake) (hbut : ∀ b ∈ but, b.1.address ≠ Reg.aapOps.address)
    (h : ∀ q, ((s.seen q).applyWrite p o i v).boundaries = s.boundaries ∧ s.keepsObjects ((s.seen q).applyWrite p o i v) but ∧
      ∀ z, ((s.seen q).applyWrite p o i v).counted z → P z) : s.writeRuns p r o i v but P := by
  refine writes_run hi ha fun q _ => ?_
  obtain ⟨hbound, hkeeps, hP⟩ := h q
  exact ⟨hbound.trans ha.2, fun o j hj => hkeeps o j fun b hb => hj b (List.mem_cons_of_mem _ hb),
    hkeeps _ _ fun b hb => Obj.key_ne _ _ (hbut b hb), hP⟩

/-- A row whose accepted write changes no register. -/
theorem record_write {s : State} {p : Nat} {r : Instr} {o : Obj} {i v : Nat} {P : State → Prop} {f : State → State}
    (hi : exec r s = .next (State.settle (s.regWrite p o i v))) (ha : s.awake)
    (hap : ∀ q, (s.seen q).applyWrite p o i v = f (s.seen q)) (hobjs : ∀ u, (f u).objs = u.objs) (hbound : ∀ u, (f u).boundaries = u.boundaries)
    (h : ∀ q objs pins, P { f (s.seen q) with objs := objs, krdInt := pins, boundaries := s.boundaries }) : s.writeRuns p r o i v [] P := by
  refine writes_run_keeping hi ha (by simp) fun q => ?_
  rw [hap q]
  refine ⟨hbound _, (State.keepsObjects.refl s []).congr (State.rd_congr (hobjs (s.seen q))), fun z hz => ?_⟩
  rw [hz.eq ha.2]
  exact h q z.objs z.krdInt

/-! ## The rows -/

section
variable {s : State} {p i v : Nat}

theorem watchSession_writeRuns (ha : s.awake) :
    s.writeRuns p (.watchSession p i v) Reg.watchSession i v [(Reg.watchSession, i), (Reg.watchSkims, i), (Reg.watchSkips, i), (Reg.watchFallbackRows, i)]
      (fun t => t.rd Reg.watchSession i = v ∧ t.rd Reg.watchSkims i = 0 ∧ t.rd Reg.watchSkips i = 0 ∧ t.rd Reg.watchFallbackRows i = 0 ∧ s.onlyObjects t) := by
  refine writes_run_keeping rfl ha (by simp +decide) fun q => ?_
  rw [show (s.seen q).applyWrite p Reg.watchSession i v = (s.seen q).watchSessionWrite i v from rfl]
  have hregs := (s.seen q).watchSessionWrite_registers i v
  obtain ⟨hsession, hskims, hskips, hrows⟩ := (s.seen q).watchSessionWrite_rd i v
  refine ⟨(hregs.boundaries ha.2).trans ha.2.symm, (s.seen q).watchSessionWrite_keeps i v, fun z hz => ⟨?_, ?_, ?_, ?_, hregs.onlyObjects hz ha.2⟩⟩
  · rw [hz.rd _ (by decide), hsession]
  · rw [hz.rd _ (by decide), hskims]
  · rw [hz.rd _ (by decide), hskips]
  · rw [hz.rd _ (by decide), hrows]

theorem maskApplyStep_writeRuns (ha : s.awake) : s.writeRuns p (.maskApplyStep p i v) Reg.maskApplyStep i v [] (fun t =>
    t.maskState i = { s.maskState i with applyStep := v, armed := true } ∧ (∀ j, j ≠ i → t.maskState j = s.maskState j) ∧
      t = { s with masks := t.masks, objs := t.objs, quietSince := t.quietSince, krdInt := t.krdInt }) :=
  record_write (f := fun u => u.maskArm i v) rfl ha (fun _ => rfl) (fun _ => rfl) (fun _ => rfl) fun q _ _ =>
    ⟨(s.seen q).maskArm_maskState_same i v, fun _ hj => (s.seen q).maskArm_maskState_ne v hj, rfl⟩

theorem snapshotGo_writeRuns (ha : s.awake) : s.writeRuns p (.snapshotGo p) Reg.snapshotGo 0 1 [] (fun t => ∃ q l,
    q = s.query Reg.queryPlan p ∧ l = s.query Reg.queryLayer p ∧
      t.layerState q l = { s.layerState q l with load := [], snapshot := (s.layerState q l).loads (s.layerE q l) } ∧
      (∀ q' l', layerKey q' l' ≠ layerKey q l → t.layerState q' l' = s.layerState q' l') ∧
      t = { s with layerStates := t.layerStates, objs := t.objs, quietSince := t.quietSince, krdInt := t.krdInt }) :=
  record_write (f := fun u => u.snapshotLoads (s.query Reg.queryPlan p) (s.query Reg.queryLayer p)) rfl ha (fun _ => rfl) (fun _ => rfl) (fun _ => rfl)
    fun q _ _ => ⟨_, _, rfl, rfl, (s.seen q).snapshotLoads_layerState_same _ _, fun _ _ h => (s.seen q).snapshotLoads_layerState_ne h, rfl⟩

theorem ownerFlush_writeRuns (ha : s.awake) : s.writeRuns p (.ownerFlush p i) Reg.ownerFlush i 1 [] (fun t =>
    t.owners = s.owners.filter (fun e => e.1 / 2 ^ 16 != i) ∧
      t = { s with owners := t.owners, objs := t.objs, quietSince := t.quietSince, krdInt := t.krdInt }) :=
  record_write (f := fun u => u.ownerFlush i) rfl ha (fun _ => rfl) (fun _ => rfl) (fun _ => rfl) fun _ _ _ => ⟨rfl, rfl⟩

theorem surveyGo_writeRuns (ha : s.awake) :
    s.writeRuns p (.surveyGo p) Reg.surveyGo 0 1 [(Reg.surveyState, 0), (Reg.surveyRecords, 0)] (fun t => t.rd Reg.surveyState 0 = 1 ∧
      t.rd Reg.surveyRecords 0 = 0 ∧ t.surveyTick = s.tick ∧ t.probesSent = s.surveyProbes ∧
      (∃ l, t.control = s.control ++ l ∧ l.map (·.udpSrc) = t.probesSent.map some ∧ ∀ r ∈ l, r.frame.op = 0x20 ∧ r.frame.dst = s.rd Reg.surveyNode 0 ∧
        r.route = some { port := s.rd Reg.surveyPort 0, path := 0 }) ∧
      t = { s with probesSent := t.probesSent, surveyTick := t.surveyTick, control := t.control, queueSeq := t.queueSeq, objs := t.objs
                   quietSince := t.quietSince, krdInt := t.krdInt }) := by
  refine writes_run_keeping rfl ha (by simp +decide) fun q => ?_
  obtain ⟨recs, hgo, hsrc, hrec⟩ := (s.seen q).surveyGo_spec
  rw [show (s.seen q).applyWrite p Reg.surveyGo 0 1 = (s.seen q).surveyGo from rfl]
  have hrd : ∀ o j, (s.seen q).surveyGo.rd o j = (s.seen q).surveyRegisters.rd o j := State.rd_congr (by rw [hgo])
  refine ⟨by rw [hgo]; rfl, State.keepsObjects.congr (t := (s.seen q).surveyRegisters) (s.seen q).surveyRegisters_keeps hrd, fun z hz => ⟨?_, ?_, ?_⟩⟩
  · rw [hz.rd _ (by decide), hrd, State.surveyRegisters_state]
  · rw [hz.rd _ (by decide), hrd, State.surveyRegisters_records]
  · rw [hz.eq ha.2, hgo]
    exact ⟨rfl, rfl, ⟨recs, rfl, hsrc, hrec⟩, rfl⟩

end

/-- Settles O22: each write's effect, by the lemma of its row. -/
theorem actionWritesHaveTheirEffect : Obligations.ActionWritesHaveTheirEffect := by
  intro s p i v ha
  refine ⟨?_, watchSession_writeRuns ha, maskApplyStep_writeRuns ha, ?_, snapshotGo_writeRuns ha, ownerFlush_writeRuns ha, ?_, surveyGo_writeRuns ha⟩
  · exact plain_write rfl ha (fun _ _ => rfl) (by decide)
  · exact fun hleft => plain_write rfl ha (fun q _ => (s.seen q).rejoin_left hleft) (by decide)
  · exact fun hwin => plain_write rfl ha (fun q _ => (s.seen q).checkGo_begins hwin) (by decide)

/-! ## A state that takes every one of these writes -/

/-- Host 0 enabled with a window of 1 MiB at its address 0, a plan of one layer that has counted, a balance group that it has Left, and a check channel over 64 bytes; a link event pends, and a survey of two source ports and three hops is set up. -/
def operating : State :=
  { [(Reg.bootState, 0, 3), (Reg.hostEnable, 0, 1), (Reg.winEnable, 0, 1), (Reg.winId, 0, 5), (Reg.winLength, 0, 2 ^ 20), (Reg.winTarget, 0, 2 ^ 20),
      (Reg.winPerm, 0, 31), (Reg.balanceState, 0, 2), (Reg.checkEnable, 0, 1), (Reg.checkBytes, 0, 64), (Reg.linkEventPending, 0, 1),
      (Reg.watchSkims, 3, 8), (Reg.surveyPortCount, 0, 2), (Reg.surveyHops, 0, 3)].foldl (fun s w => s.wr w.1 w.2.1 w.2.2) State.reset with
    plans := [(0, { emptyPlan 0 with state := 2, layers := [{ layerOf 0 with e := 2 }] })], layerStates := [(0, { load := [(0, 4)] })] }

theorem witness_ActionWritesHaveTheirEffect_state :
    operating.awake ∧ operating.rd Reg.balanceState 0 = 2 ∧
      (operating.xlt (0 / 8) (operating.rd Reg.checkAddr 0) (operating.rd Reg.checkBytes 0) false).isSome = true ∧
      (operating.layerState 0 0).loads (operating.layerE 0 0) = [4, 0] ∧
      operating.surveyProbes = [(49152, 1), (49152, 2), (49152, 3), (49153, 1), (49153, 2), (49153, 3)] :=
  ⟨⟨by decide +kernel, by decide +kernel⟩, by decide +kernel, by decide +kernel, by decide +kernel, by decide +kernel⟩

theorem witness_ActionWritesHaveTheirEffect_accepted :
    operating.writable 16 Reg.linkEventClear 0 1 ∧ operating.writable 0 Reg.watchSession 3 7 ∧ operating.writable 0 Reg.maskApplyStep 0 9 ∧
      operating.writable 0 Reg.rejoin 0 1 ∧ operating.writable 0 Reg.snapshotGo 0 1 ∧ operating.writable 0 Reg.ownerFlush 5 1 ∧
      operating.writable 0 Reg.checkGo 0 1 ∧ operating.writable 16 Reg.surveyGo 0 1 := by
  unfold State.writable
  decide +kernel

end Sys2Proof.Machine
end
